-- ==== Sys2Proof/Word.lean ====
section
/-! DEFINITION. The words of the Umbrik 2420: bytes, 32-bit and 64-bit words (chapter 11). -/

namespace Sys2Proof

/-- One byte: of host memory, of a payload, of a cell; also one element of GF(2^8) (R1). -/
abbrev Byte := BitVec 8

/-- A 32-bit word: an epoch, a CRC. -/
abbrev Word32 := BitVec 32

/-- A 64-bit word: a register, a link, a record address, a stripe id. -/
abbrev Word64 := BitVec 64

end Sys2Proof
end

