-- ==== Sys2Proof/Syntax.lean ====
section
/-! DEFINITION. The commands of the engine: one constructor for each row of spec/opcode_table.json. -/

namespace Sys2Proof

/-- The two registers the row REGISTER_WRITE names (R186). -/
inductive ChainRegister where
  | base  -- CHN_BASE
  | size  -- CHN_SIZE
deriving DecidableEq, Repr

/-- A command: an event that reaches the engine. The operands of a record command are the 64 bytes that a
completed record fetch returned (an OPEN record's two halves are two commands, log entry 4); of a register command, the value
written; of a completion, the staging slot and the bytes read (log entry 5). -/
inductive Instr where
  /-- OPEN (R21): 64 bytes of an OPEN record, its first half or its second. -/
  | openRecord (bytes : List Byte)
  /-- FEED (R78). -/
  | feed (bytes : List Byte)
  /-- SINK (R82). -/
  | sink (bytes : List Byte)
  /-- DROP (R106). -/
  | drop (bytes : List Byte)
  /-- ABORT (R39). -/
  | abort (bytes : List Byte)
  /-- REGION (R185). -/
  | region (bytes : List Byte)
  /-- TUNE (R183). -/
  | tune (bytes : List Byte)
  /-- LEVEL (R165). -/
  | level (bytes : List Byte)
  /-- BAD_KIND (R171): a record whose kind is not 1..8. -/
  | badKind (bytes : List Byte)
  /-- RECORD_FETCH_ERROR (R133). -/
  | recordFetchError
  /-- FETCH_DISCARD (R169). -/
  | fetchDiscard
  /-- WALKER_WRITE_ISSUED (R173). -/
  | walkerWriteIssued
  /-- LINK_WORD_READ (R175): the link word read. -/
  | linkWordRead (link : Word64)
  /-- POLL_TIMER (R175). -/
  | pollTimer
  /-- CHN_CHECK (R176). -/
  | chnCheck (value : Word64)
  /-- CHN_HEAD (R186). -/
  | chnHead (value : Word64)
  /-- REGISTER_WRITE (R186): CHN_BASE or CHN_SIZE. -/
  | registerWrite (reg : ChainRegister) (value : Word64)
  /-- RUN_SET (R187): a write of ENG_CTRL. -/
  | runSet (value : Word64)
  /-- RUN_CLEAR (R169): a write of ENG_CTRL. -/
  | runClear (value : Word64)
  /-- HELD_START (R187). -/
  | heldStart
  /-- ATTN_ENABLE (R192): a write of ENG_CTRL. -/
  | attnEnable (value : Word64)
  /-- CLEAR_ATTENTION (R192): a write of ENG_STAT. -/
  | clearAttention (value : Word64)
  /-- SOFT_RESET (R193): a write of ENG_CTRL. -/
  | softReset (value : Word64)
  /-- FULL_RESET (R194). -/
  | fullReset
  /-- OUTSTANDING_RETURN (R153). -/
  | outstandingReturn
  /-- TICK (R157). -/
  | tick
  /-- STALL_EXPIRY (R117) of one context. -/
  | stallExpiry (slot : Fin 64)
  /-- TABLE_FULL (R178). -/
  | tableFull
  /-- BLOCKED_RECHECK (R178). -/
  | blockedRecheck
  /-- ISSUE_OPPORTUNITY (R132). -/
  | issueOpportunity
  /-- CLAIM_LINE_SERVE (R136). -/
  | claimLineServe
  /-- SOURCE_READ_COMPLETE (R147): the staging slot (either one of a pair) and the bytes read. -/
  | sourceReadComplete (slot : Fin 32) (data : List Byte)
  /-- SOURCE_READ_ERROR (R148): the staging slot (either one of a pair). -/
  | sourceReadError (slot : Fin 32)
  /-- COMBINE_COMPLETE (R98). -/
  | combineComplete
  /-- EMIT_COMPLETE (R67). -/
  | emitComplete
  /-- SOLVE_COMPLETE (R127). -/
  | solveComplete
  /-- DRAINED (R43) of one context. -/
  | drained (slot : Fin 64)
  /-- TEARDOWN_RESUME (R92) of one context. -/
  | teardownResume (slot : Fin 64)
deriving DecidableEq, Repr

end Sys2Proof
end

