-- ==== Sys2Proof/Machine/Bytes.lean ====
section
/-! DEFINITION. Little-endian fields (R195): reading them out of bytes and writing them as bytes. -/

namespace Sys2Proof.Machine

/-- The number whose little-endian bytes are given, the lowest offset first (R195). -/
def ofLE : List Byte → Nat
  | [] => 0
  | b :: rest => b.toNat + 256 * ofLE rest

/-- The `n` little-endian bytes of a number (R195); what does not fit is cut off. -/
def toLE : (n : Nat) → Nat → List Byte
  | 0, _ => []
  | n + 1, v => BitVec.ofNat 8 v :: toLE n (v / 256)

/-- The number in the `n` bytes at offset `off` of a structure. -/
def fieldAt (bytes : List Byte) (off n : Nat) : Nat := ofLE ((bytes.drop off).take n)

/-- The byte at offset `off`; a byte past the end reads 00 (log entries 4 and 5). -/
def byteAt (bytes : List Byte) (off : Nat) : Byte := bytes.getD off 0

/-- The `n` bytes at offset `off` are all zero (the must-be-zero check of R195). -/
def zeroAt (bytes : List Byte) (off n : Nat) : Bool := ((bytes.drop off).take n).all (· = 0)

/-- Exactly `n` bytes: cut, or filled with 00 (log entries 4 and 5). -/
def exactBytes (n : Nat) (bytes : List Byte) : List Byte := bytes.take n ++ List.replicate (n - bytes.length) 0

/-- A signed value as `n` two's complement bytes, little-endian (R195). -/
def signedLE (n : Nat) (v : Int) : List Byte := toLE n (v % (256 ^ n : Nat)).toNat

end Sys2Proof.Machine
end

