-- ==== Sys2Proof/Machine/Crc.lean ====
section
/-! DEFINITION. CRC-32C (R14). -/

namespace Sys2Proof.Machine

/-- One bit step: shift right, and exclusive-or 0x82F63B78 when the lowest bit was 1 (R14). -/
def crcBit (r : Word32) : Word32 := if r.getLsbD 0 then (r >>> 1) ^^^ 0x82F63B78#32 else r >>> 1

/-- One byte: exclusive-or it into the low eight bits, then eight bit steps (R14). -/
def crcByte (r : Word32) (b : Byte) : Word32 :=
  crcBit (crcBit (crcBit (crcBit (crcBit (crcBit (crcBit (crcBit (r ^^^ b.setWidth 32))))))))

/-- The CRC-32C of a sequence of bytes (R14). -/
def crc32c (bytes : List Byte) : Word32 := bytes.foldl crcByte 0xFFFFFFFF#32 ^^^ 0xFFFFFFFF#32

end Sys2Proof.Machine
end

