-- ==== Sys2Proof/Machine/Field.lean ====
section
/-! DEFINITION. Arithmetic of GF(2^8) from the coefficient ROM (R1 to R4), generator rows (R6) and the solve (R8, R126). -/

namespace Sys2Proof.Machine

/-- Addition is exclusive-or (R1). -/
def gfAdd (a b : Byte) : Byte := a ^^^ b

/-- Multiplication by 02: shift left, and reduce by 0x11D when a 1 is shifted out (R1). -/
def gfDouble (a : Byte) : Byte := if a.getLsbD 7 then (a <<< 1) ^^^ 0x1D#8 else a <<< 1

/-- `n` successive values from `a`, each the double of the one before. -/
def doublings : Nat → Byte → List Byte
  | 0, _ => []
  | n + 1, a => a :: doublings n (gfDouble a)

/-- EXP of the coefficient ROM: 255 entries from 01 (R2). -/
def expTable : List Byte := doublings 255 1#8

/-- The ROM's EXP entry at index `i` (R2). -/
def expAt (i : Nat) : Byte := expTable.getD i 0

/-- The ROM's LOG entry of a nonzero `a`: the index at which EXP is `a` (R2). There is none for 00, which nothing asks for. -/
def logOf (a : Byte) : Nat := expTable.idxOf a

/-- The product (R3). -/
def gfMul (a b : Byte) : Byte :=
  if a = 0 ∨ b = 0 then 0 else expAt ((logOf a + logOf b) % 255)

/-- The inverse of a nonzero element (R4). -/
def gfInv (a : Byte) : Byte := expAt ((255 - logOf a) % 255)

/-- The generator row of fragment `i`, one entry for each data column (R6). -/
def generatorRow (k i : Nat) : List Byte :=
  (List.range k).map (fun d =>
    if i < k then (if d = i then 1#8 else 0#8)
    else gfInv (BitVec.ofNat 8 i ^^^ BitVec.ofNat 8 d))

/-- A row times a scalar. -/
def scaleRow (c : Byte) (row : List Byte) : List Byte := row.map (gfMul c)

/-- The sum of two rows. -/
def addRows (a b : List Byte) : List Byte := List.zipWith gfAdd a b

/-- The field sum of `row`'s entries each times the matching row of `m`: a row vector times a matrix (R8, R126). -/
def rowTimes (width : Nat) : (row : List Byte) → (m : List (List Byte)) → List Byte
  | c :: cs, r :: rs => addRows (scaleRow c r) (rowTimes width cs rs)
  | _, _ => List.replicate width 0

/-- A matrix row beside its half of the growing inverse (R126). -/
abbrev Augmented := List (List Byte × List Byte)

/-- The first row number at or below `from`, counting from `i`, whose entry in column `c` is not 00 (R126). -/
def pivotFrom (c : Nat) : (i : Nat) → Augmented → Option Nat
  | _, [] => none
  | i, r :: rest => if c ≤ i ∧ r.1.getD c 0 ≠ 0 then some i else pivotFrom c (i + 1) rest

/-- Add to `r` the multiple of the pivot row that clears column `c` of it (R126). -/
def clearColumn (c : Nat) (p r : List Byte × List Byte) : List Byte × List Byte :=
  let f := r.1.getD c 0
  (addRows r.1 (scaleRow f p.1), addRows r.2 (scaleRow f p.2))

/-- One column of the elimination: choose the pivot, exchange it into place, scale it by the pivot's inverse and clear the
column of every other row (R126). -/
def eliminateColumn (c : Nat) (m : Augmented) : Augmented :=
  match pivotFrom c 0 m with
  | none => m
  | some i =>
    let p := m.getD i ([], [])
    let q := m.getD c ([], [])
    let v := gfInv (p.1.getD c 0)
    let p' := (scaleRow v p.1, scaleRow v p.2)
    let m' := (m.set i q).set c p'
    m'.mapIdx (fun j r => if j = c then r else clearColumn c p' r)

/-- The inverse of a k × k matrix by elimination, column after column (R126). -/
def invertMatrix (k : Nat) (m : List (List Byte)) : List (List Byte) :=
  let start : Augmented := m.mapIdx (fun j r => (r, (List.range k).map (fun d => if d = j then 1#8 else 0#8)))
  ((List.range k).foldl (fun a c => eliminateColumn c a) start).map (·.2)

/-- The working table of a solve: one coefficient row for each target, columns in source order (R8, R9, R126). -/
def solveTable (k : Nat) (sources targets : List Nat) : List (List Byte) :=
  let inverse := invertMatrix k (sources.map (generatorRow k))
  targets.map (fun t => rowTimes k (generatorRow k t) inverse)

/-- Fold `d` payload bytes times the coefficient `c` into a cell (R10): bytes past the `d`-th are not written, and a payload
byte that is missing adds 00. -/
def foldCell (c : Byte) : (d : Nat) → (payload cell : List Byte) → List Byte
  | 0, _, cell => cell
  | _ + 1, _, [] => []
  | d + 1, [], x :: cell => x :: foldCell c d [] cell
  | d + 1, p :: payload, x :: cell => gfAdd x (gfMul c p) :: foldCell c d payload cell

end Sys2Proof.Machine
end

