-- ==== Sys2Proof/Config.lean ====
section
/-! DEFINITION. What the chip fixes (sizes of its tables and queues) and the free values the manual leaves open. -/

namespace Sys2Proof.Config

/-- Context slots (R19). -/
def slotCount : Nat := 64
/-- Fragment indices a context can name (R96). -/
def fragmentCount : Nat := 24
/-- Feed Table entries (R74). -/
def feedEntries : Nat := 1024
/-- Sink Table entries (R75). -/
def sinkEntries : Nat := 256
/-- The bound on entries in use plus waiting statuses (R85, R91). -/
def statusBound : Nat := 1280
/-- Cells of the Accumulation Store (R29). -/
def cellCount : Nat := 512
/-- Bytes of one cell (R10, R12). -/
def cellBytes : Nat := 4096
/-- Staging slots (R138). -/
def stagingSlots : Nat := 32
/-- Places of the write queue (R134). -/
def writePlaces : Nat := 64
/-- Host regions (R184). -/
def regionCount : Nat := 8
/-- Bytes of the trailer (R12). -/
def trailerBytes : Nat := 32

/-- FREE VALUE (R136: "the writers place writes or join the claim line in any order"). The key that orders
writer `w` among the writers readied by the event numbered `draw`; lower keys go first. Log entry 7. -/
opaque writerKey : (draw : Nat) → (w : Nat) → Nat

/-- FREE VALUE: the MSI address the host programmed, an input from configuration space (R191). Log entry 9. -/
opaque msiAddress : (draw : Nat) → BitVec 64
/-- FREE VALUE: the MSI data the host programmed (R191). Log entry 9. -/
opaque msiData : (draw : Nat) → BitVec 32
/-- FREE VALUE: whether the MSI capability is enabled when the message would be issued (R191). Log entry 9. -/
opaque msiEnabled : (draw : Nat) → Bool

/-- FREE VALUE: whether one write of ENG_CTRL that sets RUN and clears ATTN_ENABLE applies ATTN_ENABLE first;
R186 gives no order. Log entry 16. -/
opaque attentionFirst : (draw : Nat) → Bool

end Sys2Proof.Config
end

