-- ==== Sys2Proof/Machine/Table.lean ====
section
/-! DEFINITION. Numbered tables as sorted lists of the entries in use: one canonical form for every table of the engine. -/

namespace Sys2Proof.Machine

/-- A table of entries by number. Only entries in use are listed, numbers strictly rising (`Table.wf`). -/
structure Table (α : Type) where
  /-- The listed entries. -/
  rows : List (Nat × α)
deriving DecidableEq, Repr

/-- The value listed for `k` in a list of rows. -/
def findRow {α : Type} (k : Nat) : List (Nat × α) → Option α
  | [] => none
  | (j, v) :: rest => if j = k then some v else findRow k rest

/-- The rows with `k` set to `v`, kept in rising order. -/
def putRow {α : Type} (k : Nat) (v : α) : List (Nat × α) → List (Nat × α)
  | [] => [(k, v)]
  | (j, u) :: rest =>
    if k < j then (k, v) :: (j, u) :: rest
    else if j = k then (k, v) :: rest
    else (j, u) :: putRow k v rest

/-- The table with no entry in use. -/
def Table.empty {α : Type} : Table α := ⟨[]⟩

/-- The entry numbered `k`, if it is in use. -/
def Table.get {α : Type} (t : Table α) (k : Nat) : Option α := findRow k t.rows

/-- The table with entry `k` set. -/
def Table.set {α : Type} (t : Table α) (k : Nat) (v : α) : Table α := ⟨putRow k v t.rows⟩

/-- The table with entry `k` no longer in use. -/
def Table.erase {α : Type} (t : Table α) (k : Nat) : Table α := ⟨t.rows.filter (fun r => r.1 ≠ k)⟩

/-- How many entries are in use. -/
def Table.size {α : Type} (t : Table α) : Nat := t.rows.length

/-- The numbers in use, rising. -/
def Table.keys {α : Type} (t : Table α) : List Nat := t.rows.map (·.1)

/-- The table with `f` applied to every entry in use. -/
def Table.mapValues {α β : Type} (t : Table α) (f : α → β) : Table β := ⟨t.rows.map (fun r => (r.1, f r.2))⟩

/-- The lowest number below `cap` that is not in use. -/
def Table.lowestFree {α : Type} (t : Table α) (cap : Nat) : Option Nat :=
  (List.range cap).find? (fun k => (t.get k).isNone)

/-- Canonical form: numbers strictly rising. -/
def risingRows {α : Type} : List (Nat × α) → Bool
  | [] => true
  | [_] => true
  | (j, _) :: (k, v) :: rest => decide (j < k) && risingRows ((k, v) :: rest)

/-- A table is in canonical form. -/
def Table.wf {α : Type} (t : Table α) : Bool := risingRows t.rows

/-- A count that an unlisted entry holds as 0. -/
def Table.count (t : Table Nat) (k : Nat) : Nat := (t.get k).getD 0

/-- The counts with entry `k` set to `n`; a 0 is not listed. -/
def Table.setCount (t : Table Nat) (k n : Nat) : Table Nat := if n = 0 then t.erase k else t.set k n

end Sys2Proof.Machine
end

