-- ==== Sys2Proof/Machine/State.lean ====
section
/-! DEFINITION. The state of the engine, whole, as plain data, and its value after a full reset. -/

namespace Sys2Proof.Machine

/-! ### Codes (chapter 11) -/

/-- The role of a fragment in a rebuild (section 2.3). -/
inductive Role where
  | absent | source | spare | target | failed
deriving DecidableEq, Repr

/-- The state of a context that is not FREE (section 2.4); a slot with no context is FREE. -/
inductive CtxState where
  | pending | solving | running | draining
deriving DecidableEq, Repr

/-- How a rebuild ended (R37). -/
inductive EndOutcome where
  | complete | aborted | short | timedOut | bufferReused
deriving DecidableEq, Repr

/-- The state of a position slot that is not CLOSED (R50). -/
inductive PosState where
  | opened | full | emitting | done
deriving DecidableEq, Repr

/-- The state of a feed log entry that is not NONE (R52). -/
inductive LogState where
  | logged | inflight | contributed | refused | readFailed
deriving DecidableEq, Repr

/-- The disposition of a record (section 11.2). -/
inductive Disposition where
  | posted | taken | done | refused
deriving DecidableEq, Repr

/-- Why a record is refused (section 11.2). -/
inductive Reason where
  | badKind | badField | slotBusy | duplicateStripe | noContext | ending | role
  | beyondFragment | address | overlap | tableFull | regionInUse
deriving DecidableEq, Repr

/-- The walker states (R167). -/
inductive WalkerState where
  | idle | fetching | parked | blocked | faulted
deriving DecidableEq, Repr

/-- Walker faults (R179). -/
inductive WalkerFault where
  | fetchError | badLink | notPosted | badStart
deriving DecidableEq, Repr

/-- The outcomes of a FEED segment (R86). -/
inductive FeedOutcome where
  | used | refused | readFailed | late | duplicate | unused
deriving DecidableEq, Repr

/-- The outcomes of a SINK segment (R87). -/
inductive SinkOutcome where
  | written | unwritten
deriving DecidableEq, Repr

/-- Why a staged segment is refused (R99). -/
inductive Refused where
  | malformed | misplaced | epoch | length | corrupt
deriving DecidableEq, Repr

/-! ### Writes and requests of the Memory Port -/

/-- The writers of the write queue (R135). -/
inductive Writer where
  | walker | registry | emit | control
  | slot (i : Nat)
deriving DecidableEq, Repr

/-- What a write reports, for what its issue does: a first disposition TAKEN; a final disposition, which counts in records
finalised (R180) and raises attention if its record carries NOTIFY (R182); the rest do nothing at their issue. -/
inductive WriteKind where
  | taken
  | final (notify : Bool)
  | progress
  | report
  | unit
  | message
deriving DecidableEq, Repr

/-- A run of bytes at a host address. -/
structure Span where
  /-- The host address of the first byte. -/
  addr : Nat
  /-- The bytes. -/
  bytes : List Byte
deriving DecidableEq, Repr

/-- A write in the write queue: its writer and the bytes captured when it was placed (R134). A final disposition may change
two spans of its record in the one write (R196). -/
structure QWrite where
  /-- Who placed it. -/
  writer : Writer
  /-- What it is. -/
  kind : WriteKind
  /-- What it puts into host memory. -/
  spans : List Span
deriving DecidableEq, Repr

/-- What a record fetch reads (R133, R170, R175). -/
inductive FetchKind where
  | firstHalf | secondHalf | linkWord
deriving DecidableEq, Repr

/-- A record fetch the Walker asked for (R133). -/
structure Fetch where
  /-- What is read. -/
  what : FetchKind
  /-- The host address. -/
  addr : Word64
  /-- Reissues left. -/
  reissues : Nat
  /-- RUN was cleared while it was under way: its bytes are to be discarded (R169). -/
  discard : Bool
deriving DecidableEq, Repr

/-- A record fetch in the port's hands. -/
structure PortFetch where
  /-- The fetch. -/
  fetch : Fetch
  /-- On the link; clear while it waits for its reissue. -/
  outstanding : Bool
deriving DecidableEq, Repr

/-- A request the port has put on the link (R132). -/
inductive LinkRequest where
  | fetch (addr : Word64) (length : Nat)
  | write (w : QWrite)
  /-- The MSI message, and whether the function's MSI capability lets it out (R191). -/
  | message (w : QWrite) (enabled : Bool)
  | read (addr length : Nat)
deriving DecidableEq, Repr

/-- Phases of a staging slot in use (R139). -/
inductive SlotPhase where
  | reading | retrying | staged | combining
deriving DecidableEq, Repr

/-- A staging slot in use (R138). -/
structure Staging where
  /-- The owner: context, segment, fragment, Feed entry. -/
  ctx : Nat
  seg : Nat
  frag : Nat
  feed : Nat
  /-- Host address and length of the segment unit. -/
  addr : Nat
  length : Nat
  phase : SlotPhase
  /-- Reissues left. -/
  reissues : Nat
  /-- Stale mark. -/
  stale : Bool
  /-- The other slot of a pair. -/
  partner : Option Nat
  /-- The unit's bytes once they have arrived. -/
  data : List Byte
deriving DecidableEq, Repr

/-- The Memory Port (chapter 7). -/
structure Port where
  /-- Staging slots in use, of 32 (R138). -/
  staging : Table Staging
  /-- R146. -/
  readLimit : Nat
  pairMode : Bool
  retryCount : Nat
  /-- Rotation pointers of the exposed class and of the other class (R142). -/
  exposedPointer : Nat
  otherPointer : Nat
  /-- The reissue line (R148): slots in order; a pair stands as the slot of its lower segment. -/
  reissueLine : List Nat
  /-- The record fetch in hand (R133). -/
  fetch : Option PortFetch
  /-- The write queue (R134). -/
  writeQueue : List QWrite
  /-- The claim line (R136). -/
  claimLine : List Writer
  /-- Reads issued before a soft reset that have not come back (R153). -/
  outstanding : Nat
deriving DecidableEq, Repr

/-! ### Contexts -/

/-- A feed log entry that is not NONE (R52). -/
structure LogEntry where
  state : LogState
  /-- The Feed Table entry whose buffer holds the segment. -/
  feed : Nat
  verified : Bool
deriving DecidableEq, Repr

/-- A position slot that is not CLOSED (R48). -/
structure Position where
  state : PosState
  seg : Nat
  /-- The feed log row; an unlisted fragment is NONE. -/
  row : Table LogEntry
  /-- The Sink entry bound for each target; an unlisted target has none. -/
  binds : Table Nat
deriving DecidableEq, Repr

/-- The nine progress counters (R33), each saturating at 65535. -/
structure Counters where
  refusals : Nat
  misplaced : Nat
  epoch : Nat
  corrupt : Nat
  readFailures : Nat
  substitutions : Nat
  stallExpiries : Nat
  late : Nat
  duplicate : Nat
deriving DecidableEq, Repr

/-- How far a DRAINING context's teardown has come: waiting to be drained (R42); finalised, waiting for its last status to
enter the write queue (R92); its last two writes readied, waiting for the OPEN's DONE to enter it (R43, R44). -/
inductive Teardown where
  | draining | statuses | closing
deriving DecidableEq, Repr

/-- What a rebuild is about: what the OPEN record fixes for the context's whole life (R19), after the clamps of R23. -/
structure Geometry where
  /-- The OPEN record's address, and its NOTIFY flag. -/
  openAddr : Word64
  notify : Bool
  stripe : Word64
  epoch : Word32
  k : Nat
  m : Nat
  sizeCode : Nat
  fragLength : Nat
  width : Nat
  errorLimit : Nat
  stallLimit : Nat
deriving DecidableEq, Repr

/-- A context (R19), with what the other blocks hold for its slot: roles and counts of the Source Monitor (R96), position table
of the Window Unit (R48), feed and sink lists of the Buffer Registry (R76), coefficient table of the Solver (R123). -/
structure Ctx where
  geo : Geometry
  state : CtxState
  /-- The numbers of the cells lent, W × T of them or none (R29). -/
  cells : List Nat
  outcome : Option EndOutcome
  /-- ABORT records taken and not final, with their NOTIFY flags (R19, R172). -/
  aborts : List (Word64 × Bool)
  teardown : Teardown
  counters : Counters
  stalled : Bool
  exposed : Bool
  /-- Retired count and counters carried by the last progress write placed (R35). -/
  lastProgress : Option (Nat × Counters)
  /-- The stall timer (R116). -/
  timerRuns : Bool
  elapsed : Nat
  /-- Roles by fragment; an unlisted fragment is ABSENT (R96). -/
  roles : Table Role
  /-- Error counts and clean-run counts by fragment; an unlisted one is 0 (R96). -/
  errors : Table Nat
  cleanRuns : Table Nat
  /-- Stall expiries since the last retire (R96). -/
  expiries : Nat
  base : Nat
  retired : Nat
  /-- Position slots that are not CLOSED (R48). -/
  slots : Table Position
  /-- Feed and Sink entries in use, oldest first (R76). -/
  feedList : List Nat
  sinkList : List Nat
  /-- The installed coefficient table (R123). -/
  table : Option (List (List Byte))
deriving DecidableEq, Repr

/-- A write that a context slot's writer has ready (R135): a progress write owed, the OPEN's DONE, an ABORT's DONE. -/
inductive CtxWrite where
  | progress
  | openDone (addr : Word64) (outcome : EndOutcome) (notify : Bool)
  | abortDone (addr : Word64) (notify : Bool)
deriving DecidableEq, Repr

/-! ### Feeds, sinks, solves, emits -/

/-- The six outcome counts of a FEED (R74). -/
structure FeedCounts where
  used : Nat
  refused : Nat
  readFailed : Nat
  late : Nat
  duplicate : Nat
  unused : Nat
deriving DecidableEq, Repr

/-- A Feed Table entry in use (R74), with its record's NOTIFY flag (R172). -/
structure FeedEntry where
  addr : Word64
  notify : Bool
  ctx : Nat
  frag : Nat
  first : Nat
  count : Nat
  buffer : Nat
  region : Nat
  pending : Nat
  counts : FeedCounts
deriving DecidableEq, Repr

/-- A Sink Table entry in use (R75), with its record's NOTIFY flag (R172). -/
structure SinkEntry where
  addr : Word64
  notify : Bool
  ctx : Nat
  target : Nat
  first : Nat
  count : Nat
  buffer : Nat
  region : Nat
  pending : Nat
  written : Nat
  unwritten : Nat
deriving DecidableEq, Repr

/-- A final FEED or SINK status that has not entered the write queue (R91): its record, its context, its result area. -/
structure Status where
  addr : Word64
  notify : Bool
  ctx : Nat
  result : List Byte
deriving DecidableEq, Repr

/-- The solve in progress (R122). The working table is the one the solve will install (log entry 25). -/
structure Solve where
  ctx : Nat
  k : Nat
  sources : List Nat
  targets : List Nat
  working : List (List Byte)
deriving DecidableEq, Repr

/-- The emit in progress (R66) and the targets whose unit is still to be placed, ascending. -/
structure Emit where
  ctx : Nat
  seg : Nat
  targetsLeft : List Nat
deriving DecidableEq, Repr

/-- The slot in COMBINING, and whether it was free of the stale mark when the Combine Unit took it (R98, R151). -/
structure Combining where
  slot : Nat
  judged : Bool
deriving DecidableEq, Repr

/-- What is held until the combine in progress has been reported (R98, R114, R120; log entry 6): the dispatch of the DROP or ABORT record in the
fetch buffer; the swap, or the end TIMED_OUT, that a stall expiry of a context brings. -/
inductive Held where
  | dispatch
  | swap (ctx : Nat)
  | timeOut (ctx : Nat)
deriving DecidableEq, Repr

/-! ### Walker, governor, control -/

/-- What a FETCHING Walker waits for: a fetch it asked for; a combine to be reported before it dispatches (log entry 6); the
issue of the first disposition it readied (R173). -/
inductive Phase where
  | fetch | held | link
deriving DecidableEq, Repr

/-- The Chain Walker (R167). -/
structure Walker where
  state : WalkerState
  phase : Phase
  /-- RUN was cleared and the Walker is on its way to IDLE (R169). -/
  stopping : Bool
  cursor : Word64
  next : Word64
  newHead : Bool
  buffer : List Byte
  /-- The fetch asked for and not yet issued for the first time. -/
  wanted : Option Fetch
  pollInterval : Nat
  /-- The interval the poll timer counts while it runs. -/
  pollTimer : Option Nat
  checkOwed : Bool
  blockedLimit : Nat
  /-- Elapsed milliseconds while the blocked timer runs. -/
  blockedTimer : Option Nat
  /-- The Registry has reported room for the blocked record (R85). -/
  room : Bool
  /-- The disposition write readied and not yet placed (R173). -/
  ready : Option QWrite
  /-- The context whose role update the readied DONE of a DROP brings; its progress goes behind that DONE (R106). -/
  dropped : Option Nat
  /-- A disposition write has been readied and not yet issued (R173). -/
  unissued : Bool
  faultReason : Option WalkerFault
  faultAddr : Word64
  taken : Nat
deriving DecidableEq, Repr

/-- The Rate Governor (R156); the tick is held as the ticks since reset. -/
structure Governor where
  level : Nat
  credit : Int
  ticks : Nat
deriving DecidableEq, Repr

/-- A host region (R184); rights 0 none, 1 read, 2 write, 3 read+write. -/
structure Region where
  base : Nat
  length : Nat
  rights : Nat
deriving DecidableEq, Repr

/-- The values of the report block (R189). -/
structure ReportValues where
  walkerState : WalkerState
  faultReason : Option WalkerFault
  level : Nat
  credit : Int
  cursor : Word64
  faultAddr : Word64
  taken : Nat
  finalised : Nat
  active : Nat
  waiting : Nat
  freeCells : Nat
  freeFeeds : Nat
  freeSinks : Nat
deriving DecidableEq, Repr

/-- The Control Interface (chapter 10). -/
structure Control where
  run : Bool
  attnEnable : Bool
  attention : Bool
  resetting : Bool
  chnBase : Word64
  chnSize : Word64
  chnHead : Word64
  /-- Enabled regions by number; an unlisted region is disabled (R184). -/
  regions : Table Region
  finalised : Nat
  /-- The values of the last report write placed (R190). -/
  lastReport : Option ReportValues
  /-- A report write is owed (R190). -/
  reportOwed : Bool
  /-- MSI messages readied and not yet placed (R191). -/
  messages : Nat
deriving DecidableEq, Repr

/-! ### The whole state -/

/-- The engine. Blocks with state of their own are fields; what is held for a context slot is in its context. The last
three fields are the model's own. -/
structure State where
  ctl : Control
  walker : Walker
  gov : Governor
  port : Port
  /-- The context table: slots that are not FREE (R19). -/
  ctxs : Table Ctx
  freeCells : Nat
  cellWait : List Nat
  /-- Writes each slot's writer has ready, in its order; an unlisted slot has none (R135). -/
  ready : Table (List CtxWrite)
  feeds : Table FeedEntry
  sinks : Table SinkEntry
  statusQueue : List Status
  /-- Positions waiting for the Emit Unit, as context and segment (R65). -/
  emitQueue : List (Nat × Nat)
  emit : Option Emit
  solveQueue : List Nat
  solving : Option Solve
  combineQueue : List Nat
  combining : Option Combining
  held : List Held
  /-- The Accumulation Store: cells that are not all 00, by number. -/
  store : Table (List Byte)
  /-- Commands waiting, first in first out. -/
  pending : List Instr
  /-- Requests put on the link, oldest first (log entry 10). -/
  issued : List LinkRequest
  /-- Free values used so far (log entry 30). -/
  draws : Nat
deriving DecidableEq, Repr

/-- The engine has no event that stops it, so no meaning answers with a fault: there is no reason to name. -/
inductive Fault where
deriving DecidableEq, Repr

/-- Why a step has no meaning. -/
inductive Refusal where
  /-- Raised by exec's arm of a command that has no meaning yet; safe. No arm is in this state. -/
  | notModelled (mnemonic : String)
deriving DecidableEq, Repr

/-- The Control Interface after a full reset (R186, R190, R191, R194). -/
def Control.reset : Control :=
  { run := false, attnEnable := false, attention := false, resetting := false,
    chnBase := 0, chnSize := 0, chnHead := 0, regions := Table.empty, finalised := 0,
    lastReport := none, reportOwed := false, messages := 0 }

/-- The Walker after either reset (R167). -/
def Walker.reset : Walker :=
  { state := .idle, phase := .fetch, stopping := false, cursor := 0, next := 0, newHead := false, buffer := [],
    wanted := none, pollInterval := 10, pollTimer := none, checkOwed := false, blockedLimit := 50,
    blockedTimer := none, room := false, ready := none, dropped := none, unissued := false, faultReason := none, faultAddr := 0,
    taken := 0 }

/-- The Rate Governor after either reset (R156). -/
def Governor.reset : Governor := { level := 8, credit := 524288, ticks := 0 }

/-- The Memory Port after a full reset (R153, R154). -/
def Port.reset : Port :=
  { staging := Table.empty, readLimit := 2, pairMode := false, retryCount := 1, exposedPointer := 0, otherPointer := 0,
    reissueLine := [], fetch := none, writeQueue := [], claimLine := [], outstanding := 0 }

/-- The engine after a full reset (R194 and the reset values of each chapter). Cells hold 00: DESIGN CHOICE, log entry 11. -/
def State.reset : State :=
  { ctl := Control.reset, walker := Walker.reset, gov := Governor.reset, port := Port.reset,
    ctxs := Table.empty, freeCells := Config.cellCount, cellWait := [], ready := Table.empty,
    feeds := Table.empty, sinks := Table.empty, statusQueue := [], emitQueue := [], emit := none,
    solveQueue := [], solving := none, combineQueue := [], combining := none, held := [],
    store := Table.empty, pending := [], issued := [], draws := 0 }

end Sys2Proof.Machine
end

