-- ==== Sys2Proof/Machine/Operands.lean ====
section
/-! DEFINITION. Operands: geometry of segments (R13), fields of records, trailers, progress area and report block (chapter 11), and the checks on them. -/

namespace Sys2Proof.Machine

/-! ### Codes -/

/-- Section 11.2. -/
def Role.code : Role → Nat
  | .absent => 0 | .source => 1 | .spare => 2 | .target => 3 | .failed => 4

/-- The role a request byte of OPEN names (R22): FAILED and larger values name none. -/
def roleOfByte (b : Byte) : Option Role :=
  match b.toNat with
  | 0 => some .absent
  | 1 => some .source
  | 2 => some .spare
  | 3 => some .target
  | _ => none

/-- Section 2.4. -/
def CtxState.code : CtxState → Nat
  | .pending => 1 | .solving => 2 | .running => 3 | .draining => 4

/-- Section 11.2. -/
def EndOutcome.code : EndOutcome → Nat
  | .complete => 1 | .aborted => 2 | .short => 3 | .timedOut => 4 | .bufferReused => 5

/-- Section 11.2. -/
def Disposition.code : Disposition → Nat
  | .posted => 0 | .taken => 1 | .done => 2 | .refused => 3

/-- DONE and REFUSED are final (section 11.2). -/
def Disposition.isFinal : Disposition → Bool
  | .posted => false | .taken => false | .done => true | .refused => true

/-- Section 11.2. -/
def Reason.code : Reason → Nat
  | .badKind => 1 | .badField => 2 | .slotBusy => 3 | .duplicateStripe => 4 | .noContext => 5 | .ending => 6
  | .role => 7 | .beyondFragment => 8 | .address => 9 | .overlap => 10 | .tableFull => 11 | .regionInUse => 12

/-- R167. -/
def WalkerState.code : WalkerState → Nat
  | .idle => 0 | .fetching => 1 | .parked => 2 | .blocked => 3 | .faulted => 4

/-- R179. -/
def WalkerFault.code : WalkerFault → Nat
  | .fetchError => 1 | .badLink => 2 | .notPosted => 3 | .badStart => 4

/-! ### Geometry (R13) -/

/-- The segment size S of a size code. -/
def segSizeOf (code : Nat) : Nat := 512 * 2 ^ code

/-- The segment count N: the fragment length over S, rounded up. -/
def segCountOf (fragLength size : Nat) : Nat := (fragLength + size - 1) / size

/-- The data length D of segment `seg`. -/
def dataLengthOf (fragLength size seg : Nat) : Nat :=
  if seg + 1 < segCountOf fragLength size then size
  else fragLength - (segCountOf fragLength size - 1) * size

/-- n = k + m. -/
def Geometry.n (g : Geometry) : Nat := g.k + g.m
/-- S. -/
def Geometry.segSize (g : Geometry) : Nat := segSizeOf g.sizeCode
/-- A segment unit is S + 32 bytes. -/
def Geometry.unitSize (g : Geometry) : Nat := g.segSize + Config.trailerBytes
/-- N. -/
def Geometry.segCount (g : Geometry) : Nat := segCountOf g.fragLength g.segSize
/-- D of a segment. -/
def Geometry.dataLength (g : Geometry) (seg : Nat) : Nat := dataLengthOf g.fragLength g.segSize seg

/-! ### Views of a context -/

/-- The role of a fragment (R96). -/
def Ctx.role (c : Ctx) (f : Nat) : Role := (c.roles.get f).getD .absent

/-- The fragments in a role, ascending. -/
def Ctx.fragmentsIn (c : Ctx) (r : Role) : List Nat :=
  (List.range Config.fragmentCount).filter (fun f => c.role f == r)

/-- The sources, ascending: source j of R8 is the j-th. -/
def Ctx.sources (c : Ctx) : List Nat := c.fragmentsIn .source
/-- The targets, ascending (R9). -/
def Ctx.targets (c : Ctx) : List Nat := c.fragmentsIn .target
/-- T. -/
def Ctx.targetCount (c : Ctx) : Nat := c.targets.length
/-- The cells the context needs, W × T (R29). -/
def Ctx.cellNeed (c : Ctx) : Nat := c.geo.width * c.targetCount
/-- No fragment is SPARE (R26). -/
def Ctx.noSpare (c : Ctx) : Bool := (c.fragmentsIn .spare).isEmpty

/-- The position that holds segment `seg`, if a slot does (R49). -/
def Ctx.holding (c : Ctx) (seg : Nat) : Option Position :=
  match c.slots.get (seg % c.geo.width) with
  | some p => if p.seg = seg then some p else none
  | none => none

/-- The context with the position that stands in segment `seg`'s slot replaced. -/
def Ctx.putPosition (c : Ctx) (seg : Nat) (p : Position) : Ctx :=
  { c with slots := c.slots.set (seg % c.geo.width) p }

/-- The number of the cell for segment `seg`'s slot and the `i`-th target (R29). -/
def Ctx.cellOf (c : Ctx) (seg i : Nat) : Nat := c.cells.getD ((seg % c.geo.width) * c.targetCount + i) 0

/-- The cells of segment `seg`'s slot, one for each target. -/
def Ctx.cellsOf (c : Ctx) (seg : Nat) : List Nat := (List.range c.targetCount).map (c.cellOf seg)

/-- Positions of the context in ascending segment order. -/
def insertBySeg (p : Position) : List Position → List Position
  | [] => [p]
  | q :: rest => if p.seg ≤ q.seg then p :: q :: rest else q :: insertBySeg p rest

/-- The positions that are not CLOSED, in ascending segment order. -/
def Ctx.positions (c : Ctx) : List Position := (c.slots.rows.map (·.2)).foldr insertBySeg []

/-- The coefficient in the row of the `i`-th target and the column of the `j`-th source (R9). -/
def Ctx.coefficient (c : Ctx) (i j : Nat) : Byte := ((c.table.getD []).getD i []).getD j 0

/-! ### Record fields (section 11.1 and 11.3) -/

/-- The link. -/
def recLink (b : List Byte) : Word64 := BitVec.ofNat 64 (fieldAt b 0 8)
/-- The kind byte. -/
def recKind (b : List Byte) : Nat := fieldAt b 8 1
/-- The flags byte. -/
def recFlags (b : List Byte) : Nat := fieldAt b 9 1
/-- The NOTIFY flag, bit 0 of the flags. -/
def recNotify (b : List Byte) : Bool := recFlags b % 2 == 1
/-- The disposition byte. -/
def recDisposition (b : List Byte) : Nat := fieldAt b 10 1
/-- The context number. -/
def recContext (b : List Byte) : Nat := fieldAt b 12 1
/-- The fragment index. -/
def recFragment (b : List Byte) : Nat := fieldAt b 13 1
/-- The stripe id of an OPEN, FEED, SINK, DROP or ABORT body. -/
def recStripe (b : List Byte) : Word64 := BitVec.ofNat 64 (fieldAt b 16 8)

/-- Check 3 of R171: must-be-zero bytes 14..15, and no flag but NOTIFY. -/
def headerClean (b : List Byte) : Bool := zeroAt b 14 2 && decide (recFlags b < 2)

/-- Check 4 of R171: the must-be-zero bytes of a body of kinds 2..8 (section 11.3); OPEN's are the Context Manager's (R22). -/
def bodyClean (kind : Nat) (b : List Byte) : Bool :=
  match kind with
  | 2 => zeroAt b 29 3 && zeroAt b 40 8
  | 3 => zeroAt b 29 3 && zeroAt b 40 8
  | 4 => zeroAt b 24 40
  | 5 => zeroAt b 24 40
  | 6 => zeroAt b 34 30
  | 7 => zeroAt b 22 26
  | 8 => zeroAt b 18 30
  | _ => true

/-- FEED and SINK: first segment. -/
def recFirst (b : List Byte) : Nat := fieldAt b 24 4
/-- FEED and SINK: count. -/
def recCount (b : List Byte) : Nat := fieldAt b 28 1
/-- FEED and SINK: buffer address. -/
def recBuffer (b : List Byte) : Nat := fieldAt b 32 8
/-- REGION: base. -/
def recRegionBase (b : List Byte) : Nat := fieldAt b 16 8
/-- REGION: length. -/
def recRegionLength (b : List Byte) : Nat := fieldAt b 24 8
/-- REGION: region number. -/
def recRegionNumber (b : List Byte) : Nat := fieldAt b 32 1
/-- REGION: rights. -/
def recRights (b : List Byte) : Nat := fieldAt b 33 1
/-- TUNE: read limit. -/
def recReadLimit (b : List Byte) : Nat := fieldAt b 16 1
/-- TUNE: pair mode. -/
def recPairMode (b : List Byte) : Nat := fieldAt b 17 1
/-- TUNE: read retry count. -/
def recRetryCount (b : List Byte) : Nat := fieldAt b 18 1
/-- TUNE: poll interval. -/
def recPollInterval (b : List Byte) : Nat := fieldAt b 19 1
/-- TUNE: blocked limit. -/
def recBlockedLimit (b : List Byte) : Nat := fieldAt b 20 2
/-- LEVEL: mode. -/
def recLevelMode (b : List Byte) : Nat := fieldAt b 16 1
/-- LEVEL: value. -/
def recLevelValue (b : List Byte) : Nat := fieldAt b 17 1
/-- OPEN: the role bytes of the 24 fragments. -/
def recRoleBytes (b : List Byte) : List Byte := (List.range Config.fragmentCount).map (fun f => byteAt b (48 + f))

/-- OPEN: the roles the record names; an ABSENT fragment is not listed. -/
def recRoles (b : List Byte) : Table Role :=
  ⟨(List.range Config.fragmentCount).filterMap (fun f =>
    match roleOfByte (byteAt b (48 + f)) with
    | some .absent => none
    | some r => some (f, r)
    | none => none)⟩

/-- OPEN: what the record fixes, after the clamps of R23. -/
def recGeometry (addr : Word64) (b : List Byte) : Geometry :=
  { openAddr := addr, notify := recNotify b, stripe := recStripe b, epoch := BitVec.ofNat 32 (fieldAt b 24 4),
    k := fieldAt b 32 1, m := fieldAt b 33 1, sizeCode := fieldAt b 34 1, fragLength := fieldAt b 28 4,
    width := fieldAt b 35 1,
    errorLimit := max 1 (min 15 (fieldAt b 36 1)), stallLimit := min 60000 (fieldAt b 40 2) }

/-- How many role bytes of an OPEN record hold a role's code. -/
def roleCount (b : List Byte) (r : Role) : Nat := (recRoleBytes b).countP (fun x => roleOfByte x == some r)

/-- Check 4 of R21: the body of an OPEN record passes R22. -/
def openBodyValid (b : List Byte) : Bool :=
  let k := fieldAt b 32 1
  let m := fieldAt b 33 1
  decide (2 ≤ k ∧ k ≤ 20) && decide (1 ≤ m ∧ m ≤ 6) && decide (k + m ≤ 24) &&
  decide (fieldAt b 34 1 ≤ 3) && decide (1 ≤ fieldAt b 28 4 ∧ fieldAt b 28 4 ≤ 2 ^ 28) &&
  decide (1 ≤ fieldAt b 35 1 ∧ fieldAt b 35 1 ≤ 8) && zeroAt b 37 3 && zeroAt b 42 6 &&
  (recRoleBytes b).all (fun x => (roleOfByte x).isSome) && zeroAt (recRoleBytes b) (k + m) (24 - (k + m)) &&
  decide (roleCount b .source = k) && decide (1 ≤ roleCount b .target ∧ roleCount b .target ≤ m)

/-! ### Addresses (R79, R166, R187) -/

/-- Checks 1 to 3 of R187: the chain region is valid (R190). -/
def chainRegionValid (base size : Word64) : Bool :=
  decide (base.toNat % 4096 = 0) && decide (size.toNat % 4096 = 0) &&
  decide (4096 ≤ size.toNat ∧ size.toNat ≤ 2 ^ 30) && decide (base.toNat + size.toNat ≤ 2 ^ 48)

/-- The first three conditions of R166. -/
def recordAddressValid (base size addr : Word64) : Bool :=
  decide (addr.toNat % 64 = 0) && decide (base.toNat + 256 ≤ addr.toNat) &&
  decide (addr.toNat + 64 ≤ base.toNat + size.toNat)

/-- The fourth condition of R166, for an OPEN record. -/
def openFits (base size addr : Word64) : Bool := decide (addr.toNat + 128 ≤ base.toNat + size.toNat)

/-- Read right (R79, R184). -/
def Region.readable (r : Region) : Bool := r.rights == 1 || r.rights == 3
/-- Write right (R79, R184). -/
def Region.writable (r : Region) : Bool := r.rights == 2 || r.rights == 3

/-- A run of `length` bytes lies whole inside the region (R79). -/
def Region.covers (r : Region) (addr length : Nat) : Bool :=
  decide (r.base ≤ addr) && decide (addr + length ≤ r.base + r.length)

/-- The address check of R79: the lowest-numbered region that contains the run and grants the right. -/
def addressRegion (regions : Table Region) (write : Bool) (buffer length : Nat) : Option Nat :=
  if buffer % 64 = 0 then
    (List.range Config.regionCount).find? (fun i =>
      match regions.get i with
      | some r => (if write then r.writable else r.readable) && r.covers buffer length
      | none => false)
  else none

/-- The segments first..first+count-1 contain `seg`. -/
def inRange (first count seg : Nat) : Bool := decide (first ≤ seg) && decide (seg < first + count)

/-- Two runs of segments share one (check 7 of R82). -/
def rangesMeet (first count first' count' : Nat) : Bool :=
  decide (first < first' + count') && decide (first' < first + count)

/-! ### Trailers (section 11.4) -/

/-- The trailer the engine writes into a rebuilt unit (R16). -/
def trailerBytes (g : Geometry) (seg frag : Nat) (data : List Byte) : List Byte :=
  toLE 8 g.stripe.toNat ++ toLE 4 g.epoch.toNat ++ toLE 4 seg ++ toLE 2 (g.dataLength seg) ++
  toLE 1 frag ++ toLE 1 g.k ++ toLE 1 g.m ++ toLE 1 g.sizeCode ++ List.replicate 6 0 ++
  toLE 4 (crc32c data).toNat

/-- The rebuilt segment unit of a target (R12, R16): D cell bytes, S − D bytes of 00, the trailer. -/
def rebuiltUnit (g : Geometry) (seg frag : Nat) (cell : List Byte) : List Byte :=
  let data := exactBytes (g.dataLength seg) cell
  data ++ List.replicate (g.segSize - g.dataLength seg) 0 ++ trailerBytes g seg frag data

/-- The first trailer check that a staged unit fails (R99), or none. -/
def trailerRefusal (g : Geometry) (seg frag : Nat) (unit : List Byte) : Option Refused :=
  let t := unit.drop g.segSize
  if zeroAt t 22 6 = false ∨ 3 < fieldAt t 21 1 ∨ fieldAt t 16 2 = 0 ∨ g.segSize < fieldAt t 16 2 then some .malformed
  else if fieldAt t 0 8 ≠ g.stripe.toNat ∨ fieldAt t 18 1 ≠ frag ∨ fieldAt t 12 4 ≠ seg ∨ fieldAt t 19 1 ≠ g.k ∨
    fieldAt t 20 1 ≠ g.m ∨ fieldAt t 21 1 ≠ g.sizeCode then some .misplaced
  else if fieldAt t 8 4 ≠ g.epoch.toNat then some .epoch
  else if fieldAt t 16 2 ≠ g.dataLength seg then some .length
  else if fieldAt t 28 4 ≠ (crc32c (unit.take (g.dataLength seg))).toNat then some .corrupt
  else none

/-! ### What the engine writes (section 11.3, 11.5) -/

/-- The FEED result area (section 11.3). -/
def feedResult (n : FeedCounts) : List Byte :=
  toLE 2 n.used ++ toLE 2 n.refused ++ toLE 2 n.readFailed ++ toLE 2 n.late ++ toLE 2 n.duplicate ++
  toLE 2 n.unused ++ List.replicate 4 0

/-- The SINK result area (section 11.3). -/
def sinkResult (written unwritten : Nat) : List Byte := toLE 2 written ++ toLE 2 unwritten ++ List.replicate 12 0

/-- The flag byte of the progress area: bit 0 STALLED, bit 1 EXPOSED. -/
def progressFlags (stalled exposed : Bool) : Nat := (if stalled then 1 else 0) + (if exposed then 2 else 0)

/-- The 56 bytes of the progress area (section 11.3, R196). -/
def progressBytes (c : Ctx) : List Byte :=
  toLE 1 c.state.code ++ (List.range Config.fragmentCount).map (fun f => BitVec.ofNat 8 (c.role f).code) ++
  toLE 1 (progressFlags c.stalled c.exposed) ++ [0, 0] ++ toLE 4 c.base ++ toLE 4 c.retired ++
  toLE 2 c.counters.refusals ++ toLE 2 c.counters.misplaced ++ toLE 2 c.counters.epoch ++
  toLE 2 c.counters.corrupt ++ toLE 2 c.counters.readFailures ++ toLE 2 c.counters.substitutions ++
  toLE 2 c.counters.stallExpiries ++ toLE 2 c.counters.late ++ toLE 2 c.counters.duplicate ++ [0, 0]

/-- The fault reason byte (R189): 0 if no fault since reset. -/
def faultCode (r : Option WalkerFault) : Nat := (r.map WalkerFault.code).getD 0

/-- The 256 bytes of the report block (section 11.5, R197). -/
def reportBytes (v : ReportValues) : List Byte :=
  toLE 1 v.walkerState.code ++ toLE 1 (faultCode v.faultReason) ++ toLE 1 v.level ++ [0] ++ signedLE 4 v.credit ++
  toLE 8 v.cursor.toNat ++ toLE 8 v.faultAddr.toNat ++ toLE 8 v.taken ++ toLE 8 v.finalised ++
  toLE 1 v.active ++ toLE 1 v.waiting ++ toLE 2 v.freeCells ++ toLE 2 v.freeFeeds ++ toLE 2 v.freeSinks ++
  List.replicate 208 0

/-- The two bytes of a disposition write, at offset 10 of the record (R196). -/
def dispositionSpan (addr : Word64) (d : Disposition) (reason : Nat) : Span :=
  { addr := addr.toNat + 10, bytes := toLE 1 d.code ++ toLE 1 reason }

/-- The spans of a disposition write with the result area it carries, if any, at offset 48 (R196). -/
def dispositionSpans (addr : Word64) (d : Disposition) (reason : Nat) (result : List Byte) : List Span :=
  if result = [] then [dispositionSpan addr d reason]
  else [dispositionSpan addr d reason, { addr := addr.toNat + 48, bytes := result }]

end Sys2Proof.Machine
end

