-- ==== Sys2Proof/Machine/Flags.lean ====
section
/-! DEFINITION. Flags: attention and its message (R191, R192), saturating counters (R33, R189), what the registers read (R186, R197). -/

namespace Sys2Proof.Machine

/-- One more in a 16-bit counter that saturates (R33). -/
def bump16 (n : Nat) : Nat := min 65535 (n + 1)

/-- One more in a 64-bit count that saturates (R189). -/
def bump64 (n : Nat) : Nat := min (2 ^ 64 - 1) (n + 1)

/-- A cause of attention reaches the Control Interface (R191). -/
def Control.cause (c : Control) : Control :=
  if c.attention then c
  else { c with attention := true, messages := if c.attnEnable then c.messages + 1 else c.messages }

/-- ATTN_ENABLE takes the value written (R192): from clear to set with ATTENTION set places one message. DESIGN
CHOICE (log entry 40): clearing it keeps a message that is readied and still waits for a place in the write queue. -/
def Control.setAttnEnable (c : Control) (on : Bool) : Control :=
  { c with attnEnable := on,
           messages := if on && !c.attnEnable && c.attention then c.messages + 1 else c.messages }

/-- A cause of attention, in the whole state (R191). -/
def State.cause (s : State) : State := { s with ctl := s.ctl.cause }

/-- The chain region named by the registers is valid (R190). -/
def Control.regionValid (c : Control) : Bool := chainRegionValid c.chnBase c.chnSize

/-- A report write is owed if the chain region is valid (R190). -/
def State.oweReport (s : State) : State :=
  if s.ctl.regionValid then { s with ctl := { s.ctl with reportOwed := true } } else s

/-- The six registers (section 11.6). -/
inductive Register where
  | engCtrl | engStat | chnBase | chnSize | chnHead | chnCheck
deriving DecidableEq, Repr

/-- A bit of a register. -/
def flagBit (on : Bool) (place : Nat) : Word64 := if on then BitVec.ofNat 64 (2 ^ place) else 0

/-- What a read of a register returns (R186, R197); a read changes nothing. -/
def State.readRegister (s : State) : Register → Word64
  | .engCtrl => flagBit s.ctl.run 0 ||| flagBit s.ctl.attnEnable 2
  | .engStat => BitVec.ofNat 64 s.walker.state.code ||| flagBit s.ctl.resetting 8 ||| flagBit s.ctl.attention 9
  | .chnBase => s.ctl.chnBase
  | .chnSize => s.ctl.chnSize
  | .chnHead => s.ctl.chnHead
  | .chnCheck => 0

/-- The progress counters of a refused segment (R100). -/
def Counters.countRefusal (n : Counters) (r : Refused) : Counters :=
  let n := { n with refusals := bump16 n.refusals }
  match r with
  | .malformed => n
  | .misplaced => { n with misplaced := bump16 n.misplaced }
  | .epoch => { n with epoch := bump16 n.epoch }
  | .length => n
  | .corrupt => { n with corrupt := bump16 n.corrupt }

/-- All nine counters at 0 (R24). -/
def Counters.zero : Counters :=
  { refusals := 0, misplaced := 0, epoch := 0, corrupt := 0, readFailures := 0, substitutions := 0,
    stallExpiries := 0, late := 0, duplicate := 0 }

/-- All six outcome counts at 0 (R80). -/
def FeedCounts.zero : FeedCounts := { used := 0, refused := 0, readFailed := 0, late := 0, duplicate := 0, unused := 0 }

/-- One more under an outcome (R86). -/
def FeedCounts.add (n : FeedCounts) (o : FeedOutcome) : FeedCounts :=
  match o with
  | .used => { n with used := n.used + 1 }
  | .refused => { n with refused := n.refused + 1 }
  | .readFailed => { n with readFailed := n.readFailed + 1 }
  | .late => { n with late := n.late + 1 }
  | .duplicate => { n with duplicate := n.duplicate + 1 }
  | .unused => { n with unused := n.unused + 1 }

/-- The sum of the six counts. -/
def FeedCounts.total (n : FeedCounts) : Nat := n.used + n.refused + n.readFailed + n.late + n.duplicate + n.unused

end Sys2Proof.Machine
end

