-- ==== Sys2Proof/Machine/Ops.lean ====
section
/-! DEFINITION. Shared operations over contexts, tables, feed logs, cells and the solver (chapters 2 to 6). -/

namespace Sys2Proof.Machine

/-! ### Contexts and views -/

/-- Apply `f` to the context in slot `i`, if the slot is not FREE. -/
def State.modCtx (s : State) (i : Nat) (f : Ctx → Ctx) : State :=
  match s.ctxs.get i with
  | some c => { s with ctxs := s.ctxs.set i (f c) }
  | none => s

/-- Staging slots in use owned by context `i` (R138). -/
def State.slotsInUse (s : State) (i : Nat) : Nat := s.port.staging.rows.countP (fun r => r.2.ctx == i)

/-- The reference count of region `r` (R77): the Feed and Sink entries in use whose region field names it. -/
def State.refCount (s : State) (r : Nat) : Nat :=
  s.feeds.rows.countP (fun e => e.2.region == r) + s.sinks.rows.countP (fun e => e.2.region == r)

/-- Entries in use and statuses waiting, together (R85, R91). -/
def State.statusTotal (s : State) : Nat := s.feeds.size + s.sinks.size + s.statusQueue.length

/-- An emit of one of context `i`'s positions is in progress (R42). -/
def State.emitting (s : State) (i : Nat) : Bool :=
  match s.emit with
  | some e => e.ctx == i
  | none => false

/-- The report block's values as they stand (R189). -/
def State.reportValues (s : State) : ReportValues :=
  { walkerState := s.walker.state, faultReason := s.walker.faultReason, level := s.gov.level, credit := s.gov.credit,
    cursor := s.walker.cursor, faultAddr := s.walker.faultAddr, taken := s.walker.taken, finalised := s.ctl.finalised,
    active := s.ctxs.rows.countP (fun r => r.2.state != .pending), waiting := s.cellWait.length,
    freeCells := s.freeCells, freeFeeds := Config.feedEntries - s.feeds.size,
    freeSinks := Config.sinkEntries - s.sinks.size }

/-! ### Writes a context's slot owes -/

/-- The writes slot `i`'s writer has ready. -/
def State.readyOf (s : State) (i : Nat) : List CtxWrite := (s.ready.get i).getD []

/-- Replace the writes slot `i`'s writer has ready. -/
def State.setReady (s : State) (i : Nat) (ws : List CtxWrite) : State :=
  { s with ready := if ws = [] then s.ready.erase i else s.ready.set i ws }

/-- A context that ended from PENDING and is not yet at its final writes: it owes no progress write but the final one
(R36, R47). -/
def Ctx.silent (c : Ctx) : Bool := c.state == .draining && c.cells.isEmpty && c.teardown != .closing

/-- A progress write is owed for context `i` (R35); causes that arrive while one is owed fold into it. -/
def State.oweProgress (s : State) (i : Nat) : State :=
  match s.ctxs.get i with
  | some c =>
    if c.silent ∨ CtxWrite.progress ∈ s.readyOf i then s else s.setReady i (s.readyOf i ++ [.progress])
  | none => s

/-! ### Outcomes and finalisation (R86 to R91) -/

/-- The record in the fetch buffer of a BLOCKED Walker waits for an entry of the table of `kind`: tell it of room (R85). -/
def State.reportRoom (s : State) (kind : Nat) : State :=
  if s.walker.state = .blocked ∧ recKind s.walker.buffer = kind then
    { s with walker := { s.walker with room := true } } else s

/-- Finalise Feed entry `e`, whose last values are `f` (R89). -/
def State.finaliseFeed (s : State) (e : Nat) (f : FeedEntry) : State :=
  let s := s.modCtx f.ctx (fun c => { c with feedList := c.feedList.filter (· ≠ e) })
  let s := { s with feeds := s.feeds.erase e,
                    statusQueue := s.statusQueue ++ [Status.mk f.addr f.notify f.ctx (feedResult f.counts)] }
  s.reportRoom 2

/-- Finalise Sink entry `e`, whose last values are `k` (R90). -/
def State.finaliseSink (s : State) (e : Nat) (k : SinkEntry) : State :=
  let s := s.modCtx k.ctx (fun c => { c with sinkList := c.sinkList.filter (· ≠ e) })
  let s := { s with sinks := s.sinks.erase e,
                    statusQueue := s.statusQueue ++ [Status.mk k.addr k.notify k.ctx (sinkResult k.written k.unwritten)] }
  s.reportRoom 3

/-- An outcome is handed for one segment of Feed entry `e` (R86, R89). -/
def State.feedOutcome (s : State) (e : Nat) (o : FeedOutcome) : State :=
  match s.feeds.get e with
  | none => s
  | some f =>
    let f := { f with counts := f.counts.add o, pending := f.pending - 1 }
    if f.pending = 0 then s.finaliseFeed e f else { s with feeds := s.feeds.set e f }

/-- An outcome is handed for one segment of Sink entry `e` (R87, R90). -/
def State.sinkOutcome (s : State) (e : Nat) (o : SinkOutcome) : State :=
  match s.sinks.get e with
  | none => s
  | some k =>
    let k := match o with
      | .written => { k with written := k.written + 1, pending := k.pending - 1 }
      | .unwritten => { k with unwritten := k.unwritten + 1, pending := k.pending - 1 }
    if k.pending = 0 then s.finaliseSink e k else { s with sinks := s.sinks.set e k }

/-! ### The feed log (R52 to R57) -/

/-- The position with the entry of fragment `f` replaced; `none` makes it NONE. -/
def Position.putEntry (p : Position) (f : Nat) (e : Option LogEntry) : Position :=
  { p with row := match e with
      | some e => p.row.set f e
      | none => p.row.erase f }

/-- Set the feed log entry of fragment `f` at segment `seg` of context `i`. -/
def State.putEntry (s : State) (i seg f : Nat) (e : Option LogEntry) : State :=
  s.modCtx i (fun c => match c.holding seg with
    | some p => c.putPosition seg (p.putEntry f e)
    | none => c)

/-- Classification's outcome late, also counted in the context (R53). -/
def State.countLate (s : State) (i e : Nat) : State :=
  (s.modCtx i (fun c => { c with counters := { c.counters with late := bump16 c.counters.late } })).feedOutcome e .late

/-- Classification's outcome duplicate, also counted in the context (R53). -/
def State.countDuplicate (s : State) (i e : Nat) : State :=
  (s.modCtx i (fun c => { c with counters := { c.counters with duplicate := bump16 c.counters.duplicate } })).feedOutcome
    e .duplicate

/-- Classify one fed segment `seg` of fragment `f` under Feed entry `e` of context `i` (R53). -/
def State.classify (s : State) (i e f seg : Nat) : State :=
  match s.ctxs.get i with
  | none => s
  | some c =>
    if c.state = .pending then s
    else if seg < c.base then s.countLate i e
    else if c.base + c.geo.width ≤ seg then s
    else match c.holding seg with
      | none => s
      | some p =>
        if p.state ≠ .opened then s.countLate i e
        else if c.role f = .failed then s.feedOutcome e .unused
        else match p.row.get f with
          | none => s.putEntry i seg f (some ⟨.logged, e, false⟩)
          | some en => match en.state with
            | .refused => s.putEntry i seg f (some ⟨.logged, e, false⟩)
            | .readFailed => s.putEntry i seg f (some ⟨.logged, e, false⟩)
            | .logged => s.countDuplicate i e
            | .inflight => s.countDuplicate i e
            | .contributed => s.countDuplicate i e

/-- Classify the `n` segments from `seg` on, ascending (R80). -/
def State.classifyRun (i e f : Nat) : (n seg : Nat) → State → State
  | 0, _, s => s
  | n + 1, seg, s => State.classifyRun i e f n (seg + 1) (s.classify i e f seg)

/-- Scan Feed entries, oldest first, for those that cover `seg` (R54). -/
def State.scanFeeds (i seg : Nat) : List Nat → State → State
  | [], s => s
  | e :: rest, s =>
    State.scanFeeds i seg rest (match s.feeds.get e with
      | some f => if inRange f.first f.count seg then s.classify i e f.frag seg else s
      | none => s)

/-- Zero cells (R51, R61): an unlisted cell is 00 throughout. -/
def zeroCells (store : Table (List Byte)) (cells : List Nat) : Table (List Byte) := cells.foldl Table.erase store

/-- The 4096 bytes of a cell. -/
def cellBytesOf (store : Table (List Byte)) (n : Nat) : List Byte :=
  (store.get n).getD (List.replicate Config.cellBytes 0)

/-- Store a cell's bytes; a cell that is 00 throughout is not listed. -/
def putCell (store : Table (List Byte)) (n : Nat) (bytes : List Byte) : Table (List Byte) :=
  if bytes.all (· = 0) then store.erase n else store.set n bytes

/-- Open a position for segment `seg` of context `i` (R51). -/
def State.openPosition (s : State) (i seg : Nat) : State :=
  match s.ctxs.get i with
  | none => s
  | some c =>
    let s := { s with ctxs := s.ctxs.set i (c.putPosition seg ⟨.opened, seg, Table.empty, Table.empty⟩),
                      store := zeroCells s.store (c.cellsOf seg) }
    State.scanFeeds i seg c.feedList s

/-- Open the `n` positions from segment `seg` on, ascending (R51). -/
def State.openRun (i : Nat) : (n seg : Nat) → State → State
  | 0, _, s => s
  | n + 1, seg, s => State.openRun i n (seg + 1) (s.openPosition i seg)

/-- A stale slot's data was discarded: act on the entry it names (R57). -/
def State.discard (s : State) (i seg f : Nat) : State :=
  match s.ctxs.get i with
  | none => s
  | some c => match c.holding seg with
    | none => s
    | some p => match p.row.get f with
      | none => s
      | some en =>
        if en.state ≠ .inflight then s
        else if c.state = .draining then s
        else if c.role f = .failed then (s.putEntry i seg f none).feedOutcome en.feed .unused
        else s.putEntry i seg f (some { en with state := .logged })

/-! ### Staging slots -/

/-- Free a staging slot (R139). -/
def State.freeStaging (s : State) (k : Nat) : State :=
  { s with port := { s.port with staging := s.port.staging.erase k } }

/-- Free a stale slot with a discard (R140). -/
def State.discardStaging (s : State) (k : Nat) : State :=
  match s.port.staging.get k with
  | none => s
  | some t => (s.freeStaging k).discard t.ctx t.seg t.frag

/-- Discard slots one after another. -/
def State.discardEach : List Nat → State → State
  | [], s => s
  | k :: rest, s => State.discardEach rest (s.discardStaging k)

/-- Mark every slot of context `i` stale (R140); those in RETRYING leave the reissue line and are freed with a discard at once
(R150). DESIGN CHOICE (log entry 37): several are discarded in ascending order of slot number. -/
def State.markStale (s : State) (i : Nat) : State :=
  let staging := s.port.staging.mapValues (fun t => if t.ctx = i then { t with stale := true } else t)
  let retrying := (staging.rows.filter (fun r => r.2.ctx == i && r.2.phase == .retrying)).map (·.1)
  let port := { s.port with staging := staging, reissueLine := s.port.reissueLine.filter (fun k => !retrying.contains k) }
  State.discardEach retrying { s with port := port }

/-! ### Failures and changes at the window (R61, R62) -/

/-- Release the entry of failed fragment `f` at segment `seg` (R62). -/
def State.releaseAt (s : State) (i f seg : Nat) : State :=
  match s.ctxs.get i with
  | none => s
  | some c => match c.holding seg with
    | none => s
    | some p =>
      if p.state ≠ .opened then s
      else match p.row.get f with
        | none => s
        | some en => match en.state with
          | .logged => (s.putEntry i seg f none).feedOutcome en.feed .unused
          | .contributed => (s.putEntry i seg f none).feedOutcome en.feed .unused
          | .inflight => s
          | .refused => s.putEntry i seg f none
          | .readFailed => s.putEntry i seg f none

/-- Release at several segments. -/
def State.releaseEach (i f : Nat) : List Nat → State → State
  | [], s => s
  | seg :: rest, s => State.releaseEach i f rest (s.releaseAt i f seg)

/-- Release fragment `f`'s entries at every OPEN position (R62). DESIGN CHOICE (log entry 36): in ascending segment order. -/
def State.release (s : State) (i f : Nat) : State :=
  match s.ctxs.get i with
  | none => s
  | some c => State.releaseEach i f (c.positions.map (·.seg)) s

/-- CONTRIBUTED becomes LOGGED with verified kept (R61). -/
def LogEntry.reset (e : LogEntry) : LogEntry := if e.state = .contributed then { e with state := .logged } else e

/-- The effect of a source-set change on one position (R61). -/
def Position.reset (p : Position) : Position :=
  if p.state = .opened then { p with row := p.row.mapValues LogEntry.reset } else p

/-- The segments of a context's OPEN positions. -/
def Ctx.openSegs (c : Ctx) : List Nat := (c.positions.filter (fun p => p.state == .opened)).map (·.seg)

/-- Apply R61 to every OPEN position of context `i`. -/
def State.resetContributions (s : State) (i : Nat) : State :=
  match s.ctxs.get i with
  | none => s
  | some c =>
    { s with ctxs := s.ctxs.set i { c with slots := c.slots.mapValues Position.reset },
             store := zeroCells s.store (c.openSegs.flatMap c.cellsOf) }

/-! ### The solver's queue (R124, R128, R129) -/

/-- A context joins the tail of the solve queue (R124). -/
def State.joinSolve (s : State) (i : Nat) : State := { s with solveQueue := s.solveQueue ++ [i] }

/-- The solve in progress is context `i`'s. -/
def State.solvingFor (s : State) (i : Nat) : Bool :=
  match s.solving with
  | some j => j.ctx == i
  | none => false

/-- A source-set change reaches a context in SOLVING (R128): its solve in progress is abandoned and requeued; a queued one
keeps its place. -/
def State.requeueSolve (s : State) (i : Nat) : State :=
  if s.solvingFor i then { s with solving := none, solveQueue := s.solveQueue ++ [i] } else s

/-- A context in SOLVING ends (R129). -/
def State.leaveSolver (s : State) (i : Nat) : State :=
  { s with solveQueue := s.solveQueue.filter (· ≠ i), solving := if s.solvingFor i then none else s.solving }

/-- An IDLE Solver takes the head of a solve queue that is not empty and copies its sources and targets (R125). -/
def State.startSolve (s : State) : State :=
  match s.solving, s.solveQueue with
  | none, i :: rest => match s.ctxs.get i with
    | some c => { s with solveQueue := rest,
                         solving := some ⟨i, c.geo.k, c.sources, c.targets, solveTable c.geo.k c.sources c.targets⟩ }
    | none => { s with solveQueue := rest }
  | _, _ => s

/-! ### Entering SOLVING; the cell wait queue (R27, R29 to R32) -/

/-- The numbers of the cells no context holds. -/
def State.freeCellList (s : State) : List Nat :=
  (List.range Config.cellCount).filter (fun n => !(s.ctxs.rows.any (fun r => r.2.cells.contains n)))

/-- Context `i` takes its cells and enters SOLVING for the first time (R27). -/
def State.enterSolving (s : State) (i : Nat) : State :=
  match s.ctxs.get i with
  | none => s
  | some c =>
    let s1 := { s with
      ctxs := s.ctxs.set i { c with state := .solving, cells := s.freeCellList.take c.cellNeed },
      freeCells := s.freeCells - c.cellNeed }
    ((State.openRun i (min c.geo.width c.geo.segCount) 0 s1).joinSolve i).oweProgress i

/-- Serve the cell wait queue (R32), at most `n` contexts. -/
def State.serveCells : (n : Nat) → State → State
  | 0, s => s
  | n + 1, s => match s.cellWait with
    | [] => s
    | i :: rest => match s.ctxs.get i with
      | none => s
      | some c =>
        if s.freeCells < c.cellNeed then s
        else State.serveCells n (State.enterSolving { s with cellWait := rest } i)

/-- Serve the cell wait queue until its head does not fit or it is empty (R32). -/
def State.serveCellWait (s : State) : State := State.serveCells s.cellWait.length s

/-- Place a context just accepted (R31). -/
def State.placeContext (s : State) (i : Nat) : State :=
  match s.ctxs.get i with
  | none => s
  | some c =>
    if s.cellWait = [] ∧ c.cellNeed ≤ s.freeCells then s.enterSolving i
    else ({ s with cellWait := s.cellWait ++ [i] }).oweProgress i

/-! ### Ending a context (R37, R41, R47) -/

/-- A context in PENDING ends (R47): it leaves the cell wait queue; if it was the head, the queue is served (R32). -/
def State.endPending (s : State) (i : Nat) (o : EndOutcome) : State :=
  let wasHead := s.cellWait.head? = some i
  let s := s.modCtx i (fun c => { c with state := .draining, outcome := some o, teardown := .draining })
  let s := { s with cellWait := s.cellWait.filter (· ≠ i) }
  let s := s.setReady i ((s.readyOf i).filter (· ≠ .progress))
  if wasHead then s.serveCellWait else s

/-- A context in SOLVING or RUNNING enters DRAINING (R41). -/
def State.enterDraining (s : State) (i : Nat) (o : EndOutcome) : State :=
  let s := s.modCtx i (fun c => { c with state := .draining, outcome := some o, teardown := .draining, timerRuns := false })
  let s := (s.oweProgress i).markStale i
  let s := s.leaveSolver i
  { s with emitQueue := s.emitQueue.filter (fun q => q.1 ≠ i) }

/-- An end request (R37): the first one sets the outcome, a later one has no effect. -/
def State.endRequest (s : State) (i : Nat) (o : EndOutcome) : State :=
  match s.ctxs.get i with
  | none => s
  | some c => match c.state with
    | .pending => s.endPending i o
    | .solving => s.enterDraining i o
    | .running => s.enterDraining i o
    | .draining => s

/-! ### Roles, failures, source-set changes (R25, R97, R107 to R113) -/

/-- Roles after several changes. -/
def setRoles : List (Nat × Role) → Table Role → Table Role
  | [], t => t
  | (f, r) :: rest, t => setRoles rest (t.set f r)

/-- A role update, taken whole (R25, R26, R97). -/
def State.roleUpdate (s : State) (i : Nat) (changes : List (Nat × Role)) : State :=
  (s.modCtx i (fun c =>
    let c := { c with roles := setRoles changes c.roles }
    { c with exposed := c.noSpare })).oweProgress i

/-- Count one substitution (R113). -/
def State.countSubstitution (s : State) (i : Nat) : State :=
  s.modCtx i (fun c => { c with counters := { c.counters with substitutions := bump16 c.counters.substitutions } })

/-- The source-set change of context `i` (R112, R113), `failed` being the fragment the role update made FAILED, if any. In
PENDING it is the count alone (R111). -/
def State.changeSources (s : State) (i : Nat) (failed : Option Nat) : State :=
  match s.ctxs.get i with
  | none => s
  | some c =>
    let counted := s.countSubstitution i
    let cleared :=
      let marked := counted.markStale i
      let released := match failed with
        | some f => marked.release i f
        | none => marked
      released.resetContributions i
    match c.state with
    | .pending => counted
    | .solving => (cleared.requeueSolve i).oweProgress i
    | .running =>
      ((cleared.modCtx i (fun c => { c with state := .solving, timerRuns := false })).joinSolve i).oweProgress i
    | .draining => s

/-- A SOURCE fails (R107, R108, R111); R25 lets no fragment of another role take this way. -/
def State.failSource (s : State) (i f : Nat) : State :=
  match s.ctxs.get i with
  | none => s
  | some c =>
    if c.role f ≠ .source then s
    else match (c.fragmentsIn .spare).head? with
      | some p => (s.roleUpdate i [(f, .failed), (p, .source)]).changeSources i (some f)
      | none => ((s.roleUpdate i [(f, .failed)]).release i f).endRequest i .short

/-- A SPARE fails (R109). -/
def State.failSpare (s : State) (i f : Nat) : State := (s.roleUpdate i [(f, .failed)]).release i f

/-! ### Binding, contribution, retire (R59, R63, R68 to R71) -/

/-- The Sink entry in use for context `i` and target `t` that covers `seg` (R84). -/
def State.sinkFor (s : State) (i t seg : Nat) : Option Nat :=
  (s.sinks.rows.find? (fun r => r.2.ctx == i && r.2.target == t && inRange r.2.first r.2.count seg)).map (·.1)

/-- Every target of the position is bound. -/
def Ctx.allBound (c : Ctx) (p : Position) : Bool := c.targets.all (fun t => (p.binds.get t).isSome)

/-- A FULL position whose every target is bound joins the emit queue, once (R63, R65). -/
def State.joinEmit (s : State) (i seg : Nat) : State :=
  match s.ctxs.get i with
  | none => s
  | some c => match c.holding seg with
    | none => s
    | some p =>
      if p.state = .full ∧ c.allBound p ∧ (i, seg) ∉ s.emitQueue then { s with emitQueue := s.emitQueue ++ [(i, seg)] }
      else s

/-- A position that has just become FULL looks for its sinks (R63). -/
def State.bindFull (s : State) (i seg : Nat) : State :=
  (s.modCtx i (fun c => match c.holding seg with
    | some p => c.putPosition seg { p with binds := ⟨c.targets.filterMap (fun t => (s.sinkFor i t seg).map (fun e => (t, e)))⟩ }
    | none => c)).joinEmit i seg

/-- A new Sink entry `e` is bound at one FULL position in its range (R63). -/
def State.bindAt (s : State) (i e t seg : Nat) : State :=
  (s.modCtx i (fun c => match c.holding seg with
    | some p => c.putPosition seg { p with binds := p.binds.set t e }
    | none => c)).joinEmit i seg

/-- A new Sink entry is bound at several FULL positions, ascending (R63). -/
def State.bindEach (i e t : Nat) : List Nat → State → State
  | [], s => s
  | seg :: rest, s => State.bindEach i e t rest (s.bindAt i e t seg)

/-- The position holds a contribution of every source (R59). -/
def Ctx.allContributed (c : Ctx) (p : Position) : Bool :=
  c.sources.all (fun f => match p.row.get f with
    | some e => e.state == .contributed
    | none => false)

/-- The Combine Unit reports a contribution (R59). -/
def State.contribute (s : State) (i seg f : Nat) : State :=
  match s.ctxs.get i with
  | none => s
  | some c => match c.holding seg with
    | none => s
    | some p => match p.row.get f with
      | none => s
      | some en =>
        let p := p.putEntry f (some ⟨.contributed, en.feed, true⟩)
        if c.allContributed p then
          ({ s with ctxs := s.ctxs.set i (c.putPosition seg { p with state := .full }) }).bindFull i seg
        else { s with ctxs := s.ctxs.set i (c.putPosition seg p) }

/-- Hand the outcomes of a feed log row at retire (R69). -/
def State.accountRow : List (Nat × LogEntry) → State → State
  | [], s => s
  | (_, en) :: rest, s =>
    State.accountRow rest (match en.state with
      | .contributed => s.feedOutcome en.feed .used
      | .logged => s.feedOutcome en.feed .unused
      | .inflight => s.feedOutcome en.feed .unused
      | .refused => s
      | .readFailed => s)

/-- Count the segment written on each bound sink (R69, R87). -/
def State.accountSinks : List (Nat × Nat) → State → State
  | [], s => s
  | (_, e) :: rest, s => State.accountSinks rest (s.sinkOutcome e .written)

/-- Account for the row and the sinks of a position that retires (R69). -/
def State.accountPosition (s : State) (p : Position) : State :=
  State.accountSinks p.binds.rows (State.accountRow p.row.rows s)

/-- The fragments a retire names to the Source Monitor (R70). -/
def Ctx.cleanFragments (c : Ctx) (p : Position) : List Nat :=
  c.sources.filter (fun f => match p.row.get f with
    | some e => e.state == .contributed
    | none => false)

/-- One clean run of a fragment (R104). -/
def Ctx.countCleanRun (c : Ctx) (f : Nat) : Ctx :=
  if c.cleanRuns.count f + 1 = 16 then
    { c with errors := c.errors.setCount f 0, cleanRuns := c.cleanRuns.setCount f 0 }
  else { c with cleanRuns := c.cleanRuns.setCount f (c.cleanRuns.count f + 1) }

/-- Restart the stall timer (R116); a context with stall limit 0 has none. -/
def Ctx.restartTimer (c : Ctx) : Ctx := { c with elapsed := 0, timerRuns := c.geo.stallLimit != 0 }

/-- What the Context Manager and the Source Monitor do at a retire (R34, R70, R104, R116, R118). -/
def Ctx.retired1 (c : Ctx) (p : Position) : Ctx :=
  let c := (c.cleanFragments p).foldl Ctx.countCleanRun { c with stalled := false, expiries := 0 }
  if c.state = .running then c.restartTimer else c

/-- The base position `p` of context `i` retires (R69, R70, R71). -/
def State.retireBase (s : State) (i : Nat) (p : Position) : State :=
  let s := s.accountPosition p
  match s.ctxs.get i with
  | none => s
  | some c =>
    let slot := c.base % c.geo.width
    let next := { c.retired1 p with base := c.base + 1, retired := c.retired + 1, slots := c.slots.erase slot }
    let s := { s with ctxs := s.ctxs.set i next }
    let s := if c.base + c.geo.width < c.geo.segCount then s.openPosition i (c.base + c.geo.width) else s
    if c.base + 1 = c.geo.segCount then s.endRequest i .complete else s

/-- Retire the base position while it is DONE (R68, R71), at most `n` times. -/
def State.retireWhile (i : Nat) : (n : Nat) → State → State
  | 0, s => s
  | n + 1, s => match s.ctxs.get i with
    | none => s
    | some c =>
      if c.state = .solving ∨ c.state = .running then
        match c.holding c.base with
        | some p => if p.state = .done then State.retireWhile i n (s.retireBase i p) else s
        | none => s
      else s

/-- The Window Unit examines the base position (R68): at most W positions can be DONE, since an opened slot is OPEN. -/
def State.examineBase (s : State) (i : Nat) : State :=
  match s.ctxs.get i with
  | none => s
  | some c => State.retireWhile i c.geo.width s

end Sys2Proof.Machine
end

