-- ==== Sys2Proof/Machine/Sources.lean ====
section
/-! DEFINITION. Judging staged segments and the stall swap: the Source Monitor and the Combine Unit (chapter 5, R10, R98). -/

namespace Sys2Proof.Machine

/-- The store with payload bytes folded into the cells of the targets numbered in the list, under the coefficients of column
`j` (R10). -/
def foldTargets (c : Ctx) (seg j d : Nat) (payload : List Byte) : List Nat → Table (List Byte) → Table (List Byte)
  | [], store => store
  | i :: rest, store =>
    foldTargets c seg j d payload rest
      (putCell store (c.cellOf seg i) (foldCell (c.coefficient i j) d payload (cellBytesOf store (c.cellOf seg i))))

/-- Combine a checked segment of fragment `f` into its position's cells (R10): every target in ascending order, under the
column of `f` among the sources in ascending order. -/
def State.combine (s : State) (c : Ctx) (seg f : Nat) (payload : List Byte) : State :=
  { s with store := foldTargets c seg (c.sources.idxOf f) (c.geo.dataLength seg) payload
                      (List.range c.targetCount) s.store }

/-- One refusal charged to fragment `f` (R101, step 3). -/
def Ctx.chargeError (c : Ctx) (f : Nat) : Ctx :=
  { c with errors := c.errors.setCount f (c.errors.count f + 1), cleanRuns := c.cleanRuns.setCount f 0 }

/-- The entry becomes REFUSED, its Feed entry counts one refused, and the context counts the refusal (R56, R100). -/
def State.refuseEntry (s : State) (i seg f : Nat) (en : LogEntry) (r : Refused) : State :=
  ((s.putEntry i seg f (some { en with state := .refused })).feedOutcome en.feed .refused).modCtx i
    (fun c => { c with counters := c.counters.countRefusal r })

/-- A staged segment failed check `r`: charged to its fragment (R101), or, if it was verified, the end BUFFER_REUSED (R102). -/
def State.refuseSegment (s : State) (i seg f : Nat) (r : Refused) : State :=
  match s.ctxs.get i with
  | none => s
  | some c => match c.holding seg with
    | none => s
    | some p => match p.row.get f with
      | none => s
      | some en =>
        let refused := s.refuseEntry i seg f en r
        if en.verified then refused.endRequest i .bufferReused
        else
          let charged := refused.modCtx i (fun c => c.chargeError f)
          if c.errors.count f + 1 = c.geo.errorLimit then charged.failSource i f else charged

/-- A staged segment that was not stale when taken is checked, and combined or refused (R98). -/
def State.judge (s : State) (t : Staging) : State :=
  match s.ctxs.get t.ctx with
  | none => s
  | some c => match trailerRefusal c.geo t.seg t.frag t.data with
    | none => (s.combine c t.seg t.frag t.data).contribute t.ctx t.seg t.frag
    | some r => s.refuseSegment t.ctx t.seg t.frag r

/-- The Combine Unit holds a segment of context `i` that it is checking and combining (R98). -/
def State.judging (s : State) (i : Nat) : Bool :=
  match s.combining with
  | some w => w.judged && (match s.port.staging.get w.slot with
    | some t => t.ctx == i
    | none => false)
  | none => false

/-- A read of fragment `f` at segment `seg` failed after its reissues (R103). -/
def State.readFailure (s : State) (i seg f : Nat) : State :=
  match s.ctxs.get i with
  | none => s
  | some c =>
    let s := s.modCtx i (fun c => { c with counters := { c.counters with readFailures := bump16 c.counters.readFailures } })
    match c.holding seg with
    | none => s
    | some p => match p.row.get f with
      | none => s
      | some en => (s.putEntry i seg f (some { en with state := .readFailed })).feedOutcome en.feed .readFailed

/-- The source a stall swap demotes at position `p` (R119). -/
def Ctx.swapSource (c : Ctx) (p : Position) : Option Nat :=
  c.sources.find? (fun f => match p.row.get f with
    | none => true
    | some e => e.state == .refused || e.state == .readFailed)

/-- The spare a stall swap promotes at position `p` (R119). -/
def Ctx.swapSpare (c : Ctx) (p : Position) : Option Nat :=
  (c.fragmentsIn .spare).find? (fun f => match p.row.get f with
    | none => false
    | some e => e.state == .logged)

/-- The oldest OPEN position. -/
def Ctx.oldestOpen (c : Ctx) : Option Position := c.positions.find? (fun p => p.state == .opened)

/-- The source and the spare a stall swap exchanges (R119), if the oldest OPEN position offers both. -/
def Ctx.swapPair (c : Ctx) : Option (Nat × Nat) :=
  c.oldestOpen.bind (fun p => (c.swapSource p).bind (fun f => (c.swapSpare p).map (fun g => (f, g))))

/-- The stall swap of context `i` (R119); a DRAINING context has none (R121). -/
def State.stallSwap (s : State) (i : Nat) : State :=
  match s.ctxs.get i with
  | none => s
  | some c =>
    if c.state = .draining then s
    else match c.swapPair with
      | some (f, g) => (s.roleUpdate i [(f, .spare), (g, .source)]).changeSources i none
      | none => s

/-- The stall timer of the context has reached its limit (R116). -/
def Ctx.expired (c : Ctx) : Bool :=
  c.state == .running && c.timerRuns && c.geo.stallLimit != 0 && decide (c.geo.stallLimit ≤ c.elapsed)

/-- STALLED is set; a progress write is owed if it was clear (R35, R117). -/
def State.setStalled (s : State) (i : Nat) : State :=
  match s.ctxs.get i with
  | none => s
  | some c => if c.stalled then s else (s.modCtx i (fun c => { c with stalled := true })).oweProgress i

/-- The stall timer restarts if the context is still RUNNING (R117, step 5). -/
def State.restartIfRunning (s : State) (i : Nat) : State :=
  s.modCtx i (fun c => if c.state = .running then c.restartTimer else c)

/-- A stall expiry is counted, sets STALLED and raises attention (R117, steps 1 to 3; R118). -/
def State.countExpiry (s : State) (i : Nat) : State :=
  State.cause (State.setStalled (s.modCtx i (fun c => { c with
    counters := { c.counters with stallExpiries := bump16 c.counters.stallExpiries }, expiries := c.expiries + 1 })) i)

/-- The swap an expiry brings, and the timer's restart in a context still RUNNING (R117, step 5; R119). -/
def State.takeSwap (s : State) (i : Nat) : State := (s.stallSwap i).restartIfRunning i

/-- The end a fourth expiry brings (R118). -/
def State.takeTimeOut (s : State) (i : Nat) : State := s.endRequest i .timedOut

/-- What an expiry brings is held until the combine in progress has been reported; the timer, not restarted yet, stands stopped (R117, R120;
log entry 6). DESIGN CHOICE (log entry 41): a retire of the context, still RUNNING, restarts it before that. -/
def State.holdExpiry (s : State) (i : Nat) (h : Held) : State :=
  let s := s.modCtx i (fun c => { c with timerRuns := false })
  { s with held := s.held ++ [h] }

/-- A stall expiry of context `i`, which stands as `c`, is taken (R117, R118): a swap or an end that reaches a segment being
combined takes effect after it (R120); an expiry that brings neither restarts the timer. -/
def State.takeExpiry (s : State) (i : Nat) (c : Ctx) : State :=
  let counted := s.countExpiry i
  if 4 ≤ c.expiries + 1 then
    if s.judging i then counted.holdExpiry i (.timeOut i) else counted.takeTimeOut i
  else if c.swapPair.isSome ∧ s.judging i then counted.holdExpiry i (.swap i)
  else counted.takeSwap i

end Sys2Proof.Machine
end

