-- ==== Sys2Proof/Machine/Port.lean ====
section
/-! DEFINITION. The Memory Port: the writers and the write queue, the read arbiter, staging and reissues (chapter 7), and the Governor's allowance (R160). -/

namespace Sys2Proof.Machine

/-! ### What each writer has ready (R135) -/

/-- Free places of the write queue (R134). -/
def State.freePlaces (s : State) : Nat := Config.writePlaces - s.port.writeQueue.length

/-- A FEED or SINK status as a write (R91, R196). -/
def Status.toWrite (t : Status) : QWrite :=
  { writer := .registry, kind := .final t.notify, spans := dispositionSpans t.addr .done 0 t.result }

/-- The next ready write of slot `i` (R135): the progress copy as it stands (R35), or a final disposition. -/
def State.slotWrite (s : State) (i : Nat) : CtxWrite → Option QWrite
  | .progress => (s.ctxs.get i).map (fun c =>
      { writer := .slot i, kind := .progress, spans := [{ addr := c.geo.openAddr.toNat + 72, bytes := progressBytes c }] })
  | .openDone addr outcome notify =>
      some { writer := .slot i, kind := .final notify, spans := dispositionSpans addr .done outcome.code [] }
  | .abortDone addr notify =>
      some { writer := .slot i, kind := .final notify, spans := dispositionSpans addr .done 0 [] }

/-- The output write of target `t` at segment `seg` of context `i` (R66). -/
def State.unitWrite (s : State) (i seg t : Nat) : Option QWrite :=
  match s.ctxs.get i with
  | none => none
  | some c => match c.holding seg with
    | none => none
    | some p => match (p.binds.get t).bind s.sinks.get with
      | none => none
      | some k => some
          { writer := .emit, kind := .unit,
            spans := [{ addr := k.buffer + (seg - k.first) * c.geo.unitSize,
                        bytes := rebuiltUnit c.geo seg t (cellBytesOf s.store (c.cellOf seg (c.targets.idxOf t))) }] }

/-- The report write as the values stand (R189, R190). -/
def State.reportWrite (s : State) : QWrite :=
  { writer := .control, kind := .report,
    spans := [{ addr := s.ctl.chnBase.toNat, bytes := reportBytes s.reportValues }] }

/-- The MSI message, its address and data as they stand (R191; log entry 9). PRESUMED (log entry 39): the data is 32 bits, written as
4 bytes. -/
def State.messageWrite (s : State) : QWrite :=
  { writer := .control, kind := .message,
    spans := [{ addr := (Config.msiAddress s.draws).toNat, bytes := toLE 4 (Config.msiData s.draws).toNat }] }

/-- A report write is owed and the chain region is valid (R190). -/
def State.reportReady (s : State) : Bool := s.ctl.reportOwed && s.ctl.regionValid

/-- The next write a writer has ready, its bytes captured as they stand (R134, R135). -/
def State.nextWrite (s : State) : Writer → Option QWrite
  | .walker => s.walker.ready
  | .registry => s.statusQueue.head?.map Status.toWrite
  | .emit => match s.emit with
    | some e => e.targetsLeft.head?.bind (s.unitWrite e.ctx e.seg)
    | none => none
  | .control =>
    if s.reportReady then some s.reportWrite
    else if 0 < s.ctl.messages then some s.messageWrite
    else none
  | .slot i => (s.readyOf i).head?.bind (s.slotWrite i)

/-- The Walker's readied write is the TAKEN of the record at `addr`, and is not placed yet. -/
def State.takenWaits (s : State) (addr : Word64) : Bool :=
  s.walker.ready.any (fun q => q.kind == .taken && q.spans == dispositionSpans addr .taken 0 [])

/-- The Walker's readied write is the DONE of a DROP that brought a role update of context `i` (R106), and is not placed yet. A DROP for a
fragment already FAILED brings none. -/
def State.dropWaits (s : State) (i : Nat) : Bool := s.walker.ready.isSome && s.walker.dropped == some i

/-- The next write of slot `i` goes behind the Walker's unplaced one: progress behind the TAKEN of its OPEN (R24, R36) and behind the DONE of a
DROP that brought its context a role update (R106), an ABORT's DONE behind its TAKEN. Log entry 33. -/
def State.slotMustWait (s : State) (i : Nat) : CtxWrite → Bool
  | .progress => s.dropWaits i || (s.ctxs.get i).any (fun c => s.takenWaits c.geo.openAddr)
  | .openDone _ _ _ => false
  | .abortDone addr _ => s.takenWaits addr

/-- The writer's next write goes behind the Walker's unplaced one; a status goes behind its record's TAKEN (R80, R180). Log entry 33. -/
def State.mustWait (s : State) : Writer → Bool
  | .walker => false
  | .registry => s.statusQueue.head?.any (fun t => s.takenWaits t.addr)
  | .emit => false
  | .control => false
  | .slot i => (s.readyOf i).head?.any (s.slotMustWait i)

/-- The write the writer can place now: its next one, unless that goes behind the Walker's. -/
def State.placeable (s : State) (w : Writer) : Option QWrite := if s.mustWait w then none else s.nextWrite w

/-- The DONEs of the context's ABORT records, in the order they were taken (R44). -/
def Ctx.abortWrites (c : Ctx) : List CtxWrite := c.aborts.map (fun (a : Word64 × Bool) => CtxWrite.abortDone a.1 a.2)

/-- The slot becomes FREE, and each ABORT in the context's list gets its DONE readied (R44, steps 7 and 8). -/
def State.freeContext (s : State) (i : Nat) : State :=
  match s.ctxs.get i with
  | none => s
  | some c =>
    ({ s with ctxs := s.ctxs.erase i }).setReady i (s.readyOf i ++ c.abortWrites)

/-- What follows when slot `i`'s next ready write has been placed: a progress write is remembered (R35), an OPEN's DONE frees the
slot (R44). -/
def State.slotPlaced (s : State) (i : Nat) : State :=
  match s.readyOf i with
  | [] => s
  | .progress :: rest =>
    (s.setReady i rest).modCtx i (fun c => { c with lastProgress := some (c.retired, c.counters) })
  | .openDone _ _ _ :: rest => (s.setReady i rest).freeContext i
  | .abortDone _ _ :: rest => s.setReady i rest

/-- What follows when a writer's next ready write has been placed. -/
def State.placed (s : State) : Writer → State
  | .walker => { s with walker := { s.walker with ready := none, dropped := none } }
  | .registry =>
    { s with statusQueue := s.statusQueue.tail,
             walker := if s.walker.state = .blocked then { s.walker with room := true } else s.walker }
  | .emit => match s.emit with
    | some e => { s with emit := some { e with targetsLeft := e.targetsLeft.tail } }
    | none => s
  | .control =>
    if s.reportReady then
      { s with ctl := { s.ctl with reportOwed := false, lastReport := some s.reportValues } }
    else { s with ctl := { s.ctl with messages := s.ctl.messages - 1 }, draws := s.draws + 1 }
  | .slot i => s.slotPlaced i

/-- Put a write at the tail of the write queue (R134). -/
def State.enqueue (s : State) (q : QWrite) : State :=
  { s with port := { s.port with writeQueue := s.port.writeQueue ++ [q] } }

/-- A writer places its ready writes one after another, at most `n` (R136). -/
def State.placeReady (w : Writer) : (n : Nat) → State → State
  | 0, s => s
  | n + 1, s => match s.placeable w with
    | none => s
    | some q => State.placeReady w n ((s.placed w).enqueue q)

/-- The claim line becomes `line`. -/
def State.setLine (s : State) (line : List Writer) : State := { s with port := { s.port with claimLine := line } }

/-- The writer joins the tail of the claim line if it has a write ready (R136). -/
def State.joinLine (s : State) (w : Writer) : State :=
  if (s.nextWrite w).isSome then s.setLine (s.port.claimLine ++ [w]) else s

/-- A writer with a write ready places it, or joins the claim line, once (R136). -/
def State.offer (s : State) (w : Writer) : State :=
  if w ∈ s.port.claimLine then s
  else if s.port.claimLine = [] then (State.placeReady w s.freePlaces s).joinLine w
  else s.joinLine w

/-- The writer leaves the claim line once it has no write left (R136). -/
def State.leaveLine (s : State) (w : Writer) : State :=
  if (s.nextWrite w).isSome then s else s.setLine (s.port.claimLine.filter (· ≠ w))

/-- The claim line is served from its head while the write queue has places (R136), at most `n` times; a writer that must wait for the Walker's
write is passed over and keeps its place (log entry 33). -/
def State.serveLine : (n : Nat) → State → State
  | 0, s => s
  | n + 1, s =>
    if s.freePlaces = 0 then s
    else match s.port.claimLine.find? (fun w => !s.mustWait w) with
      | none => s
      | some w => State.serveLine n ((State.placeReady w s.freePlaces s).leaveLine w)

/-- The claim line is served. The Walker's placing lets a writer passed over be served, so that each writer is served at most twice. -/
def State.serveClaims (s : State) : State := State.serveLine (2 * s.port.claimLine.length) s

/-- A writer's number, for the free order of log entry 7. -/
def Writer.number : Writer → Nat
  | .walker => 0 | .registry => 1 | .emit => 2 | .control => 3
  | .slot i => 4 + i

/-- The writers that have a write ready and do not stand in the claim line, the Walker apart. -/
def State.newWriters (s : State) : List Writer :=
  ([Writer.registry, .emit, .control] ++ s.ready.keys.map Writer.slot).filter
    (fun w => (s.nextWrite w).isSome && !s.port.claimLine.contains w)

/-- Insert a writer by its free key. -/
def insertWriter (draw : Nat) (w : Writer) : List Writer → List Writer
  | [] => [w]
  | v :: rest =>
    if Config.writerKey draw w.number ≤ Config.writerKey draw v.number then w :: v :: rest
    else v :: insertWriter draw w rest

/-- Writers in the free order of one event (R136; log entry 7). -/
def orderWriters (draw : Nat) (ws : List Writer) : List Writer := ws.foldr (insertWriter draw) []

/-- Several writers place their writes or join the claim line, one after another. -/
def State.offerEach : List Writer → State → State
  | [], s => s
  | w :: rest, s => State.offerEach rest (s.offer w)

/-- The writes one event readied: the Walker's first (R172), the others in an order the rules leave open (R136; log entry 7). -/
def State.offerReady (s : State) : State :=
  let s := s.offer .walker
  let ws := s.newWriters
  State.offerEach (orderWriters s.draws ws) (if 2 ≤ ws.length then { s with draws := s.draws + 1 } else s)

/-! ### Units that take their next work at once -/

/-- With no emit in progress, the Emit Unit takes the head of the emit queue (R66). -/
def State.takeEmit (s : State) : State :=
  match s.emit, s.emitQueue with
  | none, (i, seg) :: rest => match s.ctxs.get i with
    | none => { s with emitQueue := rest }
    | some c => match c.holding seg with
      | none => { s with emitQueue := rest }
      | some p => { s with emitQueue := rest, emit := some ⟨i, seg, c.targets⟩,
                           ctxs := s.ctxs.set i (c.putPosition seg { p with state := .emitting }) }
  | _, _ => s

/-- With no slot in COMBINING, the Combine Unit takes the head of the combine queue (R151). -/
def State.takeCombine (s : State) : State :=
  match s.combining, s.combineQueue with
  | none, k :: rest => match s.port.staging.get k with
    | none => { s with combineQueue := rest }
    | some t => { s with combineQueue := rest, combining := some ⟨k, !t.stale⟩,
                         port := { s.port with staging := s.port.staging.set k { t with phase := .combining } } }
  | _, _ => s

/-- The end of an event: idle units take their next work (R66, R125, R151), then readied writes are placed or claimed (R136). -/
def State.settle (s : State) : State := s.startSolve.takeCombine.takeEmit.offerReady

/-! ### The read arbiter (R141 to R145) -/

/-- The entry of fragment `f` at position `p` is eligible (R58). -/
def Ctx.eligible (c : Ctx) (p : Position) (f : Nat) : Bool :=
  c.state == .running && p.state == .opened && c.role f == .source &&
  (match p.row.get f with
    | some e => e.state == .logged
    | none => false)

/-- The lowest eligible fragment at a position, with its Feed entry. -/
def Ctx.offerAt (c : Ctx) (p : Position) : Option (Nat × Nat × Nat) :=
  ((List.range Config.fragmentCount).find? (c.eligible p)).bind (fun f =>
    (p.row.get f).map (fun e => (p.seg, f, e.feed)))

/-- The entry a chosen context offers (R143): segment, fragment, Feed entry. -/
def Ctx.offered (c : Ctx) : Option (Nat × Nat × Nat) := c.positions.findSome? c.offerAt

/-- The context with the entry of fragment `f` at segment `seg` INFLIGHT (R56). -/
def Ctx.inflight (c : Ctx) (seg f : Nat) : Ctx :=
  match c.holding seg with
  | none => c
  | some p => match p.row.get f with
    | none => c
    | some e => c.putPosition seg (p.putEntry f (some { e with state := .inflight }))

/-- Context `i` is a candidate for a grant (R141). -/
def State.candidate (s : State) (i : Nat) : Bool :=
  match s.ctxs.get i with
  | none => false
  | some c => c.state == .running && c.offered.isSome && decide (s.slotsInUse i < s.port.readLimit)

/-- Context `i` is in the exposed class (R142). -/
def State.inExposedClass (s : State) (i : Nat) : Bool :=
  match s.ctxs.get i with
  | none => false
  | some c => c.exposed

/-- Slot numbers from a pointer upward, wrapping from 63 to 0 (R142). -/
def rotation (pointer : Nat) : List Nat := (List.range Config.slotCount).map (fun n => (pointer + n) % Config.slotCount)

/-- The context the arbiter chooses (R142): exposed candidates first. -/
def State.choose (s : State) : Option Nat :=
  match (rotation s.port.exposedPointer).find? (fun i => s.inExposedClass i && s.candidate i) with
  | some i => some i
  | none => (rotation s.port.otherPointer).find? (fun i => !s.inExposedClass i && s.candidate i)

/-- The Rate Governor allows a source read (R160). -/
def Governor.allows (g : Governor) : Bool := g.level == 15 || (decide (1 ≤ g.level) && decide (0 < g.credit))

/-- A grant's charge (R144, R160, R162). -/
def Governor.charge (g : Governor) (bytes : Nat) : Governor :=
  if g.level = 15 then g else { g with credit := g.credit - bytes }

/-- The pointer of the chosen context's class moves past it (R142). -/
def Port.movePointer (p : Port) (exposed : Bool) (i : Nat) : Port :=
  if exposed then { p with exposedPointer := (i + 1) % Config.slotCount }
  else { p with otherPointer := (i + 1) % Config.slotCount }

/-- A staging slot filled for a granted read (R144). -/
def State.newStaging (s : State) (i : Nat) (g : Geometry) (offer : Nat × Nat × Nat) (f : FeedEntry)
    (partner : Option Nat) : Staging :=
  { ctx := i, seg := offer.1, frag := offer.2.1, feed := offer.2.2,
    addr := f.buffer + (offer.1 - f.first) * g.unitSize, length := g.unitSize, phase := .reading,
    reissues := s.port.retryCount, stale := false, partner := partner, data := [] }

/-- The second entry of a pair, if pair mode applies (R145): the next offer, were the first entry INFLIGHT. -/
def State.pairOffer (s : State) (i : Nat) (c : Ctx) (first : Nat × Nat × Nat) : Option (Nat × Nat × Nat) :=
  match (c.inflight first.1 first.2.1).offered with
  | none => none
  | some second =>
    if s.port.pairMode ∧ 2 ≤ s.port.readLimit ∧ s.slotsInUse i + 1 < s.port.readLimit ∧
        s.port.staging.size + 2 ≤ Config.stagingSlots ∧ second.2.2 = first.2.2 ∧ second.1 = first.1 + 1 then some second
    else none

/-- The single grant of R144 to context `i`, into slot `a`. -/
def State.grantSingle (s : State) (i : Nat) (c : Ctx) (offer : Nat × Nat × Nat) (f : FeedEntry) (a : Nat) : State :=
  let t := s.newStaging i c.geo offer f none
  { s with port := { (s.port.movePointer c.exposed i) with staging := s.port.staging.set a t },
           gov := s.gov.charge c.geo.unitSize,
           ctxs := s.ctxs.set i (c.inflight offer.1 offer.2.1),
           issued := s.issued ++ [.read t.addr c.geo.unitSize] }

/-- The pair grant of R145 to context `i`, into slots `a` and `b`. -/
def State.grantPair (s : State) (i : Nat) (c : Ctx) (first second : Nat × Nat × Nat) (f : FeedEntry) (a b : Nat) : State :=
  let t := s.newStaging i c.geo first f (some b)
  let u := s.newStaging i c.geo second f (some a)
  { s with port := { (s.port.movePointer c.exposed i) with staging := (s.port.staging.set a t).set b u },
           gov := s.gov.charge (2 * c.geo.unitSize),
           ctxs := s.ctxs.set i ((c.inflight first.1 first.2.1).inflight second.1 second.2.1),
           issued := s.issued ++ [.read t.addr (2 * c.geo.unitSize)] }

/-- A grant, if the arbiter can make one (R141 to R145). -/
def State.grant (s : State) : State :=
  if s.gov.allows then
    match s.choose, s.port.staging.lowestFree Config.stagingSlots with
    | some i, some a => match s.ctxs.get i with
      | none => s
      | some c => match c.offered with
        | none => s
        | some first => match s.feeds.get first.2.2 with
          | none => s
          | some f => match s.pairOffer i c first with
            | none => s.grantSingle i c first f a
            | some second =>
              match (s.port.staging.set a (s.newStaging i c.geo first f none)).lowestFree Config.stagingSlots with
              | none => s.grantSingle i c first f a
              | some b => s.grantPair i c first second f a b
    | _, _ => s
  else s

/-! ### Completions (R147 to R150) -/

/-- The slots of one read, the lower segment's first (R145). -/
def State.readMembers (s : State) (k : Nat) (t : Staging) : List Nat :=
  match t.partner with
  | none => [k]
  | some j => match s.port.staging.get j with
    | none => [k]
    | some u => if u.seg < t.seg then [j, k] else [k, j]

/-- Change one staging slot. -/
def State.modStaging (s : State) (k : Nat) (f : Staging → Staging) : State :=
  match s.port.staging.get k with
  | none => s
  | some t => { s with port := { s.port with staging := s.port.staging.set k (f t) } }

/-- Data arrives for the slots of one read, one unit after another; each joins the tail of the combine queue (R147). -/
def State.stageEach : List Nat → List Byte → State → State
  | [], _, s => s
  | k :: rest, data, s => match s.port.staging.get k with
    | none => State.stageEach rest data s
    | some t =>
      let s := s.modStaging k (fun t => { t with phase := .staged, data := exactBytes t.length data })
      State.stageEach rest (data.drop t.length) { s with combineQueue := s.combineQueue ++ [k] }

/-- Staging slot `k` has its read on the link. -/
def State.readDue (s : State) (k : Nat) : Bool :=
  match s.port.staging.get k with
  | some t => t.phase == .reading
  | none => false

/-- A source read completes without error (R147). -/
def State.readArrived (s : State) (k : Nat) (data : List Byte) : State :=
  match s.port.staging.get k with
  | none => s
  | some t =>
    if t.stale then State.discardEach (s.readMembers k t) s
    else State.stageEach (s.readMembers k t) data s

/-- Slots of one read wait for its reissue (R148). -/
def State.retryEach : List Nat → State → State
  | [], s => s
  | k :: rest, s => State.retryEach rest (s.modStaging k (fun t => { t with phase := .retrying, reissues := t.reissues - 1 }))

/-- Slots of one read are freed, each with a read failure (R149). -/
def State.failEach : List Nat → State → State
  | [], s => s
  | k :: rest, s => State.failEach rest (match s.port.staging.get k with
      | none => s
      | some t => (s.freeStaging k).readFailure t.ctx t.seg t.frag)

/-- A source read completes with error (R148, R149). -/
def State.readErred (s : State) (k : Nat) : State :=
  match s.port.staging.get k with
  | none => s
  | some t =>
    if t.stale then State.discardEach (s.readMembers k t) s
    else if 0 < t.reissues then
      let s1 := State.retryEach (s.readMembers k t) s
      { s1 with port := { s1.port with reissueLine := s1.port.reissueLine ++ (s.readMembers k t).take 1 } }
    else State.failEach (s.readMembers k t) s

/-- The slots of one read are READING again (R148). -/
def State.readEach : List Nat → State → State
  | [], s => s
  | k :: rest, s => State.readEach rest (s.modStaging k (fun t => { t with phase := .reading }))

/-- The oldest member of the reissue line is issued again (R148). -/
def State.reissue (s : State) (k : Nat) : State :=
  match s.port.staging.get k with
  | none => s
  | some t =>
    let members := s.readMembers k t
    let s := State.readEach members s
    { s with issued := s.issued ++ [.read t.addr (members.length * t.length)] }

/-! ### Issue (R132) -/

/-- The record fetch that can be issued (R132, R133, R173): one waiting for its reissue, or, with none in hand and no disposition
of the Walker's waiting to be issued, the one the Walker asks for. -/
def State.fetchToIssue (s : State) : Option Fetch :=
  match s.port.fetch with
  | some p => if p.outstanding then none else some p.fetch
  | none => if s.walker.unissued then none else s.walker.wanted

/-- The bytes a record fetch reads (R170, R175). -/
def FetchKind.length : FetchKind → Nat
  | .firstHalf => 64 | .secondHalf => 64 | .linkWord => 8

/-- A record fetch goes onto the link. -/
def State.issueFetch (s : State) (f : Fetch) : State :=
  { s with port := { s.port with fetch := some ⟨f, true⟩ },
           walker := if s.port.fetch.isSome then s.walker else { s.walker with wanted := none },
           issued := s.issued ++ [.fetch f.addr f.what.length] }

/-- A request goes onto the link. -/
def State.log (s : State) (r : LinkRequest) : State := { s with issued := s.issued ++ [r] }

/-- What the issue of a final disposition does (R180, R182). -/
def State.finalIssued (s : State) (notify : Bool) : State :=
  let s := { s with ctl := { s.ctl with finalised := bump64 s.ctl.finalised } }
  if notify then s.cause else s

/-- The write at the head of the write queue goes onto the link (R132, R180, R182, R191). -/
def State.issueWrite (s : State) (w : QWrite) : State :=
  let s := if w.writer = .walker then { s with walker := { s.walker with unissued := false } } else s
  match w.kind with
  | .message => { s with issued := s.issued ++ [.message w (Config.msiEnabled s.draws)], draws := s.draws + 1 }
  | .final notify => (s.log (.write w)).finalIssued notify
  | .taken => s.log (.write w)
  | .progress => s.log (.write w)
  | .report => s.log (.write w)
  | .unit => s.log (.write w)

/-- One issue opportunity (R132): none while reads from before a soft reset are out (R153). -/
def State.issueOne (s : State) : State :=
  if 0 < s.port.outstanding then s
  else match s.fetchToIssue with
    | some f => s.issueFetch f
    | none => match s.port.writeQueue with
      | w :: rest => (State.issueWrite { s with port := { s.port with writeQueue := rest } } w).offer .control
      | [] => match s.port.reissueLine with
        | k :: rest => State.reissue { s with port := { s.port with reissueLine := rest } } k
        | [] => s.grant

end Sys2Proof.Machine
end

