-- ==== Sys2Proof/Machine/Walker.lean ====
section
/-! DEFINITION. The Chain Walker: taking, checking, dispatching and following records (chapter 9), with each kind's own checks and acceptance. -/

namespace Sys2Proof.Machine

/-! ### Fetching, faulting, handling -/

/-- The Walker's part of entering FAULTED (R179): cursor and next address stay. -/
def Walker.fault (w : Walker) (r : WalkerFault) (addr : Word64) : Walker :=
  { w with state := .faulted, faultReason := some r, faultAddr := addr, pollTimer := none, checkOwed := false,
           wanted := none }

/-- The Walker enters FAULTED (R179): report block and attention follow (R190, R191). -/
def State.fault (s : State) (r : WalkerFault) (addr : Word64) : State :=
  (State.oweReport { s with walker := s.walker.fault r addr }).cause

/-- The Walker asks the Memory Port for a record fetch (R133, R170, R175); it is given the retry count in force. -/
def State.askFetch (s : State) (what : FetchKind) (addr : Word64) : State :=
  { s with walker := { s.walker with wanted := some ⟨what, addr, s.port.retryCount, false⟩ } }

/-- The Walker takes the record at `addr` (R168, R170, R174). -/
def State.takeRecordAt (s : State) (addr : Word64) : State :=
  State.askFetch { s with walker := { s.walker with state := .fetching, phase := .fetch, next := addr } } .firstHalf addr

/-- The Walker asks for the cursor's link word (R175, R176). -/
def State.askLink (s : State) : State := s.askFetch .linkWord s.walker.cursor

/-- The chain region's record address check on a link (R166, R174). -/
def State.linkValid (s : State) (link : Word64) : Bool := recordAddressValid s.ctl.chnBase s.ctl.chnSize link

/-- The Walker's write of a first disposition for the record at `next` (R172, R196). -/
def Walker.dispositionWrite (w : Walker) (d : Disposition) (reason : Nat) (result : List Byte) : QWrite :=
  { writer := .walker, kind := if d.isFinal then .final (recNotify w.buffer) else .taken,
    spans := dispositionSpans w.next d reason result }

/-- A record is handled (R172, R174): its first disposition is readied, it counts in records taken, the cursor moves to it. The
Walker then waits for the write (R173), or enters IDLE if it is stopping (R169). -/
def Walker.handle (w : Walker) (d : Disposition) (reason : Nat) (result : List Byte) : Walker :=
  { w with state := if w.stopping then .idle else .fetching, phase := .link, stopping := false, cursor := w.next,
           taken := bump64 w.taken, ready := some (w.dispositionWrite d reason result), dropped := none,
           unissued := true, blockedTimer := none, room := false }

/-- A record is handled, in the whole state. -/
def State.handle (s : State) (d : Disposition) (reason : Nat) (result : List Byte) : State :=
  { s with walker := s.walker.handle d reason result }

/-- The record in hand is refused (R171, R172). -/
def State.refuseRecord (s : State) (r : Reason) : State := s.handle .refused r.code []

/-- A FEED or SINK can have no entry (R85, R177): the Walker is BLOCKED; a Walker that already is stays so, its timer going on
(R178). -/
def State.block (s : State) : State :=
  if s.walker.state = .blocked then s
  else { s with walker := { s.walker with state := .blocked, room := false,
                                          blockedTimer := if s.walker.blockedLimit = 0 then none else some 0 } }

/-- Hold the dispatch of the record in hand until the combine in progress is reported (R98; log entry 6). -/
def State.holdDispatch (s : State) : State :=
  { s with walker := { s.walker with phase := .held }, held := s.held ++ [.dispatch] }

/-! ### OPEN (R21 to R24, R31) -/

/-- Why an OPEN is refused, if it is (R21). -/
def State.openRefusal (s : State) (b : List Byte) : Option Reason :=
  if Config.slotCount ≤ recContext b then some .badField
  else if (s.ctxs.get (recContext b)).isSome then some .slotBusy
  else if s.ctxs.rows.any (fun r => r.2.geo.stripe == recStripe b) then some .duplicateStripe
  else if openBodyValid b = false then some .badField
  else none

/-- The context an accepted OPEN fills (R24); its first state is decided when it is placed. -/
def newContext (addr : Word64) (b : List Byte) : Ctx :=
  { geo := recGeometry addr b, state := .pending, cells := [], outcome := none, aborts := [], teardown := .draining,
    counters := Counters.zero, stalled := false, exposed := roleCount b .spare == 0, lastProgress := none, timerRuns := false, elapsed := 0,
    roles := recRoles b, errors := Table.empty, cleanRuns := Table.empty, expiries := 0, base := 0, retired := 0,
    slots := Table.empty, feedList := [], sinkList := [], table := none }

/-- An OPEN record is dispatched (R21, R24). -/
def State.dispatchOpen (s : State) (b : List Byte) : State :=
  match s.openRefusal b with
  | some r => s.refuseRecord r
  | none =>
    let s1 := s.handle .taken 0 []
    State.placeContext { s1 with ctxs := s1.ctxs.set (recContext b) (newContext s.walker.next b) } (recContext b)

/-! ### FEED (R78 to R81) -/

/-- What a check of a FEED or SINK answers: a refusal, or the context and the region of its buffer. -/
inductive Verdict where
  | refuse (r : Reason)
  | accept (c : Ctx) (region : Nat)
deriving DecidableEq, Repr

/-- The context a record names by slot number and stripe id, if it is there (R39, R78, R82, R106). -/
def State.namedContext (s : State) (b : List Byte) : Option Ctx :=
  match s.ctxs.get (recContext b) with
  | some c => if c.geo.stripe = recStripe b then some c else none
  | none => none

/-- Check 1 of R78 and R82. -/
def runFieldsValid (b : List Byte) : Bool :=
  decide (recContext b < Config.slotCount) && decide (recFragment b < Config.fragmentCount) &&
  decide (1 ≤ recCount b ∧ recCount b ≤ 64)

/-- The checks of a FEED (R78). -/
def State.checkFeed (s : State) (b : List Byte) : Verdict :=
  if runFieldsValid b = false then .refuse .badField
  else match s.namedContext b with
    | none => .refuse .noContext
    | some c =>
      if c.state = .draining then .refuse .ending
      else if c.role (recFragment b) = .absent ∨ c.role (recFragment b) = .target then .refuse .role
      else if c.geo.segCount < recFirst b + recCount b then .refuse .beyondFragment
      else match addressRegion s.ctl.regions false (recBuffer b) (recCount b * c.geo.unitSize) with
        | none => .refuse .address
        | some r => .accept c r

/-- The Feed entry an accepted FEED takes (R80). -/
def newFeed (addr : Word64) (b : List Byte) (region : Nat) : FeedEntry :=
  { addr := addr, notify := recNotify b, ctx := recContext b, frag := recFragment b, first := recFirst b,
    count := recCount b, buffer := recBuffer b, region := region, pending := recCount b, counts := FeedCounts.zero }

/-- A FEED is accepted into entry `e` (R80). -/
def State.acceptFeed (s : State) (b : List Byte) (region e : Nat) : State :=
  let s1 := s.handle .taken 0 []
  let s2 := { s1 with feeds := s1.feeds.set e (newFeed s.walker.next b region) }
  let s3 := s2.modCtx (recContext b) (fun c => { c with feedList := c.feedList ++ [e] })
  State.classifyRun (recContext b) e (recFragment b) (recCount b) (recFirst b) s3

/-- A FEED for a FAILED fragment is accepted without an entry (R81). -/
def State.acceptFailedFeed (s : State) (b : List Byte) : State :=
  let s1 := s.handle .taken 0 []
  { s1 with statusQueue := s1.statusQueue ++
      [⟨s.walker.next, recNotify b, recContext b, feedResult { FeedCounts.zero with unused := recCount b }⟩] }

/-- A FEED record is dispatched (R78, R80, R81, R85). -/
def State.dispatchFeed (s : State) (b : List Byte) : State :=
  match s.checkFeed b with
  | .refuse r => s.refuseRecord r
  | .accept c region =>
    if Config.statusBound ≤ s.statusTotal then s.block
    else if c.role (recFragment b) = .failed then s.acceptFailedFeed b
    else match s.feeds.lowestFree Config.feedEntries with
      | none => s.block
      | some e => s.acceptFeed b region e

/-! ### SINK (R82, R83) -/

/-- Check 7 of R82. -/
def State.overlaps (s : State) (b : List Byte) : Bool :=
  s.sinks.rows.any (fun r => r.2.ctx == recContext b && r.2.target == recFragment b &&
    rangesMeet r.2.first r.2.count (recFirst b) (recCount b))

/-- The checks of a SINK (R82). -/
def State.checkSink (s : State) (b : List Byte) : Verdict :=
  if runFieldsValid b = false then .refuse .badField
  else match s.namedContext b with
    | none => .refuse .noContext
    | some c =>
      if c.state = .draining then .refuse .ending
      else if c.role (recFragment b) ≠ .target then .refuse .role
      else if c.geo.segCount < recFirst b + recCount b then .refuse .beyondFragment
      else match addressRegion s.ctl.regions true (recBuffer b) (recCount b * c.geo.unitSize) with
        | none => .refuse .address
        | some r => if s.overlaps b then .refuse .overlap else .accept c r

/-- The Sink entry an accepted SINK takes (R83). -/
def newSink (addr : Word64) (b : List Byte) (region : Nat) : SinkEntry :=
  { addr := addr, notify := recNotify b, ctx := recContext b, target := recFragment b, first := recFirst b,
    count := recCount b, buffer := recBuffer b, region := region, pending := recCount b, written := 0, unwritten := 0 }

/-- Count `n` segments of Sink entry `e` unwritten (R64, R83). -/
def State.unwrittenRun (e : Nat) : (n : Nat) → State → State
  | 0, s => s
  | n + 1, s => State.unwrittenRun e n (s.sinkOutcome e .unwritten)

/-- The FULL positions a SINK covers, in ascending segment order (R63). -/
def Ctx.fullSegs (c : Ctx) (first count : Nat) : List Nat :=
  (c.positions.filter (fun p => p.state == .full && inRange first count p.seg)).map (·.seg)

/-- A SINK is accepted into entry `e` for context `c` (R64, R83). -/
def State.acceptSink (s : State) (b : List Byte) (c : Ctx) (region e : Nat) : State :=
  let s1 := s.handle .taken 0 []
  let s2 := { s1 with sinks := s1.sinks.set e (newSink s.walker.next b region) }
  let s3 := s2.modCtx (recContext b) (fun c => { c with sinkList := c.sinkList ++ [e] })
  let s4 := State.unwrittenRun e (min (recCount b) (c.base - recFirst b)) s3
  State.bindEach (recContext b) e (recFragment b) (c.fullSegs (recFirst b) (recCount b)) s4

/-- A SINK record is dispatched (R82, R83, R85). -/
def State.dispatchSink (s : State) (b : List Byte) : State :=
  match s.checkSink b with
  | .refuse r => s.refuseRecord r
  | .accept c region =>
    if Config.statusBound ≤ s.statusTotal then s.block
    else match s.sinks.lowestFree Config.sinkEntries with
      | none => s.block
      | some e => s.acceptSink b c region e

/-! ### DROP (R106) and ABORT (R39) -/

/-- What a check of a DROP or ABORT answers. -/
inductive CtxVerdict where
  | refuse (r : Reason)
  | accept (c : Ctx)
deriving DecidableEq, Repr

/-- The checks of a DROP (R106). -/
def State.checkDrop (s : State) (b : List Byte) : CtxVerdict :=
  if Config.slotCount ≤ recContext b ∨ Config.fragmentCount ≤ recFragment b then .refuse .badField
  else match s.namedContext b with
    | none => .refuse .noContext
    | some c =>
      if c.state = .draining then .refuse .ending
      else if c.role (recFragment b) = .absent ∨ c.role (recFragment b) = .target then .refuse .role
      else .accept c

/-- A DROP that brings a role update of context `i` is handled (R106): the update's progress goes behind this DONE. -/
def State.handleDrop (s : State) (i : Nat) : State :=
  let s := s.handle .done 0 []
  { s with walker := { s.walker with dropped := some i } }

/-- A DROP record is dispatched (R106); one that would act on a context whose segment is being combined is held (R98). -/
def State.dispatchDrop (s : State) (b : List Byte) : State :=
  match s.checkDrop b with
  | .refuse r => s.refuseRecord r
  | .accept c =>
    if c.role (recFragment b) = .failed then s.handle .done 0 []
    else if s.judging (recContext b) then s.holdDispatch
    else if c.role (recFragment b) = .source then
      (s.handleDrop (recContext b)).failSource (recContext b) (recFragment b)
    else (s.handleDrop (recContext b)).failSpare (recContext b) (recFragment b)

/-- The checks of an ABORT (R39). -/
def State.checkAbort (s : State) (b : List Byte) : CtxVerdict :=
  if Config.slotCount ≤ recContext b then .refuse .badField
  else match s.namedContext b with
    | none => .refuse .noContext
    | some c => if c.state = .draining ∧ 4 ≤ c.aborts.length then .refuse .ending else .accept c

/-- An ABORT record is dispatched (R39); one that would end a context whose segment is being combined is held (R98). -/
def State.dispatchAbort (s : State) (b : List Byte) : State :=
  match s.checkAbort b with
  | .refuse r => s.refuseRecord r
  | .accept c =>
    if c.state ≠ .draining ∧ s.judging (recContext b) then s.holdDispatch
    else
      ((s.handle .taken 0 []).modCtx (recContext b)
        (fun c => { c with aborts := c.aborts ++ [(s.walker.next, recNotify b)] })).endRequest (recContext b) .aborted

/-! ### REGION (R185), TUNE (R183), LEVEL (R163, R165) -/

/-- A region as the table holds it: a disabled one is base 0, length 0, rights none (R184). -/
def Control.regionAt (c : Control) (i : Nat) : Region := (c.regions.get i).getD ⟨0, 0, 0⟩

/-- The region a REGION record describes. -/
def recRegion (b : List Byte) : Region := ⟨recRegionBase b, recRegionLength b, recRights b⟩

/-- Check 2 of R185. -/
def Region.shapeValid (r : Region) : Bool :=
  if r.rights = 0 then r.base == 0 && r.length == 0
  else decide (r.base % 4096 = 0) && decide (r.length % 4096 = 0) && decide (4096 ≤ r.length) &&
    decide (r.base + r.length ≤ 2 ^ 48)

/-- Why a REGION is refused, if it is (R185). -/
def State.regionRefusal (s : State) (b : List Byte) : Option Reason :=
  if Config.regionCount ≤ recRegionNumber b ∨ 3 < recRights b then some .badField
  else if (recRegion b).shapeValid = false then some .badField
  else if recRegion b ≠ s.ctl.regionAt (recRegionNumber b) ∧ s.refCount (recRegionNumber b) ≠ 0 then some .regionInUse
  else none

/-- The region table with one region replaced; a disabled region is not listed. -/
def setRegion (t : Table Region) (i : Nat) (r : Region) : Table Region := if r.rights = 0 then t.erase i else t.set i r

/-- A REGION record is dispatched (R185). -/
def State.dispatchRegion (s : State) (b : List Byte) : State :=
  match s.regionRefusal b with
  | some r => s.refuseRecord r
  | none =>
    let s := s.handle .done 0 []
    { s with ctl := { s.ctl with regions := setRegion s.ctl.regions (recRegionNumber b) (recRegion b) } }

/-- The clamped mask of a TUNE (R183, section 11.3). -/
def tuneMask (b : List Byte) : Nat :=
  (if recReadLimit b = 0 ∨ 4 < recReadLimit b then 1 else 0) + (if 1 < recPairMode b then 2 else 0) +
  (if 3 < recRetryCount b then 4 else 0) + (if recPollInterval b = 0 then 8 else 0) +
  (if 1000 < recBlockedLimit b then 16 else 0)

/-- A TUNE record is dispatched (R183): five values clamped, the mask in the result area. -/
def State.dispatchTune (s : State) (b : List Byte) : State :=
  let s := s.handle .done 0 (toLE 1 (tuneMask b) ++ List.replicate 15 0)
  { s with
    port := { s.port with readLimit := max 1 (min 4 (recReadLimit b)), pairMode := recPairMode b != 0,
                          retryCount := min 3 (recRetryCount b) },
    walker := { s.walker with pollInterval := max 1 (recPollInterval b), blockedLimit := min 1000 (recBlockedLimit b) } }

/-- The budget of a level, in bytes a tick (R158); level 15 has none. -/
def budget (level : Nat) : Nat :=
  1024 * ([0, 32, 64, 96, 128, 192, 256, 384, 512, 768, 1024, 1536, 2048, 3072, 4096].getD level 0)

/-- The new level of a LEVEL record, or none for a mode above 2 (R165). -/
def newLevel (level mode value : Nat) : Option Nat :=
  match mode with
  | 0 => some (min 15 value)
  | 1 => some (min 15 (level + value))
  | 2 => some (level - value)
  | _ => none

/-- The level becomes `l` (R162, R163). -/
def Governor.setLevel (g : Governor) (l : Nat) : Governor :=
  { g with level := l,
           credit :=
             if l = g.level then g.credit
             else if l = 15 then 0
             else if g.level = 15 then budget l
             else min g.credit (budget l) }

/-- A LEVEL record is dispatched (R165). -/
def State.dispatchLevel (s : State) (b : List Byte) : State :=
  match newLevel s.gov.level (recLevelMode b) (recLevelValue b) with
  | none => s.refuseRecord .badField
  | some l =>
    let s := s.handle .done 0 (toLE 1 l ++ List.replicate 15 0)
    { s with gov := s.gov.setLevel l }

/-! ### Checking and dispatching (R171, R172) -/

/-- The record in the fetch buffer is dispatched to the owner of its kind (R172). -/
def State.dispatch (s : State) : State :=
  let b := s.walker.buffer
  match recKind b with
  | 1 => s.dispatchOpen b
  | 2 => s.dispatchFeed b
  | 3 => s.dispatchSink b
  | 4 => s.dispatchDrop b
  | 5 => s.dispatchAbort b
  | 6 => s.dispatchRegion b
  | 7 => s.dispatchTune b
  | 8 => s.dispatchLevel b
  | _ => s.refuseRecord .badKind

/-- A held record is dispatched (R98; log entry 6): a DROP or an ABORT, the two kinds that are held. -/
def State.dispatchHeld (s : State) : State :=
  let b := s.walker.buffer
  match recKind b with
  | 4 => s.dispatchDrop b
  | 5 => s.dispatchAbort b
  | _ => s

/-- A blocked record is checked again in full (R85, R178): a FEED or a SINK, the two kinds that block. -/
def State.recheck (s : State) : State :=
  let b := s.walker.buffer
  match recKind b with
  | 2 => s.dispatchFeed b
  | 3 => s.dispatchSink b
  | _ => s

/-- The Walker checks the header of the record in the fetch buffer and dispatches it (R171). -/
def State.checkRecord (s : State) : State :=
  let b := s.walker.buffer
  if recDisposition b ≠ 0 then s.fault .notPosted s.walker.next
  else if recKind b = 0 ∨ 8 < recKind b then s.refuseRecord .badKind
  else if headerClean b = false ∨ bodyClean (recKind b) b = false then s.refuseRecord .badField
  else s.dispatch

/-! ### Completed fetches (R133, R169, R170, R175) -/

/-- A record fetch or link-word read to be discarded has completed (R169): a stopping Walker that waited for it enters IDLE. -/
def State.discardFetch (s : State) : State :=
  { s with
    port := { s.port with fetch := none },
    walker := if s.walker.state = .fetching ∧ s.walker.stopping ∧ s.walker.wanted.isNone then
        { s.walker with state := .idle, stopping := false } else s.walker }

/-- The fetch in the port's hands is done with. -/
def State.clearFetch (s : State) : State := { s with port := { s.port with fetch := none } }

/-- The first 64 bytes of a record have arrived (R170). -/
def State.firstHalfArrived (s : State) (bytes : List Byte) : State :=
  let s := State.clearFetch { s with walker := { s.walker with buffer := bytes } }
  if recKind bytes = 1 then
    if openFits s.ctl.chnBase s.ctl.chnSize s.walker.next then s.askFetch .secondHalf (s.walker.next + 64)
    else s.fault .badLink s.walker.next
  else s.checkRecord

/-- The second 64 bytes of an OPEN record have arrived (R170). -/
def State.secondHalfArrived (s : State) (bytes : List Byte) : State :=
  State.checkRecord (State.clearFetch { s with walker := { s.walker with buffer := s.walker.buffer ++ bytes } })

/-- 64 bytes read, with the kind byte the command names (log entry 4). -/
def withKind (kind : Nat) (bytes : List Byte) : List Byte := (exactBytes 64 bytes).set 8 (BitVec.ofNat 8 kind)

/-- A record fetch of the kind `what` is on the link. -/
def State.fetchOut (s : State) (what : FetchKind) : Bool :=
  match s.port.fetch with
  | some p => p.outstanding && p.fetch.what == what
  | none => false

/-- The fetch on the link is to be discarded (R169). -/
def State.fetchStale (s : State) : Bool :=
  match s.port.fetch with
  | some p => p.outstanding && p.fetch.discard
  | none => false

/-- A record fetch completes without error with a record's first 64 bytes; then the event is settled. -/
def State.recordArrived (s : State) (bytes : List Byte) : State :=
  if s.fetchOut .firstHalf then
    if s.fetchStale then s.discardFetch else (s.firstHalfArrived bytes).settle
  else s

/-- A record fetch completes without error with an OPEN record's second 64 bytes; then the event is settled. -/
def State.openTailArrived (s : State) (bytes : List Byte) : State :=
  if s.fetchStale then s.discardFetch else (s.secondHalfArrived bytes).settle

/-- A record fetch on the link completes with error (R133, R170, R175): it waits for its reissue, or it has failed. -/
def State.fetchErred (s : State) : State :=
  match s.port.fetch with
  | none => s
  | some p =>
    if p.outstanding = false then s
    else if 0 < p.fetch.reissues then
      { s with port := { s.port with fetch := some ⟨{ p.fetch with reissues := p.fetch.reissues - 1 }, false⟩ } }
    else if p.fetch.discard then s.discardFetch
    else (s.clearFetch.fault .fetchError p.fetch.addr).offer .control

/-- A link-word read has returned `link` to a PARKED Walker (R175), its 8 bytes in the fetch buffer (R133; DESIGN CHOICE, log entry 42: and
nothing else). -/
def State.linkArrived (s : State) (link : Word64) : State :=
  let s := State.clearFetch { s with walker := { s.walker with buffer := toLE 8 link.toNat } }
  if link = 0 then
    if s.walker.checkOwed then State.askLink { s with walker := { s.walker with checkOwed := false } }
    else { s with walker := { s.walker with pollTimer := some s.walker.pollInterval } }
  else if s.linkValid link then State.takeRecordAt { s with walker := { s.walker with checkOwed := false } } link
  else s.fault .badLink link

/-- A link-word read completes without error (R169, R175). -/
def State.linkRead (s : State) (link : Word64) : State :=
  if s.fetchOut .linkWord then
    if s.fetchStale then s.discardFetch else (s.linkArrived link).offer .control
  else s

/-! ### Following, polling, checking (R173 to R178) -/

/-- The Walker goes on from a handled record whose write has been issued (R173, R174): parks, takes the linked record, or faults. -/
def State.followLink (s : State) : State :=
  let link := recLink s.walker.buffer
  if link = 0 then
    { s with walker := { s.walker with state := .parked, pollTimer := some s.walker.pollInterval } }
  else if s.linkValid link then s.takeRecordAt link
  else s.fault .badLink link

/-- A link-word read of the Walker's is waiting or outstanding (R176). -/
def State.linkPending (s : State) : Bool :=
  s.walker.wanted.isSome || (match s.port.fetch with
    | some p => p.fetch.what == .linkWord && !p.fetch.discard
    | none => false)

/-- A check reaches the Walker (R176). -/
def State.check (s : State) : State :=
  if s.walker.state = .parked then
    if s.linkPending then { s with walker := { s.walker with checkOwed := true } }
    else State.askLink { s with walker := { s.walker with pollTimer := none } }
  else s

/-- The blocked record's timer has reached its limit (R178). -/
def Walker.blockedOut (w : Walker) : Bool :=
  w.state == .blocked && (match w.blockedTimer with
    | some t => decide (w.blockedLimit ≤ t)
    | none => false)

/-! ### Starting and stopping (R168, R169, R187) -/

/-- The address a start would use (R187, check 4). -/
def State.startAddress (s : State) : Word64 :=
  if s.walker.newHead then s.ctl.chnHead
  else if s.walker.cursor ≠ 0 then s.walker.cursor
  else s.walker.next

/-- The start checks (R187). -/
def State.startValid (s : State) : Bool := s.ctl.regionValid && s.linkValid s.startAddress

/-- The start checks are made and the Walker starts, or faults BAD_START (R168, R187). -/
def State.start (s : State) : State :=
  if s.startValid then
    if s.walker.newHead then
      State.takeRecordAt { s with walker := { s.walker with cursor := 0, newHead := false } } s.ctl.chnHead
    else if s.walker.cursor ≠ 0 then
      State.askLink { s with walker := { s.walker with state := .parked, pollTimer := none, checkOwed := false } }
    else s.takeRecordAt s.walker.next
  else s.fault .badStart s.startAddress

/-- Mark the fetch in the port's hands to be discarded (R169). -/
def Port.discardFetch (p : Port) : Port :=
  { p with fetch := p.fetch.map (fun f => { f with fetch := { f.fetch with discard := true } }) }

/-- RUN has been cleared: the Walker finishes what it has in hand (R169). -/
def State.stop (s : State) : State :=
  match s.walker.state with
  | .idle => s
  | .faulted => { s with walker := { s.walker with state := .idle } }
  | .parked =>
    { s with port := s.port.discardFetch,
             walker := { s.walker with state := .idle, pollTimer := none, checkOwed := false, wanted := none } }
  | .blocked => { s with walker := { s.walker with stopping := true } }
  | .fetching => match s.walker.phase with
    | .fetch =>
      { s with port := s.port.discardFetch,
               walker := { s.walker with stopping := true, wanted := s.walker.wanted.map (fun f => { f with discard := true }) } }
    | .held => { s with walker := { s.walker with stopping := true } }
    | .link => { s with walker := { s.walker with state := .idle } }

end Sys2Proof.Machine
end

