-- ==== Sys2Proof/Machine/EngineCommands.lean ====
section
/-! DEFINITION. The engine's own completions: a combine, an emit, a solve, a drained context, a resumed teardown (R43, R67, R92, R98, R127). -/

namespace Sys2Proof.Machine

/-! ### COMBINE_COMPLETE (R98, R152) -/

/-- The events held behind a combine take effect, in the order they came (R98; log entry 6). -/
def State.releaseEvents : List Held → State → State
  | [], s => s
  | .dispatch :: rest, s => State.releaseEvents rest s.dispatchHeld
  | .swap i :: rest, s => State.releaseEvents rest (s.takeSwap i)
  | .timeOut i :: rest, s => State.releaseEvents rest (s.takeTimeOut i)

/-- The Combine Unit reports on the slot it holds (R98): a slot that was stale when taken is discarded. -/
def State.reportCombine (s : State) (w : Combining) : State :=
  match s.port.staging.get w.slot with
  | none => s
  | some t => if w.judged then s.judge t else s.discard t.ctx t.seg t.frag

/-- The slot in COMBINING is freed after its report (R152), and the events held behind it take effect. DESIGN CHOICE (log entry 38): they do so
before an idle Emit Unit takes the position that the combine made FULL, so that an end takes that position off the emit queue. -/
def State.finishCombine (s : State) (w : Combining) : State :=
  let s1 := (s.reportCombine w).freeStaging w.slot
  State.releaseEvents s1.held { s1 with combining := none, held := [] }

/-- COMBINE_COMPLETE (R98): acts when the Combine Unit holds a slot. -/
def execCombineComplete (s : State) : Host.Outcome State Fault Refusal :=
  .next (match s.combining with
    | none => s
    | some w => (s.finishCombine w).settle)

/-! ### EMIT_COMPLETE (R67) -/

/-- The position of the finished emit becomes DONE, and the Window Unit examines the base (R67, R68). -/
def State.finishEmit (s : State) (e : Emit) : State :=
  let s := { s with emit := none }
  (s.modCtx e.ctx (fun c => match c.holding e.seg with
    | some p => c.putPosition e.seg { p with state := .done }
    | none => c)).examineBase e.ctx

/-- EMIT_COMPLETE (R67): acts when the last output write of the emit in progress has been placed. -/
def execEmitComplete (s : State) : Host.Outcome State Fault Refusal :=
  .next (match s.emit with
    | none => s
    | some e => if e.targetsLeft = [] then (s.finishEmit e).settle else s)

/-! ### SOLVE_COMPLETE (R127) -/

/-- The working table is installed and the context enters RUNNING (R28, R127). -/
def State.finishSolve (s : State) (j : Solve) : State :=
  let s := { s with solving := none }
  match s.ctxs.get j.ctx with
  | none => s
  | some c =>
    if c.state = .solving then
      State.oweProgress
        { s with ctxs := s.ctxs.set j.ctx (Ctx.restartTimer { c with state := .running, table := some j.working }) } j.ctx
    else s

/-- SOLVE_COMPLETE (R127): acts when the Solver is BUSY. -/
def execSolveComplete (s : State) : Host.Outcome State Fault Refusal :=
  .next (match s.solving with
    | none => s
    | some j => (s.finishSolve j).settle)

/-! ### DRAINED (R42, R43 steps 1 to 3, R92) -/

/-- The context's DONE positions. -/
def Ctx.donePositions (c : Ctx) : List Position := c.positions.filter (fun p => p.state == .done)

/-- How many entries of the given state that came from Feed entry `e` stand at the context's DONE positions. -/
def Ctx.doneEntries (c : Ctx) (e : Nat) (state : LogState) : Nat :=
  (c.donePositions.flatMap (fun p => p.row.rows)).countP (fun r => r.2.feed == e && r.2.state == state)

/-- How many of the context's DONE positions are bound to Sink entry `e`. -/
def Ctx.doneBinds (c : Ctx) (e : Nat) : Nat := (c.donePositions.flatMap (fun p => p.binds.rows)).countP (fun r => r.2 == e)

/-- What the DONE positions hand Feed entry `e`, as if they retired (R43, step 1): each CONTRIBUTED entry counts used, each LOGGED one unused. The
counts only add up, so no order of the positions shows (log entry 35). -/
def FeedEntry.account (f : FeedEntry) (c : Ctx) (e : Nat) : FeedEntry :=
  let used := c.doneEntries e .contributed
  let unused := c.doneEntries e .logged
  { f with counts := { f.counts with used := f.counts.used + used, unused := f.counts.unused + unused },
           pending := f.pending - (used + unused) }

/-- What the DONE positions hand Sink entry `e` (R43, step 1): the segment of each counts written. -/
def SinkEntry.account (k : SinkEntry) (c : Ctx) (e : Nat) : SinkEntry :=
  { k with written := k.written + c.doneBinds e, pending := k.pending - c.doneBinds e }

/-- A Feed entry at teardown: every segment still owed counts unused (R43, step 2; R92). -/
def FeedEntry.teardown (f : FeedEntry) : FeedEntry :=
  { f with counts := { f.counts with unused := f.counts.unused + f.pending }, pending := 0 }

/-- A Sink entry at teardown: every segment still owed counts unwritten (R43, step 3; R92). -/
def SinkEntry.teardown (k : SinkEntry) : SinkEntry := { k with unwritten := k.unwritten + k.pending, pending := 0 }

/-- Finalise Feed entries of context `c`, in list order (R92). -/
def State.teardownFeeds (c : Ctx) : List Nat → State → State
  | [], s => s
  | e :: rest, s => State.teardownFeeds c rest (match s.feeds.get e with
      | none => s
      | some f => s.finaliseFeed e (f.account c e).teardown)

/-- Finalise Sink entries of context `c`, in list order (R92). -/
def State.teardownSinks (c : Ctx) : List Nat → State → State
  | [], s => s
  | e :: rest, s => State.teardownSinks c rest (match s.sinks.get e with
      | none => s
      | some k => s.finaliseSink e (k.account c e).teardown)

/-- Context `i` is drained (R42): no staging slot of its own in use, no emit of its own in progress. -/
def State.isDrained (s : State) (i : Nat) (c : Ctx) : Bool :=
  c.state == .draining && c.teardown == .draining && s.slotsInUse i == 0 && !s.emitting i

/-- Steps 1 to 3 of finalisation (R43): the DONE positions are counted, and every entry is finalised in feed list order, then in sink list
order (R92). DEDUCED (log entry 35): an entry that step 1 leaves with nothing owed is finalised by these walks too, not at once. -/
def State.finaliseContext (s : State) (i : Nat) (c : Ctx) : State :=
  (State.teardownSinks c c.sinkList (State.teardownFeeds c c.feedList s)).modCtx i (fun c => { c with teardown := .statuses })

/-- DRAINED (R43) of context `slot`: acts when it is drained. -/
def execDrained (slot : Fin 64) (s : State) : Host.Outcome State Fault Refusal :=
  .next (match s.ctxs.get slot with
    | none => s
    | some c => if s.isDrained slot c then (s.finaliseContext slot c).settle else s)

/-! ### TEARDOWN_RESUME (R43 steps 4 to 6, R44, R92) -/

/-- The Registry's report of R92: the context is finalised and none of its statuses waits in the status queue (log entry 18). -/
def State.statusesOut (s : State) (i : Nat) (c : Ctx) : Bool :=
  c.state == .draining && c.teardown == .statuses && !s.statusQueue.any (fun t => t.ctx == i)

/-- Step 4: the context's cells return to the pool and the cell wait queue is served (R43). -/
def State.returnCells (s : State) (i : Nat) (c : Ctx) : State :=
  State.serveCellWait
    { s with ctxs := s.ctxs.set i { c with cells := [], teardown := .closing }, freeCells := s.freeCells + c.cells.length }

/-- Steps 5 and 6: the final progress write and the OPEN's DONE are readied (R43); steps 7 and 8 follow when the DONE has been
placed (R44; log entry 17). -/
def State.closeContext (s : State) (i : Nat) (c : Ctx) : State :=
  let s := s.oweProgress i
  s.setReady i (s.readyOf i ++ [.openDone c.geo.openAddr (c.outcome.getD .complete) c.geo.notify])

/-- TEARDOWN_RESUME (R92) of context `slot`: acts when its last status has entered the write queue. -/
def execTeardownResume (slot : Fin 64) (s : State) : Host.Outcome State Fault Refusal :=
  .next (match s.ctxs.get slot with
    | none => s
    | some c =>
      if s.statusesOut slot c then ((s.returnCells slot c).settle.closeContext slot c).settle else s)

end Sys2Proof.Machine
end

