-- ==== Sys2Proof/Machine/PortCommands.lean ====
section
/-! DEFINITION. The Memory Port's events: issue opportunities, the claim line, completions of source reads (chapter 7). -/

namespace Sys2Proof.Machine

/-- ISSUE_OPPORTUNITY (R132). -/
def execIssueOpportunity (s : State) : Host.Outcome State Fault Refusal := .next s.issueOne

/-- CLAIM_LINE_SERVE (R136). -/
def execClaimLineServe (s : State) : Host.Outcome State Fault Refusal := .next s.serveClaims

/-- SOURCE_READ_COMPLETE (R147): acts on a slot whose read is on the link. -/
def execSourceReadComplete (slot : Fin 32) (data : List Byte) (s : State) : Host.Outcome State Fault Refusal :=
  .next (if s.readDue slot then (s.readArrived slot data).settle else s)

/-- SOURCE_READ_ERROR (R148, R149): acts on a slot whose read is on the link. -/
def execSourceReadError (slot : Fin 32) (s : State) : Host.Outcome State Fault Refusal :=
  .next (if s.readDue slot then (s.readErred slot).settle else s)

end Sys2Proof.Machine
end

