-- ==== Sys2Proof/Machine/RecordCommands.lean ====
section
/-! DEFINITION. The record commands: a record fetch has brought a record of the command's kind (R170, R171, R172). -/

namespace Sys2Proof.Machine

/-- OPEN: the first 64 bytes of an OPEN record, or the second 64, whichever the Walker fetched (R170, R21). -/
def execOpenRecord (bytes : List Byte) (s : State) : Host.Outcome State Fault Refusal :=
  .next (if s.fetchOut .secondHalf then s.openTailArrived (exactBytes 64 bytes)
    else s.recordArrived (withKind 1 bytes))

/-- FEED (R78). -/
def execFeed (bytes : List Byte) (s : State) : Host.Outcome State Fault Refusal :=
  .next (s.recordArrived (withKind 2 bytes))

/-- SINK (R82). -/
def execSink (bytes : List Byte) (s : State) : Host.Outcome State Fault Refusal :=
  .next (s.recordArrived (withKind 3 bytes))

/-- DROP (R106). -/
def execDrop (bytes : List Byte) (s : State) : Host.Outcome State Fault Refusal :=
  .next (s.recordArrived (withKind 4 bytes))

/-- ABORT (R39). -/
def execAbort (bytes : List Byte) (s : State) : Host.Outcome State Fault Refusal :=
  .next (s.recordArrived (withKind 5 bytes))

/-- REGION (R185). -/
def execRegion (bytes : List Byte) (s : State) : Host.Outcome State Fault Refusal :=
  .next (s.recordArrived (withKind 6 bytes))

/-- TUNE (R183). -/
def execTune (bytes : List Byte) (s : State) : Host.Outcome State Fault Refusal :=
  .next (s.recordArrived (withKind 7 bytes))

/-- LEVEL (R165). -/
def execLevel (bytes : List Byte) (s : State) : Host.Outcome State Fault Refusal :=
  .next (s.recordArrived (withKind 8 bytes))

/-- BAD_KIND (R171): the record is taken with the kind byte it has. -/
def execBadKind (bytes : List Byte) (s : State) : Host.Outcome State Fault Refusal :=
  .next (s.recordArrived (exactBytes 64 bytes))

end Sys2Proof.Machine
end

