-- ==== Sys2Proof/Machine/ResetCommands.lean ====
section
/-! DEFINITION. The two resets and the return of reads from before a soft reset (R153, R154, R193, R194). -/

namespace Sys2Proof.Machine

/-- A staging slot whose read is on the link; of a pair, the lower slot stands for the one read. -/
def readOnLink (r : Nat × Staging) : Bool :=
  r.2.phase == .reading && (match r.2.partner with
    | none => true
    | some j => decide (r.1 < j))

/-- The reads outstanding on the link: source reads, and a record fetch (R153). -/
def State.linkReads (s : State) : Nat :=
  s.port.staging.rows.countP readOnLink +
    (match s.port.fetch with
      | some p => if p.outstanding then 1 else 0
      | none => 0)

/-- A soft reset (R193, R153): every block returns to its reset state; CHN_BASE and CHN_SIZE stay; RESETTING is set while reads
are outstanding. The model's own fields stay. -/
def State.softReset (s : State) : State :=
  { State.reset with
    ctl := { Control.reset with chnBase := s.ctl.chnBase, chnSize := s.ctl.chnSize, resetting := decide (0 < s.linkReads) },
    port := { Port.reset with outstanding := s.linkReads },
    pending := s.pending, issued := s.issued, draws := s.draws }

/-- A full reset (R194, R154). The model's own fields stay. -/
def State.fullReset (s : State) : State :=
  { State.reset with pending := s.pending, issued := s.issued, draws := s.draws }

/-- FULL_RESET (R194). -/
def execFullReset (s : State) : Host.Outcome State Fault Refusal := .next s.fullReset

/-- OUTSTANDING_RETURN (R153): acts while reads from before a soft reset are out; the last one ends RESETTING. -/
def execOutstandingReturn (s : State) : Host.Outcome State Fault Refusal :=
  .next (if 0 < s.port.outstanding then
    { s with port := { s.port with outstanding := s.port.outstanding - 1 },
             ctl := { s.ctl with resetting := decide (1 < s.port.outstanding) } } else s)

end Sys2Proof.Machine
end

