-- ==== Sys2Proof/Machine/RegisterCommands.lean ====
section
/-! DEFINITION. The register commands (R186 to R188, R192, R193, R197). -/

namespace Sys2Proof.Machine

/-- The ATTN_ENABLE bit of a write of ENG_CTRL is applied (R192). -/
def State.applyAttn (s : State) (v : Word64) : State := { s with ctl := s.ctl.setAttnEnable (v.getLsbD 2) }

/-- The RUN bit of a write of ENG_CTRL is applied (R187): a write that leaves it as it was starts and stops nothing; a start waits
for an IDLE Walker. -/
def State.applyRun (s : State) (v : Word64) : State :=
  if v.getLsbD 0 = s.ctl.run then s
  else if v.getLsbD 0 then
    let s := { s with ctl := { s.ctl with run := true } }
    if s.walker.state = .idle then s.start else s
  else State.stop { s with ctl := { s.ctl with run := false } }

/-- The write both sets RUN and clears ATTN_ENABLE, so that the order of the two can be seen (log entry 16). -/
def State.orderMatters (s : State) (v : Word64) : Bool :=
  v.getLsbD 0 && !s.ctl.run && s.ctl.attnEnable && !v.getLsbD 2

/-- A write of ENG_CTRL (R186): while RESETTING is set only ATTN_ENABLE is taken; SOFT_RESET at 1 starts a soft reset and nothing
else of the write is applied. -/
def State.writeEngCtrl (s : State) (v : Word64) : State :=
  if s.ctl.resetting then (s.applyAttn v).offer .control
  else if v.getLsbD 1 then s.softReset
  else if s.orderMatters v then
    let t := { s with draws := s.draws + 1 }
    if Config.attentionFirst s.draws then ((t.applyAttn v).applyRun v).offer .control
    else ((t.applyRun v).applyAttn v).offer .control
  else ((s.applyRun v).applyAttn v).offer .control

/-- CHN_CHECK (R176, R186). -/
def execChnCheck (_value : Word64) (s : State) : Host.Outcome State Fault Refusal := .next s.check

/-- CHN_HEAD (R186): taken while RUN is clear. -/
def execChnHead (value : Word64) (s : State) : Host.Outcome State Fault Refusal :=
  .next (if s.ctl.run then s
    else { s with ctl := { s.ctl with chnHead := value }, walker := { s.walker with newHead := true } })

/-- REGISTER_WRITE (R186): CHN_BASE or CHN_SIZE, taken while RUN is clear. -/
def execRegisterWrite (reg : ChainRegister) (value : Word64) (s : State) : Host.Outcome State Fault Refusal :=
  .next (if s.ctl.run then s
    else match reg with
      | .base => { s with ctl := { s.ctl with chnBase := value } }
      | .size => { s with ctl := { s.ctl with chnSize := value } })

/-- RUN_SET (R187). -/
def execRunSet (value : Word64) (s : State) : Host.Outcome State Fault Refusal := .next (s.writeEngCtrl value)

/-- RUN_CLEAR (R169). -/
def execRunClear (value : Word64) (s : State) : Host.Outcome State Fault Refusal := .next (s.writeEngCtrl value)

/-- ATTN_ENABLE (R192). -/
def execAttnEnable (value : Word64) (s : State) : Host.Outcome State Fault Refusal := .next (s.writeEngCtrl value)

/-- SOFT_RESET (R193). -/
def execSoftReset (value : Word64) (s : State) : Host.Outcome State Fault Refusal := .next (s.writeEngCtrl value)

/-- CLEAR_ATTENTION (R192): a write of ENG_STAT with ATTENTION at 1. -/
def execClearAttention (value : Word64) (s : State) : Host.Outcome State Fault Refusal :=
  .next (if value.getLsbD 9 then { s with ctl := { s.ctl with attention := false } } else s)

end Sys2Proof.Machine
end

