-- ==== Sys2Proof/Machine/TimeCommands.lean ====
section
/-! DEFINITION. The tick and the stall expiry (R116, R117, R157, R159). -/

namespace Sys2Proof.Machine

/-- The refill of the credit at a tick (R159, R162); the tick is counted. -/
def Governor.refill (g : Governor) : Governor :=
  { g with credit := if g.level = 15 then g.credit else min (g.credit + budget g.level) (budget g.level),
           ticks := g.ticks + 1 }

/-- A running stall timer advances unless the level is 0 (R116); it stands at its limit until the expiry is taken (log entry 23). -/
def Ctx.tickTimer (level : Nat) (c : Ctx) : Ctx :=
  if c.timerRuns ∧ level ≠ 0 then { c with elapsed := min c.geo.stallLimit (c.elapsed + 1) } else c

/-- The retired count or a counter differs from the last progress write (R35, cause 4). -/
def Ctx.progressStale (c : Ctx) : Bool :=
  match c.lastProgress with
  | some v => v != (c.retired, c.counters)
  | none => false

/-- Owe the progress writes a tick brings (R35, cause 4). -/
def State.oweStale : List Nat → State → State
  | [], s => s
  | i :: rest, s => State.oweStale rest (match s.ctxs.get i with
      | some c => if c.progressStale then s.oweProgress i else s
      | none => s)

/-- A running blocked timer advances, at every level (R177); it stands at its limit until the refusal is taken (log entry 23). -/
def Walker.tickBlocked (w : Walker) : Walker :=
  { w with blockedTimer := w.blockedTimer.map (fun t => min w.blockedLimit (t + 1)) }

/-- A report write is owed if the values differ from those of the last one placed (R190). -/
def State.oweStaleReport (s : State) : State :=
  if s.ctl.lastReport = some s.reportValues then s else s.oweReport

/-- What a tick does in the blocks, before any write is placed (R157; order: log entry 13). -/
def State.tick (s : State) : State :=
  let s := { s with gov := s.gov.refill, ctxs := s.ctxs.mapValues (Ctx.tickTimer s.gov.level), walker := s.walker.tickBlocked }
  (State.oweStale s.ctxs.keys s).oweStaleReport

/-- TICK (R157). -/
def execTick (s : State) : Host.Outcome State Fault Refusal := .next s.tick.offerReady

/-- A DROP of a source of context `i`, which stands as `c`, or an ABORT of it was taken first and waits for the combine in progress: no expiry
of the context happens (R120; log entry 6). DESIGN CHOICE (log entry 41): a held swap or end of an earlier expiry bars none. A retire restarts
the timer meanwhile, so that a second expiry can be taken and counted before the first one's effect. -/
def State.changeHeld (s : State) (i : Nat) (c : Ctx) : Bool :=
  s.held.contains .dispatch && recContext s.walker.buffer == i &&
  (recKind s.walker.buffer == 5 || (recKind s.walker.buffer == 4 && c.role (recFragment s.walker.buffer) == .source))

/-- STALL_EXPIRY (R117) of context `slot`: acts when its stall timer has reached its limit, unless a change taken first is held. -/
def execStallExpiry (slot : Fin 64) (s : State) : Host.Outcome State Fault Refusal :=
  .next (match s.ctxs.get slot with
    | none => s
    | some c => if c.expired && !s.changeHeld slot c then (s.takeExpiry slot c).settle else s)

end Sys2Proof.Machine
end

