-- ==== Sys2Proof/Machine/WalkerCommands.lean ====
section
/-! DEFINITION. The Walker's own events: fetch errors and discards, following and polling links, blocked records, held starts (chapter 9). -/

namespace Sys2Proof.Machine

/-- RECORD_FETCH_ERROR (R133, R170, R175). -/
def execRecordFetchError (s : State) : Host.Outcome State Fault Refusal := .next s.fetchErred

/-- FETCH_DISCARD (R169): acts on an outstanding fetch that is to be discarded. -/
def execFetchDiscard (s : State) : Host.Outcome State Fault Refusal :=
  .next (if s.fetchStale then s.discardFetch else s)

/-- WALKER_WRITE_ISSUED (R173, R174): acts when the Walker waits for its disposition write and that has been issued. -/
def execWalkerWriteIssued (s : State) : Host.Outcome State Fault Refusal :=
  .next (if s.walker.state = .fetching ∧ s.walker.phase = .link ∧ s.walker.unissued = false then
    s.followLink.offer .control else s)

/-- LINK_WORD_READ (R175). -/
def execLinkWordRead (link : Word64) (s : State) : Host.Outcome State Fault Refusal :=
  .next (s.linkRead link)

/-- POLL_TIMER (R175): acts when the poll timer of a PARKED Walker runs. -/
def execPollTimer (s : State) : Host.Outcome State Fault Refusal :=
  .next (if s.walker.state = .parked ∧ s.walker.pollTimer.isSome then
    State.askLink { s with walker := { s.walker with pollTimer := none } } else s)

/-- TABLE_FULL (R178): acts when the blocked timer has reached the blocked limit. -/
def execTableFull (s : State) : Host.Outcome State Fault Refusal :=
  .next (if s.walker.blockedOut then (s.refuseRecord .tableFull).offer .walker else s)

/-- BLOCKED_RECHECK (R85, R178): acts when room has been reported to a BLOCKED Walker; the record is checked again in full. -/
def execBlockedRecheck (s : State) : Host.Outcome State Fault Refusal :=
  .next (if s.walker.state = .blocked ∧ s.walker.room then
    (State.recheck { s with walker := { s.walker with room := false } }).settle else s)

/-- HELD_START (R187): acts when the Walker has reached IDLE with RUN set. -/
def execHeldStart (s : State) : Host.Outcome State Fault Refusal :=
  .next (if s.walker.state = .idle ∧ s.ctl.run then s.start.offer .control else s)

end Sys2Proof.Machine
end

