-- ==== Sys2Proof/Machine/Dispatch.lean ====
section
/-! DEFINITION. The meaning of each command, one arm for each row of the table. -/

namespace Sys2Proof.Machine

/-- A command's effect on everything but the queue. -/
def exec (i : Instr) (s : State) : Host.Outcome State Fault Refusal :=
  match i with
  | .openRecord bytes => Sys2Proof.Machine.execOpenRecord bytes s
  | .feed bytes => Sys2Proof.Machine.execFeed bytes s
  | .sink bytes => Sys2Proof.Machine.execSink bytes s
  | .drop bytes => Sys2Proof.Machine.execDrop bytes s
  | .abort bytes => Sys2Proof.Machine.execAbort bytes s
  | .region bytes => Sys2Proof.Machine.execRegion bytes s
  | .tune bytes => Sys2Proof.Machine.execTune bytes s
  | .level bytes => Sys2Proof.Machine.execLevel bytes s
  | .badKind bytes => Sys2Proof.Machine.execBadKind bytes s
  | .recordFetchError => Sys2Proof.Machine.execRecordFetchError s
  | .fetchDiscard => Sys2Proof.Machine.execFetchDiscard s
  | .walkerWriteIssued => Sys2Proof.Machine.execWalkerWriteIssued s
  | .linkWordRead link => Sys2Proof.Machine.execLinkWordRead link s
  | .pollTimer => Sys2Proof.Machine.execPollTimer s
  | .chnCheck value => Sys2Proof.Machine.execChnCheck value s
  | .chnHead value => Sys2Proof.Machine.execChnHead value s
  | .registerWrite reg value => Sys2Proof.Machine.execRegisterWrite reg value s
  | .runSet value => Sys2Proof.Machine.execRunSet value s
  | .runClear value => Sys2Proof.Machine.execRunClear value s
  | .heldStart => Sys2Proof.Machine.execHeldStart s
  | .attnEnable value => Sys2Proof.Machine.execAttnEnable value s
  | .clearAttention value => Sys2Proof.Machine.execClearAttention value s
  | .softReset value => Sys2Proof.Machine.execSoftReset value s
  | .fullReset => Sys2Proof.Machine.execFullReset s
  | .outstandingReturn => Sys2Proof.Machine.execOutstandingReturn s
  | .tick => Sys2Proof.Machine.execTick s
  | .stallExpiry slot => Sys2Proof.Machine.execStallExpiry slot s
  | .tableFull => Sys2Proof.Machine.execTableFull s
  | .blockedRecheck => Sys2Proof.Machine.execBlockedRecheck s
  | .issueOpportunity => Sys2Proof.Machine.execIssueOpportunity s
  | .claimLineServe => Sys2Proof.Machine.execClaimLineServe s
  | .sourceReadComplete slot data => Sys2Proof.Machine.execSourceReadComplete slot data s
  | .sourceReadError slot => Sys2Proof.Machine.execSourceReadError slot s
  | .combineComplete => Sys2Proof.Machine.execCombineComplete s
  | .emitComplete => Sys2Proof.Machine.execEmitComplete s
  | .solveComplete => Sys2Proof.Machine.execSolveComplete s
  | .drained slot => Sys2Proof.Machine.execDrained slot s
  | .teardownResume slot => Sys2Proof.Machine.execTeardownResume slot s

end Sys2Proof.Machine
end

