-- ==== Sys2Proof/WellFormed.lean ====
section
/-! DEFINITION. Which terms of Instr spell a command of the table: lengths of what the link returns, kinds of records, bits of register writes. -/

namespace Sys2Proof

/-- A record command's bytes: 64 of them (R170), the kind byte (offset 8, chapter 11) being `kind`. -/
def recordBytes (kind : Nat) (bytes : List Byte) : Bool :=
  bytes.length == 64 && (bytes.getD 8 0).toNat == kind

/-- The lengths a source read can return: one segment unit or a pair of them, for size codes 0..3 (R13, R145). -/
def readLengths : List Nat := [544, 1056, 2080, 4128, 1088, 2112, 4160, 8256]

/-- The well-formed commands. The second half of an OPEN record has no kind byte, so only its length is asked. -/
def Instr.wellFormed : Instr → Bool
  | .openRecord bytes => bytes.length == 64
  | .feed bytes => recordBytes 2 bytes
  | .sink bytes => recordBytes 3 bytes
  | .drop bytes => recordBytes 4 bytes
  | .abort bytes => recordBytes 5 bytes
  | .region bytes => recordBytes 6 bytes
  | .tune bytes => recordBytes 7 bytes
  | .level bytes => recordBytes 8 bytes
  | .badKind bytes => bytes.length == 64 && ((bytes.getD 8 0).toNat == 0 || decide (8 < (bytes.getD 8 0).toNat))
  | .runSet value => value.getLsbD 0 && !value.getLsbD 1
  | .runClear value => !value.getLsbD 0 && !value.getLsbD 1
  | .attnEnable value => !value.getLsbD 1
  | .softReset value => value.getLsbD 1
  | .clearAttention value => value.getLsbD 9
  | .sourceReadComplete _ data => readLengths.contains data.length
  | .recordFetchError => true
  | .fetchDiscard => true
  | .walkerWriteIssued => true
  | .linkWordRead _ => true
  | .pollTimer => true
  | .chnCheck _ => true
  | .chnHead _ => true
  | .registerWrite _ _ => true
  | .heldStart => true
  | .fullReset => true
  | .outstandingReturn => true
  | .tick => true
  | .stallExpiry _ => true
  | .tableFull => true
  | .blockedRecheck => true
  | .issueOpportunity => true
  | .claimLineServe => true
  | .sourceReadError _ => true
  | .combineComplete => true
  | .emitComplete => true
  | .solveComplete => true
  | .drained _ => true
  | .teardownResume _ => true

end Sys2Proof
end

