-- ==== Sys2Proof/Safety.lean ====
section
/-! DEFINITION. What counts as a safe state and a safe step of the engine, in the terms the statements use. -/

namespace Sys2Proof.Machine

/-! ### States in which nothing is left over from the event before -/

/-- No writer but the Walker has a write ready, no writer stands in the claim line, no idle unit has work waiting: what a settled event
leaves when the write queue has not filled (R66, R125, R136, R151). -/
def State.calm (s : State) : Bool :=
  s.port.claimLine.isEmpty && s.statusQueue.isEmpty && s.ready.rows.isEmpty && !s.ctl.reportOwed && s.ctl.messages == 0 &&
  (match s.emit with
    | some e => e.targetsLeft.isEmpty
    | none => s.emitQueue.isEmpty) &&
  (s.solving.isSome || s.solveQueue.isEmpty) && (s.combining.isSome || s.combineQueue.isEmpty)

/-- Nothing is left over, the Walker has no write ready either, and the write queue has room for `n` writes (R134). -/
def State.atRest (s : State) (n : Nat) : Bool :=
  s.calm && s.walker.ready.isNone && decide (s.port.writeQueue.length + n ≤ Config.writePlaces)

/-- The Walker's fetch of a record's first 64 bytes is on the link, and RUN has not been cleared since (R169, R170). -/
def State.awaitsRecord (s : State) : Bool :=
  s.walker.state == .fetching && s.fetchOut .firstHalf && !s.fetchStale && !s.walker.stopping

/-- The Walker's fetch of an OPEN record's second 64 bytes is on the link, its first 64 bytes in the fetch buffer, and RUN has not been
cleared since (R169, R170). -/
def State.awaitsTail (s : State) : Bool :=
  s.walker.state == .fetching && s.fetchOut .secondHalf && !s.fetchStale && !s.walker.stopping && recordBytes 1 s.walker.buffer

/-- A record of the given kind as the host posts it: 64 bytes, POSTED, its must-be-zero bytes 0 (R170, R171). -/
def postedRecord (kind : Nat) (bytes : List Byte) : Bool :=
  recordBytes kind bytes && decide (recDisposition bytes = 0) && headerClean bytes && bodyClean kind bytes

/-- The command by which a completed fetch of a record's first 64 bytes arrives, by the record's kind byte (R171, R172). -/
def recordCommand (bytes : List Byte) : Instr :=
  match recKind bytes with
  | 1 => .openRecord bytes
  | 2 => .feed bytes
  | 3 => .sink bytes
  | 4 => .drop bytes
  | 5 => .abort bytes
  | 6 => .region bytes
  | 7 => .tune bytes
  | 8 => .level bytes
  | _ => .badKind bytes

/-! ### What a record leaves -/

/-- The two bytes that a disposition write changes in the record at `addr`: the disposition and the reason (R196). -/
def outcomeBytes (addr : Word64) (code reason : Nat) : Span :=
  { addr := addr.toNat + 10, bytes := [BitVec.ofNat 8 code, BitVec.ofNat 8 reason] }

/-- The record in hand has been handled (R172, R173, R174): its disposition write stands at the tail of the write queue, the cursor is at
it, it counts in records taken, and the Walker waits for the issue of the write, or is IDLE if RUN was cleared (R169). -/
def State.concluded (s : State) (kind : WriteKind) (spans : List Span) : State :=
  { s with
    walker := { s.walker with
      state := if s.walker.stopping then .idle else .fetching, phase := .link, stopping := false, cursor := s.walker.next,
      taken := min (2 ^ 64 - 1) (s.walker.taken + 1), ready := none, unissued := true, dropped := none, blockedTimer := none, room := false },
    port := { s.port with writeQueue := s.port.writeQueue ++ [{ writer := .walker, kind := kind, spans := spans }] } }

/-- The bytes of a record, or of the cursor's link word, are in the fetch buffer and the fetch is done (R133, R170). -/
def State.fetched (s : State) (record : List Byte) : State :=
  { s with walker := { s.walker with buffer := record }, port := { s.port with fetch := none } }

/-- The fetched record is handled with a disposition that is final (R172, R180). -/
def State.finished (s : State) (record : List Byte) (spans : List Span) : State :=
  (s.fetched record).concluded (.final (recNotify record)) spans

/-- The fetched record is REFUSED with a reason, and nothing else changes (R20, R172). -/
def State.refused (s : State) (record : List Byte) (r : Reason) : State :=
  s.finished record [outcomeBytes s.walker.next 3 r.code]

/-- The Walker is FAULTED (R179): ATTENTION is set, the report block's write is placed if the chain region is valid (R190), and behind it
the message, if ATTN_ENABLE is set and ATTENTION was clear (R191). -/
def State.faulted (s : State) (r : WalkerFault) (addr : Word64) : State :=
  let t := { s with
    walker := { s.walker with state := .faulted, faultReason := some r, faultAddr := addr, pollTimer := none, checkOwed := false,
                              wanted := none },
    ctl := { s.ctl with attention := true } }
  let told := s.ctl.attnEnable && !s.ctl.attention
  { t with
    ctl := { t.ctl with lastReport := if s.ctl.regionValid then some t.reportValues else s.ctl.lastReport },
    port := { s.port with writeQueue := s.port.writeQueue ++ (if s.ctl.regionValid then [t.reportWrite] else []) ++
                                        (if told then [t.messageWrite] else []) },
    draws := if told then s.draws + 1 else s.draws }

/-- The Walker asks for a fetch, giving it the retry count in force (R133). -/
def State.asking (s : State) (what : FetchKind) (addr : Word64) : Walker :=
  { s.walker with wanted := some { what := what, addr := addr, reissues := s.port.retryCount, discard := false } }

/-- The Walker takes the record at `addr` (R168, R170, R174): FETCHING, that record next, its first 64 bytes asked for. -/
def State.taking (s : State) (addr : Word64) : State :=
  { s with walker := { s.asking .firstHalf addr with state := .fetching, phase := .fetch, next := addr } }

/-- The Walker starts (R168), or faults BAD_START (R187): from CHN_HEAD if the new-head flag is set; else, PARKED, by reading the cursor's
link if the cursor is not 0; else from its next address. -/
def State.started (s : State) : State :=
  let addr := if s.walker.newHead then s.ctl.chnHead else if s.walker.cursor ≠ 0 then s.walker.cursor else s.walker.next
  if chainRegionValid s.ctl.chnBase s.ctl.chnSize = true ∧ recordAddressValid s.ctl.chnBase s.ctl.chnSize addr = true then
    if s.walker.newHead then State.taking { s with walker := { s.walker with cursor := 0, newHead := false } } s.ctl.chnHead
    else if s.walker.cursor ≠ 0 then
      { s with walker := { s.asking .linkWord s.walker.cursor with state := .parked, pollTimer := none, checkOwed := false } }
    else s.taking s.walker.next
  else s.faulted .badStart addr

/-! ### Invariants -/

/-- The credit bounds of R161, with the levels of R156. -/
def Governor.bounded (g : Governor) : Prop :=
  g.level ≤ 15 ∧ (if g.level = 15 then g.credit = 0 else -8255 ≤ g.credit ∧ g.credit ≤ budget g.level)

/-- The ranges of the five settings of a TUNE (R183). -/
def State.settingsInRange (s : State) : Prop :=
  1 ≤ s.port.readLimit ∧ s.port.readLimit ≤ 4 ∧ s.port.retryCount ≤ 3 ∧
  1 ≤ s.walker.pollInterval ∧ s.walker.pollInterval ≤ 255 ∧ s.walker.blockedLimit ≤ 1000

/-- The nine counters (R33). -/
def Counters.values (n : Counters) : List Nat :=
  [n.refusals, n.misplaced, n.epoch, n.corrupt, n.readFailures, n.substitutions, n.stallExpiries, n.late, n.duplicate]

/-- No counter is above the value it saturates at (R33). -/
def Counters.inRange (n : Counters) : Prop := ∀ v ∈ n.values, v ≤ 65535

/-- No counter of the first is above the same counter of the second. -/
def Counters.upTo (n m : Counters) : Prop := ∀ p ∈ n.values.zip m.values, p.1 ≤ p.2

/-- What holds of every context: a size code of 0 to 3 (R22), EXPOSED right (R26), retired count equal to base (R49), counters in
range (R33). -/
def Ctx.sound (c : Ctx) : Prop :=
  c.geo.sizeCode ≤ 3 ∧ c.exposed = c.noSpare ∧ c.retired = c.base ∧ c.counters.inRange

/-- Every context is sound. -/
def State.contextsSound (s : State) : Prop := ∀ i c, s.ctxs.get i = some c → c.sound

/-- A Feed entry in use owes at least one segment, and its pending count and outcomes add up to its count (R74, R86). -/
def FeedEntry.balanced (f : FeedEntry) : Prop := 1 ≤ f.pending ∧ f.pending + f.counts.total = f.count

/-- A Sink entry in use owes at least one segment, and its pending count and outcomes add up to its count (R75, R87). -/
def SinkEntry.balanced (k : SinkEntry) : Prop := 1 ≤ k.pending ∧ k.pending + (k.written + k.unwritten) = k.count

/-- Every Feed entry in use is balanced. -/
def State.feedsBalanced (s : State) : Prop := ∀ e f, s.feeds.get e = some f → f.balanced

/-- Every Sink entry in use is balanced. -/
def State.sinksBalanced (s : State) : Prop := ∀ e k, s.sinks.get e = some k → k.balanced

/-- The canonical form of the Accumulation Store: cell numbers rising, each listed cell 4096 bytes long and not 00 throughout. -/
def storeCanonical (store : Table (List Byte)) : Prop :=
  store.wf = true ∧ ∀ r ∈ store.rows, r.2.length = Config.cellBytes ∧ r.2.all (· = 0) = false

/-- The write queue holds at most 64 writes (R134), and no writer stands in the claim line twice (R136). -/
def Port.queuesBounded (p : Port) : Prop := p.writeQueue.length ≤ Config.writePlaces ∧ p.claimLine.Nodup

/-! ### Contexts, cells and queues that agree -/

/-- A write a slot has ready that is not the OPEN record's DONE: the context stays when it is placed (R44). -/
def CtxWrite.notDone : CtxWrite → Bool
  | .progress => true
  | .openDone _ _ _ => false
  | .abortDone _ _ => true

/-- Each position stands in its segment's slot, each slot listed once (R49). -/
def Ctx.seated (c : Ctx) : Prop := c.slots.wf = true ∧ ∀ n p, c.slots.get n = some p → p.seg % c.geo.width = n

/-- The window of R49: positions hold segments from base to min(base + W, N) − 1 alone, and in a context that holds cells each of these is
held, by one position only, since each stands in its own slot. -/
structure Ctx.windowed (c : Ctx) : Prop where
  width : 1 ≤ c.geo.width
  seated : c.seated
  inside : ∀ n p, c.slots.get n = some p → c.base ≤ p.seg ∧ p.seg < c.base + c.geo.width ∧ p.seg < c.geo.segCount
  held : c.cells ≠ [] → ∀ seg, c.base ≤ seg → seg < c.base + c.geo.width → seg < c.geo.segCount → (c.holding seg).isSome = true

/-- The cells a context holds (R29): none in PENDING, when its window is not open; W × T of them in SOLVING and RUNNING; these or none in
DRAINING (R43, R47). -/
structure Ctx.lent (c : Ctx) : Prop where
  targets : 1 ≤ c.targetCount
  pending : c.state = .pending → c.cells = [] ∧ c.slots.rows = [] ∧ c.base = 0
  whole : c.cells = [] ∨ c.cells.length = c.cellNeed
  working : c.state = .solving ∨ c.state = .running → c.cells ≠ []

/-- The contexts the Solver has, the one being solved first (R122). -/
def State.solverHas (s : State) : List Nat := (s.solving.map (·.ctx)).toList ++ s.solveQueue

/-- The cells that contexts hold. -/
def State.lentCells (s : State) : List Nat := s.ctxs.rows.flatMap (fun r => r.2.cells)

/-- What the context table, the cells, the windows and the two queues of contexts say of one another. -/
structure State.agrees (s : State) : Prop where
  /-- Context slots are listed once, in order. -/
  listed : s.ctxs.wf = true
  /-- Free cells and lent cells are 512 together, and no cell is lent twice (R29). -/
  cells : s.freeCells + s.lentCells.length = 512 ∧ s.lentCells.Nodup ∧ ∀ n ∈ s.lentCells, n < 512
  lent : ∀ i c, s.ctxs.get i = some c → c.lent
  /-- Windows (R49). -/
  window : ∀ i c, s.ctxs.get i = some c → c.windowed
  /-- The cell wait queue holds the contexts in PENDING, each once (R30). -/
  waits : s.cellWait.Nodup ∧ ∀ i, i ∈ s.cellWait ↔ ∃ c, s.ctxs.get i = some c ∧ c.state = .pending
  /-- The Solver has the contexts in SOLVING, each once: queued or being solved (R122, R124). -/
  solver : s.solverHas.Nodup ∧ ∀ i, i ∈ s.solverHas ↔ ∃ c, s.ctxs.get i = some c ∧ c.state = .solving
  /-- An OPEN's DONE is readied once, in the last step of a teardown, the cells returned (R43, R44). -/
  closing : ∀ i, (s.readyOf i).countP (fun w => !w.notDone) ≤ 1 ∧
    ((s.readyOf i).all CtxWrite.notDone = false →
      ∃ c, s.ctxs.get i = some c ∧ c.state = .draining ∧ c.teardown = .closing ∧ c.cells = [])

/-- Whom the staging slots read for. -/
structure State.stagingSound (s : State) : Prop where
  /-- A slot that is not stale belongs to a context in RUNNING and reads for one of its sources (R98). -/
  sources : ∀ k u, s.port.staging.get k = some u → u.stale = false →
    ∃ c, s.ctxs.get u.ctx = some c ∧ c.state = .running ∧ c.role u.frag = .source
  /-- A slot in RETRYING is not stale (R150). -/
  retrying : ∀ k u, s.port.staging.get k = some u → u.phase = .retrying → u.stale = false
  /-- The slots of a pair stand alike until the read is done (R140, R145, R148). -/
  pairs : ∀ k j u, s.port.staging.get k = some u → u.phase = .reading ∨ u.phase = .retrying → u.partner = some j →
    ∃ v, s.port.staging.get j = some v ∧ v.partner = some k ∧ v.ctx = u.ctx ∧ v.frag = u.frag ∧ v.phase = u.phase ∧ v.stale = u.stale

/-- Feed entries, Sink entries and staging slots are listed once, in order. -/
def State.tablesListed (s : State) : Prop := s.feeds.wf = true ∧ s.sinks.wf = true ∧ s.port.staging.wf = true

/-! ### What a step does to a context that is there before and after it -/

/-- The changes of role an event may make (R25): between SOURCE and SPARE, and from either to FAILED. So FAILED stays FAILED, TARGET stays TARGET
and ABSENT stays ABSENT. -/
def RoleMove (a b : Role) : Prop :=
  a = b ∨ (a = .source ∧ (b = .spare ∨ b = .failed)) ∨ (a = .spare ∧ (b = .source ∨ b = .failed))

/-- What no event changes in a context's life, its roles moving by `P`: the record's geometry stands (R19), base never falls and takes
the retired count along (R49), EXPOSED stays right (R26), counters never fall and stay in range (R33). -/
structure CtxKept (P : Role → Role → Prop) (c c' : Ctx) : Prop where
  geo : c'.geo = c.geo
  roles : ∀ f, P (c.role f) (c'.role f)
  exposed : c.exposed = c.noSpare → c'.exposed = c'.noSpare
  base : c.base ≤ c'.base
  window : c.retired = c.base → c'.retired = c'.base
  counters : c.counters.inRange → c'.counters.inRange ∧ c.counters.upTo c'.counters

/-- Every context of `t` was a context of `s`, in the same slot, and kept what a context keeps. -/
def State.contextsKept (P : Role → Role → Prop) (s t : State) : Prop :=
  ∀ i c', t.ctxs.get i = some c' → ∃ c, s.ctxs.get i = some c ∧ CtxKept P c c'

/-- The slot holds a context whose OPEN record's DONE has not been readied (R43, R44). -/
def State.holds (s : State) (i : Nat) : Prop := (s.ctxs.get i).isSome = true ∧ (s.readyOf i).all CtxWrite.notDone = true

/-! ### What placing writes leaves alone -/

/-- A context but for what its last progress write carried (R35). -/
def Ctx.steady (c : Ctx) : Ctx := { c with lastProgress := none }

/-- The state but for what placing writes changes: the write queue and the claim line (R134, R136), what is readied, statuses waiting,
targets left to emit, what the last report carried, room reported by a status's placing (R85), contexts freed (R44). -/
def State.steady (s : State) : State :=
  { s with
    ctl := { s.ctl with reportOwed := false, lastReport := none, messages := 0 },
    walker := { s.walker with ready := none, dropped := none, room := false },
    port := { s.port with writeQueue := [], claimLine := [] },
    ctxs := Table.empty, ready := Table.empty, statusQueue := [], emit := none, draws := 0 }

/-- The contexts of `t` are those of `s`, but for what a last progress write carried; a context is gone only from a slot whose OPEN's DONE
had been readied (R44). -/
def State.ctxsSteady (s t : State) : Prop :=
  ∀ i, (t.ctxs.get i).map Ctx.steady = (s.ctxs.get i).map Ctx.steady ∨ (t.ctxs.get i = none ∧ ¬ s.holds i)

/-- The write queue of `t` is that of `s` with writes behind it (R134). -/
def State.queueExtends (s t : State) : Prop := ∃ more, t.port.writeQueue = s.port.writeQueue ++ more

/-! ### Records that fail their checks -/

/-- The first check that an OPEN record fails once it is known to be POSTED (R21, R171), or none. -/
def State.openReason (s : State) (b : List Byte) : Option Reason :=
  if headerClean b = false then some .badField
  else if 64 ≤ recContext b then some .badField
  else if (s.ctxs.get (recContext b)).isSome then some .slotBusy
  else if s.ctxs.rows.any (fun row => row.2.geo.stripe == recStripe b) then some .duplicateStripe
  else if openBodyValid b = false then some .badField
  else none

/-- The first check of R78 that a FEED fails, or none. -/
def State.feedReason (s : State) (b : List Byte) : Option Reason :=
  if 64 ≤ recContext b ∨ 24 ≤ recFragment b ∨ recCount b = 0 ∨ 64 < recCount b then some .badField
  else match s.ctxs.get (recContext b) with
    | none => some .noContext
    | some c =>
      if c.geo.stripe ≠ recStripe b then some .noContext
      else if c.state = .draining then some .ending
      else if c.role (recFragment b) = .absent ∨ c.role (recFragment b) = .target then some .role
      else if c.geo.segCount < recFirst b + recCount b then some .beyondFragment
      else if addressRegion s.ctl.regions false (recBuffer b) (recCount b * c.geo.unitSize) = none then some .address
      else none

/-- The first check of R82 that a SINK fails, or none. -/
def State.sinkReason (s : State) (b : List Byte) : Option Reason :=
  if 64 ≤ recContext b ∨ 24 ≤ recFragment b ∨ recCount b = 0 ∨ 64 < recCount b then some .badField
  else match s.ctxs.get (recContext b) with
    | none => some .noContext
    | some c =>
      if c.geo.stripe ≠ recStripe b then some .noContext
      else if c.state = .draining then some .ending
      else if c.role (recFragment b) ≠ .target then some .role
      else if c.geo.segCount < recFirst b + recCount b then some .beyondFragment
      else if addressRegion s.ctl.regions true (recBuffer b) (recCount b * c.geo.unitSize) = none then some .address
      else if s.sinks.rows.any (fun e => e.2.ctx == recContext b && e.2.target == recFragment b &&
        rangesMeet e.2.first e.2.count (recFirst b) (recCount b)) then some .overlap
      else none

/-- The first check of R106 that a DROP fails, or none. -/
def State.dropReason (s : State) (b : List Byte) : Option Reason :=
  if 64 ≤ recContext b ∨ 24 ≤ recFragment b then some .badField
  else match s.ctxs.get (recContext b) with
    | none => some .noContext
    | some c =>
      if c.geo.stripe ≠ recStripe b then some .noContext
      else if c.state = .draining then some .ending
      else if c.role (recFragment b) = .absent ∨ c.role (recFragment b) = .target then some .role
      else none

/-- The first check of R39 that an ABORT fails, or none. -/
def State.abortReason (s : State) (b : List Byte) : Option Reason :=
  if 64 ≤ recContext b then some .badField
  else match s.ctxs.get (recContext b) with
    | none => some .noContext
    | some c =>
      if c.geo.stripe ≠ recStripe b then some .noContext
      else if c.state = .draining ∧ 4 ≤ c.aborts.length then some .ending
      else none

/-! ### Records that pass their checks -/

/-- A FEED that passes every check of R78 for context `c`, its buffer in region `r`. -/
def State.feedPasses (s : State) (b : List Byte) (c : Ctx) (r : Nat) : Prop :=
  recContext b < 64 ∧ recFragment b < 24 ∧ 1 ≤ recCount b ∧ recCount b ≤ 64 ∧
  s.ctxs.get (recContext b) = some c ∧ c.geo.stripe = recStripe b ∧ c.state ≠ .draining ∧
  c.role (recFragment b) ≠ .absent ∧ c.role (recFragment b) ≠ .target ∧ recFirst b + recCount b ≤ c.geo.segCount ∧
  addressRegion s.ctl.regions false (recBuffer b) (recCount b * c.geo.unitSize) = some r

/-- A SINK that passes every check of R82 for context `c`, its buffer in region `r`. -/
def State.sinkPasses (s : State) (b : List Byte) (c : Ctx) (r : Nat) : Prop :=
  recContext b < 64 ∧ recFragment b < 24 ∧ 1 ≤ recCount b ∧ recCount b ≤ 64 ∧
  s.ctxs.get (recContext b) = some c ∧ c.geo.stripe = recStripe b ∧ c.state ≠ .draining ∧
  c.role (recFragment b) = .target ∧ recFirst b + recCount b ≤ c.geo.segCount ∧
  addressRegion s.ctl.regions true (recBuffer b) (recCount b * c.geo.unitSize) = some r ∧
  ∀ e ∈ s.sinks.rows, e.2.ctx = recContext b → e.2.target = recFragment b →
    rangesMeet e.2.first e.2.count (recFirst b) (recCount b) = false

/-- A DROP or an ABORT names context `c` by slot and stripe (R39, R106). -/
def State.names (s : State) (b : List Byte) (c : Ctx) : Prop :=
  recContext b < 64 ∧ s.ctxs.get (recContext b) = some c ∧ c.geo.stripe = recStripe b

/-- The Walker is BLOCKED on the fetched record (R85, R177), its timer started unless the limit is 0. -/
def State.blockedOn (s : State) (record : List Byte) : State :=
  let t := s.fetched record
  { t with walker := { t.walker with state := .blocked, room := false,
                                     blockedTimer := if s.walker.blockedLimit = 0 then none else some 0 } }

/-- The dispatch of the fetched record waits for the combine in progress to be reported (R98; log entry 6). -/
def State.heldOn (s : State) (record : List Byte) : State :=
  let t := s.fetched record
  { t with walker := { t.walker with phase := .held }, held := s.held ++ [.dispatch] }

/-- A context but for its position table, its feed and sink lists and what its last progress write carried. -/
def Ctx.bones (c : Ctx) : Ctx := { c with slots := Table.empty, feedList := [], sinkList := [], lastProgress := none }

/-- Every context of `s` is one of `t` in the same slot, the same but for its position table, its lists and its last progress write; and
no other slot holds one. -/
def State.ctxsAlike (s t : State) : Prop := ∀ j, (t.ctxs.get j).map Ctx.bones = (s.ctxs.get j).map Ctx.bones

/-- What a discard of the staged unit `u` does, between `s` and `t` (R57): nothing, if the position is gone, the entry is not INFLIGHT or the
context is DRAINING, where the entry stays INFLIGHT; NONE and counted unused, if the fragment is FAILED; else LOGGED again, verified kept. -/
def State.discarded (s t : State) (u : Staging) (c : Ctx) : Prop :=
  ((∀ p en, c.holding u.seg = some p → p.row.get u.frag = some en → en.state ≠ .inflight) ∨ c.state = .draining →
    t.ctxs = s.ctxs ∧ t.feeds = s.feeds) ∧
  (∀ p en, c.holding u.seg = some p → p.row.get u.frag = some en → en.state = .inflight → c.state ≠ .draining →
    ∃ c' p', t.ctxs.get u.ctx = some c' ∧ c'.bones = c.bones ∧ c'.holding u.seg = some p' ∧ p'.state = p.state ∧
      (∀ g, g ≠ u.frag → p'.row.get g = p.row.get g) ∧
      (c.role u.frag = .failed → p'.row.get u.frag = none ∧ t.feeds = (s.feedOutcome en.feed .unused).feeds) ∧
      (c.role u.frag ≠ .failed → p'.row.get u.frag = some { en with state := .logged } ∧ t.feeds = s.feeds))

/-- Every staging slot of context `i` is marked stale between `s` and `t`, and no other (R41, R113, R140): one in RETRYING is freed and leaves the
reissue line (R150), any other stays in its phase. -/
def State.staleMarked (s t : State) (i : Nat) : Prop :=
  (∀ k, t.port.staging.get k = (s.port.staging.get k).bind (fun u =>
    if u.ctx ≠ i then some u else if u.phase = .retrying then none else some { u with stale := true })) ∧
  t.port.reissueLine = s.port.reissueLine.filter (fun k =>
    !(s.port.staging.get k).any (fun u => u.ctx == i && u.phase == .retrying))

/-- Each Feed entry of `feeds` has been handed `n` of it unused, in state `t` (R86); one that owed no more is freed, its status waiting or among the
writes `more` (R89, R91). -/
def State.countedUnused (t : State) (feeds : Table FeedEntry) (n : Nat → Nat) (more : List QWrite) : Prop :=
  ∀ e g, feeds.get e = some g → 1 ≤ g.pending →
    let counts := { g.counts with unused := g.counts.unused + n e }
    (n e < g.pending → t.feeds.get e = some { g with counts := counts, pending := g.pending - n e }) ∧
    (n e = g.pending → t.feeds.get e = none ∧
      ({ addr := g.addr, notify := g.notify, ctx := g.ctx, result := feedResult counts } ∈ t.statusQueue ∨
        { writer := .registry, kind := .final g.notify,
          spans := [outcomeBytes g.addr 2 0, { addr := g.addr.toNat + 48, bytes := feedResult counts }] } ∈ more))

/-- A read of fragment `f` at segment `seg` of context `i` waits for its reissue (R148). -/
def State.retryWaits (s : State) (i seg f : Nat) : Bool :=
  s.port.staging.rows.any (fun r => r.2.ctx == i && r.2.seg == seg && r.2.frag == f && r.2.phase == .retrying)

/-- The release of a failed fragment makes its entry `en` at position `p` NONE (R62): at an OPEN position at once, but an INFLIGHT entry, there or
elsewhere, only with the discard of its slot (R57), which is at once for a read whose reissue is `cancelled` (R150). -/
def Position.releases (p : Position) (en : LogEntry) (cancelled : Bool) : Bool :=
  if en.state = .inflight then cancelled else p.state == .opened

/-- How many segments of Feed entry `e` the release of fragment `f` of the context counts unused (R57, R62): not those REFUSED or READ_FAILED. -/
def Ctx.releasedUnused (c : Ctx) (f : Nat) (cancelled : Nat → Bool) (e : Nat) : Nat :=
  c.positions.countP (fun p => (p.row.get f).any (fun en =>
    en.feed == e && en.state != .refused && en.state != .readFailed && p.releases en (cancelled p.seg)))

/-- Fragment `f` of context `i`, which stood as `c` beside `feeds`, has FAILED and is released in `t` (R62): what becomes of each entry of it,
and of the Feed entries. -/
def State.fragmentReleased (t : State) (i f : Nat) (c : Ctx) (feeds : Table FeedEntry) (cancelled : Nat → Bool)
    (more : List QWrite) : Prop :=
  (∃ c', t.ctxs.get i = some c' ∧ ∀ seg p, c.holding seg = some p → ∃ p', c'.holding seg = some p' ∧ p'.state = p.state ∧
    p'.row.get f = (p.row.get f).bind (fun en => if p.releases en (cancelled seg) then none else some en)) ∧
  t.countedUnused feeds (c.releasedUnused f cancelled) more

/-- What a source-set change makes of the feed log entry `en` at position `p` (R61): CONTRIBUTED at an OPEN position is LOGGED again, verified
kept; any other stays. -/
def Position.unread (p : Position) (en : LogEntry) : LogEntry :=
  if p.state = .opened ∧ en.state = .contributed then { en with state := .logged } else en

/-- A source-set change between context `c`, over cells `store`, and `c'` in `t` (R61; R113, step 3; R114), `failed` being the fragment it failed, if
any: every other fragment's entries but INFLIGHT ones are as `Position.unread` says, the cells of OPEN positions are zeroed and no other cell
changes, and a position that is not OPEN is left alone, but that a FULL one may be emitted next. -/
def State.sourcesChanged (t : State) (c c' : Ctx) (store : Table (List Byte)) (failed : Option Nat) : Prop :=
  (∀ seg p, c.holding seg = some p → ∃ p', c'.holding seg = some p' ∧
    (p'.state = p.state ∨ (p.state = .full ∧ p'.state = .emitting)) ∧
    (∀ g, failed ≠ some g → (∀ en, p.row.get g = some en → en.state ≠ .inflight) →
      p'.row.get g = (p.row.get g).map p.unread) ∧
    (p.state = .opened → ∀ n ∈ c.cellsOf seg, cellBytesOf t.store n = List.replicate 4096 0)) ∧
  (∀ n, (∀ seg p, c.holding seg = some p → p.state = .opened → n ∉ c.cellsOf seg) →
    cellBytesOf t.store n = cellBytesOf store n)

/-- The position `p` once the entry `en` of fragment `f` in it has been judged (R56, R59): CONTRIBUTED and verified, and the position FULL if every
source has contributed; or, with a refusal, REFUSED. -/
def Ctx.judgedAt (c : Ctx) (p : Position) (f : Nat) (en : LogEntry) (refusal : Option Refused) : Position :=
  let q := p.putEntry f (some (if refusal = none then { state := .contributed, feed := en.feed, verified := true }
    else { en with state := .refused }))
  if refusal = none ∧ c.allContributed q = true then { q with state := .full } else q

/-- The counters once a segment has been judged (R33, R100): a refusal counts, and MISPLACED, EPOCH and CORRUPT each count by themselves too. -/
def Counters.afterJudging (n : Counters) (refusal : Option Refused) : Counters :=
  match refusal with
  | none => n
  | some r => { n with
      refusals := min 65535 (n.refusals + 1)
      misplaced := if r = .misplaced then min 65535 (n.misplaced + 1) else n.misplaced
      epoch := if r = .epoch then min 65535 (n.epoch + 1) else n.epoch
      corrupt := if r = .corrupt then min 65535 (n.corrupt + 1) else n.corrupt }

/-- Each RETRYING slot of context `i` reads for one of its sources (R98, R140). -/
def State.retriesForSources (s : State) (i : Nat) (c : Ctx) : Prop :=
  ∀ k u, s.port.staging.get k = some u → u.ctx = i → u.phase = .retrying → c.role u.frag = .source

/-- The solve of context `j`, which stands as `c`, as it is started (R125). -/
def solveOf (j : Nat) (c : Ctx) : Solve :=
  { ctx := j, k := c.geo.k, sources := c.sources, targets := c.targets, working := solveTable c.geo.k c.sources c.targets }

/-- The Feed entry covers segment `seg` of fragment `f`. -/
def FeedEntry.covers (g : FeedEntry) (f seg : Nat) : Bool := g.frag == f && decide (g.first ≤ seg) && decide (seg < g.first + g.count)

/-- The entry of fragment `f` that the scan of the feed list gives a position opened for `seg` (R54): LOGGED, unverified, under the oldest Feed
entry that covers the segment; NONE if none does or the fragment has FAILED (R53). -/
def Ctx.scanned (c : Ctx) (feeds : Table FeedEntry) (seg f : Nat) : Option LogEntry :=
  if c.role f = .failed then none
  else (c.feedList.find? (fun e => (feeds.get e).any (fun g => g.covers f seg))).map (fun e =>
    { state := .logged, feed := e, verified := false })

/-- The two slots `a` and `b` of one read on the link, `t` the lower segment's and `u` the upper's (R145). -/
structure State.readPair (s : State) (a b : Nat) (t u : Staging) : Prop where
  slots : a ≠ b ∧ s.port.staging.get a = some t ∧ s.port.staging.get b = some u
  partners : t.partner = some b ∧ u.partner = some a
  units : t.seg < u.seg ∧ t.ctx = u.ctx ∧ t.frag = u.frag
  reading : t.phase = .reading ∧ u.phase = .reading
  alike : t.stale = u.stale ∧ t.reissues = u.reissues

/-- What the discards of a stale pair do, between `s` and `t'` (R57, R147, R148): both slots are freed; the INFLIGHT entry that each was to read is
LOGGED again, or NONE and counted unused for a FAILED fragment; in DRAINING nothing changes but the slots. -/
def State.pairDiscarded (s t' : State) (a b : Nat) (t u : Staging) (c : Ctx) (more : List QWrite) : Prop :=
  let inflight := fun (x : Staging) (en : LogEntry) => en.state = .inflight ∧ ∃ p, c.holding x.seg = some p ∧ p.row.get x.frag = some en
  t'.port.staging = (s.port.staging.erase a).erase b ∧ t'.port.reissueLine = s.port.reissueLine ∧
  t'.combineQueue = s.combineQueue ∧ t'.combining = s.combining ∧ t'.store = s.store ∧ s.ctxsAlike t' ∧
  (c.state = .draining → t'.ctxs = s.ctxs ∧ t'.feeds = s.feeds) ∧
  (c.state ≠ .draining → ∃ c', t'.ctxs.get t.ctx = some c' ∧
    (∀ x ∈ [t, u], ∀ en, inflight x en → ∃ p', c'.holding x.seg = some p' ∧
      p'.row.get x.frag = if c.role x.frag = .failed then none else some { en with state := .logged }) ∧
    (c.role t.frag ≠ .failed → t'.feeds = s.feeds) ∧
    (c.role t.frag = .failed → t'.countedUnused s.feeds
      (fun e => [t, u].countP (fun x => (c.holding x.seg).any (fun p => (p.row.get x.frag).any (fun en =>
        en.state == .inflight && en.feed == e)))) more))

/-- The FEED record `b` for context `c` has been taken into Feed entry `e` (R80): TAKEN is written first, the entry is listed last in its context,
and its segments are classified in ascending order. -/
def State.feedTaken (s t : State) (b : List Byte) (c : Ctx) (r e : Nat) : Prop :=
  let u := State.classifyRun (recContext b) e (recFragment b) (recCount b) (recFirst b)
    { s with
      feeds := s.feeds.set e
        { addr := s.walker.next, notify := recNotify b, ctx := recContext b, frag := recFragment b, first := recFirst b,
          count := recCount b, buffer := recBuffer b, region := r, pending := recCount b,
          counts := { used := 0, refused := 0, readFailed := 0, late := 0, duplicate := 0, unused := 0 } }
      ctxs := s.ctxs.set (recContext b) { c with feedList := c.feedList ++ [e] } }
  t.feeds = u.feeds ∧ u.ctxsSteady t ∧ t.walker = (s.concluded .taken [outcomeBytes s.walker.next 1 0]).walker ∧
  (∃ more, t.port.writeQueue = s.port.writeQueue ++
    { writer := .walker, kind := .taken, spans := [outcomeBytes s.walker.next 1 0] } :: more) ∧
  t.sinks = s.sinks ∧ t.store = s.store ∧ t.port.staging = s.port.staging ∧ t.ctl = s.ctl ∧ t.gov = s.gov

/-- The SINK record `b` for context `c` has been taken into Sink entry `e` (R64, R83): TAKEN is written first; a segment behind the base counts
unwritten at once, and a run wholly behind it is final; the entry is bound at each FULL position in its range (R63), and such a position,
every target now bound, is on the emit queue, or is what the idle Emit Unit took from its head (R65, R66). -/
def State.sinkTaken (s t : State) (b : List Byte) (c : Ctx) (r e : Nat) : Prop :=
  let i := recContext b
  let behind := min (recCount b) (c.base - recFirst b)
  ∃ c' more, t.ctxs.get i = some c' ∧ c'.bones = c.bones ∧
    (behind < recCount b → c'.sinkList = c.sinkList ++ [e] ∧ t.sinks = s.sinks.set e
      { addr := s.walker.next, notify := recNotify b, ctx := i, target := recFragment b, first := recFirst b,
        count := recCount b, buffer := recBuffer b, region := r, pending := recCount b - behind, written := 0,
        unwritten := behind }) ∧
    (behind = recCount b → t.sinks.get e = none ∧ ∀ result, result = toLE 2 0 ++ toLE 2 (recCount b) ++ List.replicate 12 0 →
      t.statusQueue = [{ addr := s.walker.next, notify := recNotify b, ctx := i, result := result }] ∨
      { writer := .registry, kind := .final (recNotify b),
        spans := [outcomeBytes s.walker.next 2 0, { addr := s.walker.next.toNat + 48, bytes := result }] } ∈ more) ∧
    t.port.writeQueue = s.port.writeQueue ++
      { writer := .walker, kind := .taken, spans := [outcomeBytes s.walker.next 1 0] } :: more ∧
    (c.seated → ∀ seg p, c.holding seg = some p →
      (p.state ≠ .full ∨ seg < recFirst b ∨ recFirst b + recCount b ≤ seg → c'.holding seg = some p) ∧
      (p.state = .full → recFirst b ≤ seg → seg < recFirst b + recCount b → ∃ p', c'.holding seg = some p' ∧
        p'.row = p.row ∧ p'.binds.get (recFragment b) = some e ∧ (∀ g, g ≠ recFragment b → p'.binds.get g = p.binds.get g) ∧
        ((∃ g ∈ c.targets, p'.binds.get g = none) → p'.state = .full ∧ t.emitQueue.count (i, seg) = s.emitQueue.count (i, seg)) ∧
        ((∀ g ∈ c.targets, (p'.binds.get g).isSome = true) →
          (p'.state = .full ∧ (i, seg) ∈ t.emitQueue) ∨
          (p'.state = .emitting ∧ s.emit = none ∧ ∃ left, t.emit = some { ctx := i, seg := seg, targetsLeft := left })))) ∧
    t.feeds = s.feeds ∧ t.store = s.store ∧ t.port.staging = s.port.staging ∧ t.ctl = s.ctl ∧ t.gov = s.gov

/-- No record fetch can be issued (R132, R133, R173): one is on the link, or none is in hand and none is asked for or the Walker's last
disposition write has not been issued. -/
def State.noFetchDue (s : State) : Prop :=
  (∃ p, s.port.fetch = some p ∧ p.outstanding = true) ∨
  (s.port.fetch = none ∧ (s.walker.unissued = true ∨ s.walker.wanted = none))

/-- The value a write of ENG_CTRL carries, if the command is one. -/
def engCtrlValue : Instr → Option Word64
  | .runSet v => some v
  | .runClear v => some v
  | .attnEnable v => some v
  | .softReset v => some v
  | _ => none

/-- The command resets the engine (R193, R194): a full reset, or a write of ENG_CTRL with SOFT_RESET at 1 while RESETTING is clear. -/
def State.resetsBy (s : State) (c : Instr) : Prop :=
  c = .fullReset ∨ ∃ v, engCtrlValue c = some v ∧ v.getLsbD 1 = true ∧ s.ctl.resetting = false

/-- What the host has programmed: the registers it writes, RESETTING and the region table. -/
def Control.programmed (c : Control) : Bool × Bool × Bool × Word64 × Word64 × Word64 × Table Region :=
  (c.run, c.attnEnable, c.resetting, c.chnBase, c.chnSize, c.chnHead, c.regions)

/-- The five settings of a TUNE (R183). -/
def State.settings (s : State) : Nat × Bool × Nat × Nat × Nat :=
  (s.port.readLimit, s.port.pairMode, s.port.retryCount, s.walker.pollInterval, s.walker.blockedLimit)

end Sys2Proof.Machine
end

