-- ==== Sys2Proof/Certificates/Slice0/Obligations.lean ====
section
/-! DEFINITION. The statements for the provers: what the rules of the manual say of the engine, command by command and over every step. -/

open Sys2Proof Sys2Proof.Machine

/-! ### The rebuild code (chapter 1) -/

/-- R2, with R1's doubling: EXP starts at 01 and doubles, its 255 values are distinct and close on themselves, and LOG inverts it on every
nonzero element; and the entries the manual prints. -/
def Obligations.CoefficientRom : Prop :=
  expTable.length = 255 ∧ expAt 0 = 0x01#8 ∧ (∀ i < 254, expAt (i + 1) = gfDouble (expAt i)) ∧
  gfDouble (expAt 254) = 0x01#8 ∧ expTable.Nodup ∧
  [2, 7, 8, 12, 14, 23, 24, 25, 253, 254].map expAt =
    [0x04#8, 0x80#8, 0x1D#8, 0xCD#8, 0x13#8, 0xC9#8, 0x8F#8, 0x03#8, 0x47#8, 0x8E#8] ∧
  (∀ a : Byte, a ≠ 0 → logOf a < 255 ∧ expAt (logOf a) = a) ∧
  (∀ a : Byte, gfDouble a =
    (if a.getLsbD 7 then (a.setWidth 9 <<< 1) ^^^ 0x11D#9 else a.setWidth 9 <<< 1).setWidth 8)

/-- R3: the product by the tables, and the field laws it obeys. -/
def Obligations.FieldMultiplication : Prop :=
  (∀ a b : Byte, (a = 0 ∨ b = 0 → gfMul a b = 0) ∧
    (a ≠ 0 → b ≠ 0 → logOf a + logOf b ≤ 508 ∧ gfMul a b = expAt ((logOf a + logOf b) % 255))) ∧
  (∀ a b : Byte, gfMul a b = gfMul b a) ∧
  (∀ a b c : Byte, gfMul (gfMul a b) c = gfMul a (gfMul b c)) ∧
  (∀ a b c : Byte, gfMul a (gfAdd b c) = gfAdd (gfMul a b) (gfMul a c)) ∧
  (∀ a : Byte, gfMul a 1 = a) ∧ gfMul 0x8E#8 0x8F#8 = 0xC9#8 ∧ gfMul 0x8F#8 0x02#8 = 0x03#8

/-- R4 and R6: the inverse by the tables, its product with the element 01; and the generator rows of every code the engine takes, the elements
inverted there never 00; with the inverses and the rows the manual prints. -/
def Obligations.InversesAndGeneratorRows : Prop :=
  (∀ a : Byte, a ≠ 0 → gfInv a = expAt ((255 - logOf a) % 255) ∧ gfMul a (gfInv a) = 0x01#8) ∧
  [0x01#8, 0x02#8, 0x03#8, 0x04#8, 0x05#8, 0x06#8].map gfInv = [0x01#8, 0x8E#8, 0xF4#8, 0x47#8, 0xA7#8, 0x7A#8] ∧
  (∀ k i, k ≤ 20 → i < 24 → (generatorRow k i).length = k ∧ ∀ d < k, (generatorRow k i)[d]? =
    some (if i < k then (if d = i then 0x01#8 else 0x00#8) else gfInv (BitVec.ofNat 8 i ^^^ BitVec.ofNat 8 d))) ∧
  (∀ k i d, k ≤ i → i < 24 → d < k → BitVec.ofNat 8 i ^^^ BitVec.ofNat 8 d ≠ (0 : Byte)) ∧
  [0, 1, 2, 3, 4].map (generatorRow 2) =
    [[0x01#8, 0x00#8], [0x00#8, 0x01#8], [0x8E#8, 0xF4#8], [0xF4#8, 0x8E#8], [0x47#8, 0xA7#8]] ∧
  [3, 4].map (generatorRow 3) = [[0xF4#8, 0x8E#8, 0x01#8], [0x47#8, 0xA7#8, 0x7A#8]]

/-- R8 and R9 for every stripe with two data fragments: the solved row of a target combines the rows of the two sources, in order, into
the target's row; a table has one row for each target, in order; and the two tables of the manual's worked case. -/
def Obligations.SolvedTables : Prop :=
  (∀ s1 < 8, ∀ s2 < 8, s1 < s2 → ∀ t < 8, ∃ a b, solveTable 2 [s1, s2] [t] = [[a, b]] ∧
    addRows (scaleRow a (generatorRow 2 s1)) (scaleRow b (generatorRow 2 s2)) = generatorRow 2 t) ∧
  (∀ k sources targets, solveTable k sources targets = targets.flatMap (fun t => solveTable k sources [t])) ∧
  solveTable 2 [1, 3] [0, 2] = [[0x8F#8, 0x03#8], [0x3D#8, 0x8F#8]] ∧
  solveTable 2 [1, 4] [0, 2] = [[0xA6#8, 0x04#8], [0xA7#8, 0x02#8]]

/-- R8 and R9 for every code the engine takes, k from 2 to 20: for k distinct sources in ascending order and any target, a solve gives one row of k
coefficients, which combines the generator rows of the sources, the j-th coefficient with the j-th source, into the target's. -/
def Obligations.EverySourceSetSolves : Prop :=
  ∀ k, 2 ≤ k → k ≤ 20 → ∀ sources : List Nat, sources.length = k → sources.Pairwise (· < ·) → (∀ s ∈ sources, s < 24) →
    ∀ t < 24, ∃ row, solveTable k sources [t] = [row] ∧ row.length = k ∧
      (List.zipWith (fun a s => (generatorRow k s).map (gfMul a)) row sources).foldr (List.zipWith gfAdd)
        (List.replicate k 0x00#8) = generatorRow k t

/-- R10 and R11 for one cell: byte by byte, the fold adds the product at offsets below D and leaves the rest; the order of two folds does
not matter; the same fold twice cancels; payload bytes from D on are not read. -/
def Obligations.FoldingSegments : Prop :=
  (∀ c d payload cell x, d ≤ payload.length → (foldCell c d payload cell).length = cell.length ∧
    (x < cell.length → byteAt (foldCell c d payload cell) x =
      if x < d then gfAdd (byteAt cell x) (gfMul c (byteAt payload x)) else byteAt cell x)) ∧
  (∀ c c' d p p' cell, foldCell c d p (foldCell c' d p' cell) = foldCell c' d p' (foldCell c d p cell)) ∧
  (∀ c d p cell, foldCell c d p (foldCell c d p cell) = cell) ∧
  (∀ c d p p' cell, p.take d = p'.take d → foldCell c d p cell = foldCell c d p' cell)

/-- R10 over all targets: the cell of the i-th target of a position takes the fold under the i-th row's coefficient, and every cell that is
not the position's is left alone. -/
def Obligations.CombineReachesEveryTarget : Prop :=
  ∀ (c : Ctx) (seg j d : Nat) (payload : List Byte) (store : Table (List Byte)),
    storeCanonical store → (c.cellsOf seg).Nodup →
    (∀ i < c.targetCount, cellBytesOf (foldTargets c seg j d payload (List.range c.targetCount) store) (c.cellOf seg i) =
      foldCell (c.coefficient i j) d payload (cellBytesOf store (c.cellOf seg i))) ∧
    (∀ n, n ∉ c.cellsOf seg →
      cellBytesOf (foldTargets c seg j d payload (List.range c.targetCount) store) n = cellBytesOf store n)

/-- R13: segment size, count and data lengths, for every fragment length and size code; and the rows of the manual's table. -/
def Obligations.SegmentGeometry : Prop :=
  (∀ code L, code ≤ 3 → 1 ≤ L → L ≤ 2 ^ 28 →
    segSizeOf code = 512 * 2 ^ code ∧
    L ≤ segCountOf L (segSizeOf code) * segSizeOf code ∧ (segCountOf L (segSizeOf code) - 1) * segSizeOf code < L ∧
    (∀ j, j + 1 < segCountOf L (segSizeOf code) → dataLengthOf L (segSizeOf code) j = segSizeOf code) ∧
    (∀ j, j + 1 = segCountOf L (segSizeOf code) →
      dataLengthOf L (segSizeOf code) j = L - j * segSizeOf code ∧
      1 ≤ dataLengthOf L (segSizeOf code) j ∧ dataLengthOf L (segSizeOf code) j ≤ segSizeOf code)) ∧
  [(1, 512), (4096, 4096), (4097, 4096), (10000, 4096), (10000, 512), (2 ^ 28, 4096), (2 ^ 28, 512)].map
    (fun p => (segCountOf p.1 p.2, dataLengthOf p.1 p.2 (segCountOf p.1 p.2 - 1))) =
    [(1, 1), (1, 4096), (2, 1), (3, 1808), (20, 272), (65536, 4096), (524288, 512)]

/-- R14: the CRC of no bytes, of one byte more, and the manual's two check values. -/
def Obligations.CrcProcedure : Prop :=
  (∀ bytes, crc32c bytes =
    bytes.foldl (fun (r : Word32) (b : Byte) => (List.range 8).foldl
      (fun (q : Word32) (_ : Nat) => if q.getLsbD 0 then (q >>> 1) ^^^ 0x82F63B78#32 else q >>> 1) (r ^^^ b.setWidth 32))
      0xFFFFFFFF#32 ^^^ 0xFFFFFFFF#32) ∧
  crc32c [0x31, 0x32, 0x33, 0x34, 0x35, 0x36, 0x37, 0x38, 0x39] = 0xE3069283#32 ∧ crc32c [0x00] = 0x527D5351#32

/-- R12, R16 and R99. The five checks of a unit's trailer, in their order: the first that fails names the refusal. A rebuilt unit is the D cell
bytes, 00 up to S, and a trailer that passes every check for its stripe, epoch, fragment and segment. -/
def Obligations.RebuiltUnitPassesChecks : Prop :=
  (∀ (g : Geometry) (seg frag : Nat) (cell : List Byte),
    g.sizeCode ≤ 3 → 1 ≤ g.fragLength → g.fragLength ≤ 2 ^ 28 → g.k ≤ 20 → g.m ≤ 6 → frag < 24 → seg < g.segCount →
    cell.length = 4096 →
    (rebuiltUnit g seg frag cell).length = g.segSize + 32 ∧
    (∀ x < g.dataLength seg, byteAt (rebuiltUnit g seg frag cell) x = byteAt cell x) ∧
    (∀ x, g.dataLength seg ≤ x → x < g.segSize → byteAt (rebuiltUnit g seg frag cell) x = 0) ∧
    trailerRefusal g seg frag (rebuiltUnit g seg frag cell) = none) ∧
  (∀ (g : Geometry) (seg frag : Nat) (unit : List Byte),
    let at' := fun offset n => fieldAt unit (g.segSize + offset) n
    let malformed := (∃ x, 22 ≤ x ∧ x < 28 ∧ byteAt unit (g.segSize + x) ≠ 0) ∨ 3 < at' 21 1 ∨ at' 16 2 = 0 ∨ g.segSize < at' 16 2
    let misplaced := at' 0 8 ≠ g.stripe.toNat ∨ at' 18 1 ≠ frag ∨ at' 12 4 ≠ seg ∨ at' 19 1 ≠ g.k ∨ at' 20 1 ≠ g.m ∨ at' 21 1 ≠ g.sizeCode
    let epoch := at' 8 4 ≠ g.epoch.toNat
    let length := at' 16 2 ≠ g.dataLength seg
    let corrupt := at' 28 4 ≠ (crc32c (unit.take (g.dataLength seg))).toNat
    (malformed → trailerRefusal g seg frag unit = some .malformed) ∧
    (¬malformed → misplaced → trailerRefusal g seg frag unit = some .misplaced) ∧
    (¬malformed → ¬misplaced → epoch → trailerRefusal g seg frag unit = some .epoch) ∧
    (¬malformed → ¬misplaced → ¬epoch → length → trailerRefusal g seg frag unit = some .length) ∧
    (¬malformed → ¬misplaced → ¬epoch → ¬length → corrupt → trailerRefusal g seg frag unit = some .corrupt) ∧
    (¬malformed → ¬misplaced → ¬epoch → ¬length → ¬corrupt → trailerRefusal g seg frag unit = none))

/-! ### The Rate Governor (chapter 8) -/

/-- R158: the budget of each level, in bytes a tick; level 15 has none, so neither a refill nor a charge changes the credit there. -/
def Obligations.LevelBudgets : Prop :=
  (List.range 15).map budget =
    [0, 32768, 65536, 98304, 131072, 196608, 262144, 393216, 524288, 786432, 1048576, 1572864, 2097152, 3145728, 4194304] ∧
  ∀ (g : Governor) (n : Nat), g.level = 15 → g.refill.credit = g.credit ∧ (g.charge n).credit = g.credit

/-- R159: TICK. At levels 0 to 14 the budget is added to the credit, up to the budget; at level 0 that leaves a negative credit as it was and
lowers a positive one to 0; at level 15 nothing is added. The level stands, the tick is counted, and no entry, cell or segment changes. -/
def Obligations.TickRefillsCredit : Prop :=
  ∀ s : State, ∃ t, exec .tick s = .next t ∧ t.gov.level = s.gov.level ∧ t.gov.ticks = s.gov.ticks + 1 ∧
    (s.gov.level ≤ 14 → t.gov.credit =
      if s.gov.credit + budget s.gov.level > budget s.gov.level then (budget s.gov.level : Int)
      else s.gov.credit + budget s.gov.level) ∧
    (s.gov.level = 0 → t.gov.credit = if s.gov.credit > 0 then 0 else s.gov.credit) ∧
    (s.gov.level = 15 → t.gov.credit = s.gov.credit) ∧
    t.feeds = s.feeds ∧ t.sinks = s.sinks ∧ t.store = s.store ∧ t.port.staging = s.port.staging ∧ t.ctl.regions = s.ctl.regions ∧
    s.queueExtends t

/-- R35 (cause 4), R116, R157, R177, R190: what a tick does besides the refill. In every context that holds its slot, a running stall timer
advances, unless the level is 0, and nothing else of the context changes but what its last progress write carried; the blocked timer advances
at every level. With nothing left over and room for them, one progress write is placed for each context whose retired count or counters
differ from its last one, and the report write if the chain region is valid and a value differs from the last report's; and no other write.
The report carries the refilled credit (log entry 13). That a timer stands at its limit until its expiry is taken (log entry 23), and that a
context ended from PENDING owes none before its final write (log entry 19), are the model's choices. -/
def Obligations.TickRunsTimers : Prop :=
  ∀ s : State, ∃ t, exec .tick s = .next t ∧
    t.walker.blockedTimer = s.walker.blockedTimer.map (fun n => min s.walker.blockedLimit (n + 1)) ∧
    (∀ i c, s.ctxs.get i = some c → s.holds i → ∃ c', t.ctxs.get i = some c' ∧
      c'.steady = { c.steady with
        elapsed := if c.timerRuns = true ∧ s.gov.level ≠ 0 then min c.geo.stallLimit (c.elapsed + 1) else c.elapsed }) ∧
    (s.ctxs.wf = true → s.calm = true → s.walker.ready = none → s.port.writeQueue.length + s.ctxs.size + 1 ≤ 64 →
      let owes := fun (c : Ctx) => ¬(c.state = .draining ∧ c.cells = [] ∧ c.teardown ≠ .closing) ∧
        ∃ last, c.lastProgress = some last ∧ last ≠ (c.retired, c.counters)
      let progress := fun (i : Nat) (c : Ctx) =>
        ({ writer := .slot i, kind := .progress,
           spans := [{ addr := c.geo.openAddr.toNat + 72, bytes := progressBytes c }] } : QWrite)
      let values := { s.reportValues with credit := t.gov.credit }
      let report : QWrite := { writer := .control, kind := .report, spans := [{ addr := s.ctl.chnBase.toNat, bytes := reportBytes values }] }
      let tells := chainRegionValid s.ctl.chnBase s.ctl.chnSize = true ∧ s.ctl.lastReport ≠ some values
      ∃ more, t.port.writeQueue = s.port.writeQueue ++ more ∧ more.Nodup ∧
        (∀ q, q ∈ more ↔ (∃ i c, s.ctxs.get i = some c ∧ owes c ∧ q = progress i c) ∨ (tells ∧ q = report)) ∧
        (∀ i c, s.ctxs.get i = some c → owes c → (t.ctxs.get i).bind (·.lastProgress) = some (c.retired, c.counters)) ∧
        (tells → t.ctl.lastReport = some values))

/-- R161: the credit stays between −8255 and the level's budget, and at 0 on level 15, whatever command is taken. -/
def Obligations.CreditBounds : Prop :=
  ∀ s t : State, s.contextsSound → s.gov.bounded → step s = .next t → t.gov.bounded

/-! ### The registers (chapter 10) -/

/-- R186, R188, R197: every bit that a read of each register returns; REGISTER_WRITE and CHN_HEAD are taken with any value while RUN is clear
and ignored while it is set, and a taken CHN_HEAD sets the new-head flag. -/
def Obligations.RegisterAccess : Prop :=
  (∀ (s : State) (n : Nat),
    (s.readRegister .engCtrl).getLsbD n = ((n == 0 && s.ctl.run) || (n == 2 && s.ctl.attnEnable)) ∧
    (s.readRegister .engStat).getLsbD n =
      ((decide (n < 3) && s.walker.state.code.testBit n) || (n == 8 && s.ctl.resetting) || (n == 9 && s.ctl.attention)) ∧
    s.readRegister .chnBase = s.ctl.chnBase ∧ s.readRegister .chnSize = s.ctl.chnSize ∧
    s.readRegister .chnHead = s.ctl.chnHead ∧ s.readRegister .chnCheck = 0) ∧
  (∀ (s : State) (v : Word64),
    (s.ctl.run = true → exec (.registerWrite .base v) s = .next s ∧ exec (.registerWrite .size v) s = .next s ∧
      exec (.chnHead v) s = .next s) ∧
    (s.ctl.run = false →
      exec (.registerWrite .base v) s = .next { s with ctl := { s.ctl with chnBase := v } } ∧
      exec (.registerWrite .size v) s = .next { s with ctl := { s.ctl with chnSize := v } } ∧
      exec (.chnHead v) s = .next { s with ctl := { s.ctl with chnHead := v }, walker := { s.walker with newHead := true } }))

/-- R175 and R176: CHN_CHECK and the poll timer of a PARKED Walker ask for the cursor's link word, the check's one more read being owed
when such a read is already waiting or outstanding; a Walker that is not PARKED discards a check. That POLL_TIMER with no poll timer
running, or with the Walker not PARKED, changes nothing is the model's choice (log entry 1). -/
def Obligations.PollingAndChecking : Prop :=
  ∀ (s : State) (v : Word64),
    (s.walker.state ≠ .parked → exec (.chnCheck v) s = .next s) ∧
    (s.walker.state = .parked → s.linkPending = true →
      exec (.chnCheck v) s = .next { s with walker := { s.walker with checkOwed := true } }) ∧
    (s.walker.state = .parked → s.linkPending = false →
      exec (.chnCheck v) s = .next { s with walker := { s.asking .linkWord s.walker.cursor with pollTimer := none } }) ∧
    (s.walker.state = .parked → s.walker.pollTimer.isSome = true →
      exec .pollTimer s = .next { s with walker := { s.asking .linkWord s.walker.cursor with pollTimer := none } }) ∧
    (s.walker.state ≠ .parked ∨ s.walker.pollTimer = none → exec .pollTimer s = .next s)

/-- R168, R186, R187: RUN_SET on an IDLE Walker makes the start checks and starts it, or faults BAD_START; on a Walker that is not IDLE the
start is held; and HELD_START makes it when the Walker is IDLE with RUN set. A RUN_SET that changes ATTN_ENABLE too sets both bits as written,
in any state. -/
def Obligations.RunSetStarts : Prop :=
  (∀ (s : State) (v : Word64), s.atRest 2 = true → v.getLsbD 0 = true → v.getLsbD 1 = false →
    v.getLsbD 2 = s.ctl.attnEnable → s.ctl.resetting = false →
    (s.ctl.run = false → s.walker.state = .idle →
      exec (.runSet v) s = .next (State.started { s with ctl := { s.ctl with run := true } })) ∧
    (s.ctl.run = false → s.walker.state ≠ .idle → exec (.runSet v) s = .next { s with ctl := { s.ctl with run := true } }) ∧
    (s.ctl.run = true → exec (.runSet v) s = .next s) ∧
    (s.ctl.run = true → s.walker.state = .idle → exec .heldStart s = .next s.started)) ∧
  (∀ (s : State) (v : Word64), v.getLsbD 0 = true → v.getLsbD 1 = false → s.ctl.resetting = false →
    ∃ t, exec (.runSet v) s = .next t ∧ t.ctl.run = true ∧ t.ctl.attnEnable = v.getLsbD 2 ∧
      t.ctl.chnBase = s.ctl.chnBase ∧ t.ctl.chnSize = s.ctl.chnSize ∧ t.ctl.chnHead = s.ctl.chnHead ∧
      t.ctl.regions = s.ctl.regions ∧ t.ctl.finalised = s.ctl.finalised ∧ t.gov = s.gov ∧ t.feeds = s.feeds ∧
      t.sinks = s.sinks ∧ s.ctxsSteady t ∧ s.queueExtends t ∧
      (s.ctl.run = true ∨ s.walker.state ≠ .idle → t.walker.state = s.walker.state ∧ t.walker.wanted = s.walker.wanted))

/-- R169, R186: what RUN_CLEAR does in each state of the Walker. An IDLE one is not changed; a FAULTED one is IDLE at once; a PARKED one is IDLE
at once, its link-word read to be discarded or not made; a BLOCKED one goes on until its record is handled; a FETCHING one discards the
fetch it waits for, or finishes the dispatch in hand, or, its record handled, is IDLE at once. That a fetch not yet issued is withdrawn in PARKED
and issued and discarded in FETCHING is log entry 15 (DEDUCED); the dispatch held behind a combine is log entry 6 (DEDUCED). A write that changes
ATTN_ENABLE too sets both bits as written, in any state, and stops the Walker in the same way. -/
def Obligations.RunClearStops : Prop :=
  (∀ (s : State) (v : Word64), s.atRest 0 = true → v.getLsbD 0 = false → v.getLsbD 1 = false →
    v.getLsbD 2 = s.ctl.attnEnable → s.ctl.resetting = false →
    (s.ctl.run = false → exec (.runClear v) s = .next s) ∧
    (s.ctl.run = true → exec (.runClear v) s = .next
      { s with
        ctl := { s.ctl with run := false }
        walker := match s.walker.state with
          | .idle => s.walker
          | .faulted => { s.walker with state := .idle }
          | .parked => { s.walker with state := .idle, pollTimer := none, checkOwed := false, wanted := none }
          | .blocked => { s.walker with stopping := true }
          | .fetching => match s.walker.phase with
            | .fetch => { s.walker with stopping := true, wanted := s.walker.wanted.map (fun f => { f with discard := true }) }
            | .held => { s.walker with stopping := true }
            | .link => { s.walker with state := .idle }
        port :=
          if s.walker.state = .parked ∨ (s.walker.state = .fetching ∧ s.walker.phase = .fetch) then
            { s.port with fetch := s.port.fetch.map (fun f => { f with fetch := { f.fetch with discard := true } }) }
          else s.port })) ∧
  (∀ (s : State) (v : Word64), v.getLsbD 0 = false → v.getLsbD 1 = false → s.ctl.resetting = false →
    ∃ t, exec (.runClear v) s = .next t ∧ t.ctl.run = false ∧ t.ctl.attnEnable = v.getLsbD 2 ∧
      t.ctl.attention = s.ctl.attention ∧ t.ctl.chnBase = s.ctl.chnBase ∧ t.ctl.chnSize = s.ctl.chnSize ∧
      t.ctl.chnHead = s.ctl.chnHead ∧ t.ctl.regions = s.ctl.regions ∧ t.gov = s.gov ∧ t.feeds = s.feeds ∧ t.sinks = s.sinks ∧
      s.ctxsSteady t ∧ s.queueExtends t ∧
      t.walker.state = (if s.ctl.run = false then s.walker.state else match s.walker.state with
        | .idle => .idle
        | .faulted => .idle
        | .parked => .idle
        | .blocked => .blocked
        | .fetching => if s.walker.phase = .link then .idle else .fetching) ∧
      t.walker.stopping = (s.walker.stopping || (s.ctl.run && (decide (s.walker.state = .blocked) ||
        (decide (s.walker.state = .fetching) && decide (s.walker.phase ≠ .link))))))

/-- R191, R192: a cause of attention sets the flag, and readies one message if it was clear and ATTN_ENABLE is set. ATTN_ENABLE is taken as
written, by a write that leaves RUN as it was and by any write while RESETTING is set; taking it from clear to set while ATTENTION is set
places one message. CLEAR_ATTENTION clears the flag and changes nothing else. -/
def Obligations.AttentionFlag : Prop :=
  (∀ s : State, s.cause.ctl.attention = true ∧
    s.cause.ctl.messages = s.ctl.messages + (if s.ctl.attention = false ∧ s.ctl.attnEnable = true then 1 else 0) ∧
    s.cause.ctl.programmed = s.ctl.programmed ∧ s.cause.walker = s.walker ∧ s.cause.port = s.port ∧
    s.cause.ctxs = s.ctxs ∧ s.cause.feeds = s.feeds ∧ s.cause.sinks = s.sinks) ∧
  (∀ (s : State) (v : Word64), s.atRest 1 = true → (s.ctl.resetting = true ∨ (v.getLsbD 1 = false ∧ v.getLsbD 0 = s.ctl.run)) →
    exec (.attnEnable v) s = .next
      { s with
        ctl := { s.ctl with attnEnable := v.getLsbD 2 }
        port := { s.port with writeQueue := s.port.writeQueue ++
          (if v.getLsbD 2 = true ∧ s.ctl.attnEnable = false ∧ s.ctl.attention = true then [s.messageWrite] else []) }
        draws := if v.getLsbD 2 = true ∧ s.ctl.attnEnable = false ∧ s.ctl.attention = true then s.draws + 1 else s.draws }) ∧
  (∀ (s : State) (v : Word64), exec (.clearAttention v) s = .next
    { s with ctl := { s.ctl with attention := if v.getLsbD 9 then false else s.ctl.attention } })

/-- R153, R193: SOFT_RESET returns every block to its reset state but for CHN_BASE and CHN_SIZE; RESETTING is set while reads are outstanding, of
which there are those on the link (`State.linkReads`, log entry 28): the record fetch if it is outstanding, and each slot in READING, stale or
not, a pair counting once; while it is set, no second reset is taken and no request is issued, and the return of the last read clears it. The
model's queue of commands stays (log entry 32), and an OUTSTANDING_RETURN with no read outstanding changes nothing (log entry 1). -/
def Obligations.SoftReset : Prop :=
  ∀ (s : State) (v : Word64), v.getLsbD 1 = true →
    (s.ctl.resetting = false → ∃ t, exec (.softReset v) s = .next t ∧
      t.walker = State.reset.walker ∧ t.gov = State.reset.gov ∧ t.ctxs = State.reset.ctxs ∧ t.freeCells = 512 ∧
      t.cellWait = [] ∧ t.ready = State.reset.ready ∧ t.feeds = State.reset.feeds ∧ t.sinks = State.reset.sinks ∧
      t.statusQueue = [] ∧ t.emitQueue = [] ∧ t.emit = none ∧ t.solveQueue = [] ∧ t.solving = none ∧ t.combineQueue = [] ∧
      t.combining = none ∧ t.held = [] ∧ t.pending = s.pending ∧
      t.port = { State.reset.port with outstanding := s.linkReads } ∧
      t.ctl = { State.reset.ctl with chnBase := s.ctl.chnBase, chnSize := s.ctl.chnSize,
                                     resetting := decide (s.linkReads ≠ 0) }) ∧
    (s.ctl.resetting = true → ∃ t, exec (.softReset v) s = .next t ∧ t.gov = s.gov ∧ t.walker.state = s.walker.state ∧
      t.ctl.resetting = true ∧ t.ctl.run = s.ctl.run ∧ t.ctl.chnHead = s.ctl.chnHead ∧ t.port.outstanding = s.port.outstanding) ∧
    (0 < s.port.outstanding → exec .issueOpportunity s = .next s ∧ exec .outstandingReturn s = .next
      { s with port := { s.port with outstanding := s.port.outstanding - 1 },
               ctl := { s.ctl with resetting := decide (s.port.outstanding ≠ 1) } }) ∧
    (s.port.outstanding = 0 → exec .outstandingReturn s = .next s) ∧
    (let reading := fun (x : Staging) => x.phase == .reading
     s.linkReads = s.port.staging.rows.countP (fun r => reading r.2 && r.2.partner.isNone) +
      s.port.staging.rows.countP (fun r => reading r.2 && r.2.partner.any (fun j => decide (r.1 < j))) +
      (if s.port.fetch.any (·.outstanding) = true then 1 else 0)) ∧
    (∀ a b x y, s.port.staging.wf = true → s.readPair a b x y → s.linkReads =
      ({ s with port := { s.port with staging := (s.port.staging.erase a).erase b } } : State).linkReads + 1)

/-- R194, R154: FULL_RESET returns every block to the state after a full reset, whatever the state before, soft resets under way included; no
write is left and none is made; every register reads 0. What waits in the model's queue of commands, its log of requests and its count of
free values stay (log entry 32), and that the cells hold 00 is the model's choice (log entry 11, DESIGN CHOICE, unsafe). The other values are those the chapters give (R29, R74, R75, R138, R146, R156, R167, R183, R184, R189, R191). -/
def Obligations.FullReset : Prop :=
  (∀ s : State, exec .fullReset s = .next { State.reset with pending := s.pending, issued := s.issued, draws := s.draws } ∧
    ∀ t, exec .fullReset s = .next t → (∀ r, t.readRegister r = 0) ∧ t.port.outstanding = 0 ∧ t.ctl.reportOwed = false) ∧
  State.reset.gov = ⟨8, 524288, 0⟩ ∧ State.reset.walker.state = .idle ∧ State.reset.walker.cursor = 0 ∧
  State.reset.walker.next = 0 ∧ State.reset.walker.newHead = false ∧ State.reset.walker.pollInterval = 10 ∧
  State.reset.walker.blockedLimit = 50 ∧ State.reset.walker.taken = 0 ∧ State.reset.walker.faultReason = none ∧
  State.reset.port.readLimit = 2 ∧ State.reset.port.pairMode = false ∧ State.reset.port.retryCount = 1 ∧
  State.reset.port.writeQueue = [] ∧ State.reset.port.claimLine = [] ∧ State.reset.ctxs.rows = [] ∧
  State.reset.freeCells = 512 ∧ State.reset.feeds.rows = [] ∧ State.reset.sinks.rows = [] ∧
  State.reset.ctl.regions.rows = [] ∧ State.reset.ctl.finalised = 0 ∧
  ∀ r, State.reset.readRegister r = 0

/-! ### The Chain Walker (chapter 9) -/

/-- R133, R169, R179: RECORD_FETCH_ERROR. A fetch with reissues left waits for one; a fetch to be discarded is done with, and a Walker on
its way to IDLE that waited for it is IDLE; any other fetch has failed, and the Walker is FAULTED with its address. FETCH_DISCARD ends a
fetch to be discarded in the same way; a Walker that wants another fetch by then goes on waiting for that. That a fetch to be discarded whose
last reissue fails leaves the Walker IDLE and not FAULTED is log entry 15 (DEDUCED); that FETCH_DISCARD with nothing to discard changes nothing
is log entry 1. -/
def Obligations.RecordFetchEnds : Prop :=
  ∀ (s : State) (f : Fetch), s.port.fetch = some ⟨f, true⟩ →
    (0 < f.reissues → exec .recordFetchError s = .next
      { s with port := { s.port with fetch := some ⟨{ f with reissues := f.reissues - 1 }, false⟩ } }) ∧
    (f.reissues = 0 → f.discard = false → s.atRest 2 = true → exec .recordFetchError s = .next
      (State.faulted { s with port := { s.port with fetch := none } } .fetchError f.addr)) ∧
    (f.discard = true → s.walker.state = .fetching → s.walker.stopping = true → s.walker.wanted = none →
      exec .fetchDiscard s = .next { s with port := { s.port with fetch := none }
                                            walker := { s.walker with state := .idle, stopping := false } } ∧
      (f.reissues = 0 → exec .recordFetchError s = exec .fetchDiscard s)) ∧
    (f.discard = true → s.walker.state ≠ .fetching ∨ s.walker.stopping = false ∨ s.walker.wanted ≠ none →
      exec .fetchDiscard s = .next { s with port := { s.port with fetch := none } } ∧
      (f.reissues = 0 → exec .recordFetchError s = exec .fetchDiscard s)) ∧
    (f.discard = false → exec .fetchDiscard s = .next s)

/-- R173, R174, R179: WALKER_WRITE_ISSUED. The Walker goes on by the link of the record in its buffer: it parks on a link of 0, its poll
timer running; takes the record that a valid link names; or faults BAD_LINK. With the write not issued yet the command is not due and changes
nothing (log entry 1). -/
def Obligations.WalkerWriteIssued : Prop :=
  ∀ s : State, s.walker.state = .fetching → s.walker.phase = .link →
    (s.walker.unissued = true → exec .walkerWriteIssued s = .next s) ∧
    (s.walker.unissued = false → s.atRest 2 = true → exec .walkerWriteIssued s = .next
      (if recLink s.walker.buffer = 0 then
        { s with walker := { s.walker with state := .parked, pollTimer := some s.walker.pollInterval } }
      else if recordAddressValid s.ctl.chnBase s.ctl.chnSize (recLink s.walker.buffer) = true then
        s.taking (recLink s.walker.buffer)
      else s.faulted .badLink (recLink s.walker.buffer)))

/-- R133, R174, R175, R176, R169: LINK_WORD_READ. The link word's 8 bytes go into the Walker's fetch buffer, where they stand alone (log entry
42, DESIGN CHOICE). A link of 0 makes the one more read that a check owes, or starts the poll timer; a valid link is taken; another faults
BAD_LINK; a read to be discarded changes nothing but the port, the buffer being left as it was (log entry 42). -/
def Obligations.LinkWordRead : Prop :=
  ∀ (s : State) (link : Word64) (f : Fetch), s.port.fetch = some ⟨f, true⟩ → f.what = .linkWord →
    (f.discard = true → s.walker.state ≠ .fetching →
      exec (.linkWordRead link) s = .next { s with port := { s.port with fetch := none } }) ∧
    (f.discard = false → s.atRest 2 = true → exec (.linkWordRead link) s = .next
      (let t : State := { s with walker := { s.walker with buffer := toLE 8 link.toNat }, port := { s.port with fetch := none } }
       if link = 0 then
         if s.walker.checkOwed then { t with walker := { t.asking .linkWord s.walker.cursor with checkOwed := false } }
         else { t with walker := { t.walker with pollTimer := some s.walker.pollInterval } }
       else if recordAddressValid s.ctl.chnBase s.ctl.chnSize link = true then
         State.taking { t with walker := { t.walker with checkOwed := false } } link
       else t.faulted .badLink link))

/-- R79, R166, R187: the address checks. A record address is a multiple of 64 inside the chain region, past its report block; an OPEN record's
second half must fit too; the region itself has its own conditions. A buffer is 64-byte aligned, and its region is the lowest-numbered one of
the eight that holds the whole run and grants the right. Sums are taken as whole numbers, without wrap, for every 64-bit base, size and address
(log entry 31, DEDUCED). -/
def Obligations.AddressChecks : Prop :=
  (∀ base size addr : Word64,
    (recordAddressValid base size addr = true ↔
      64 ∣ addr.toNat ∧ base.toNat + 256 ≤ addr.toNat ∧ addr.toNat + 64 ≤ base.toNat + size.toNat) ∧
    (openFits base size addr = true ↔ addr.toNat + 128 ≤ base.toNat + size.toNat) ∧
    (chainRegionValid base size = true ↔ 4096 ∣ base.toNat ∧ 4096 ∣ size.toNat ∧ 4096 ≤ size.toNat ∧
      size.toNat ≤ 2 ^ 30 ∧ base.toNat + size.toNat ≤ 2 ^ 48)) ∧
  (∀ (regions : Table Region) (write : Bool) (addr length i : Nat),
    let grants := fun j => ∃ r, regions.get j = some r ∧ (r.rights = 3 ∨ r.rights = if write then 2 else 1) ∧
      r.base ≤ addr ∧ addr + length ≤ r.base + r.length
    addressRegion regions write addr length = some i ↔ 64 ∣ addr ∧ i < 8 ∧ grants i ∧ ∀ j < i, ¬ grants j)

/-- R178: TABLE_FULL. A BLOCKED record whose timer has reached the blocked limit is refused TABLE_FULL; before that, and with a limit of 0,
the command is not due and nothing happens (log entry 1). -/
def Obligations.TableFull : Prop :=
  ∀ s : State, s.walker.state = .blocked →
    (∀ n, s.walker.blockedTimer = some n → s.walker.blockedLimit ≤ n → s.atRest 1 = true → exec .tableFull s = .next
      (s.concluded (.final (recNotify s.walker.buffer)) [outcomeBytes s.walker.next 3 11])) ∧
    (∀ n, s.walker.blockedTimer = some n → n < s.walker.blockedLimit → exec .tableFull s = .next s) ∧
    (s.walker.blockedTimer = none → exec .tableFull s = .next s)

/-- R171, R172, R179: BAD_KIND, and the Walker's checks of a record of any kind but OPEN's. A disposition that is not POSTED faults the Walker
with the record's address; a kind of 0 or above 8 is refused BAD_KIND; a must-be-zero byte or a reserved flag that is not zero, BAD_FIELD. -/
def Obligations.HeaderChecks : Prop :=
  (∀ (s : State) (b : List Byte), s.awaitsRecord = true → s.atRest 1 = true → b.length = 64 →
    recKind b = 0 ∨ 8 < recKind b → recDisposition b = 0 → exec (.badKind b) s = .next (s.refused b .badKind)) ∧
  (∀ (s : State) (b : List Byte), s.awaitsRecord = true → s.atRest 2 = true → b.length = 64 → recKind b ≠ 1 →
    (recDisposition b ≠ 0 → exec (recordCommand b) s = .next ((s.fetched b).faulted .notPosted s.walker.next)) ∧
    (recDisposition b = 0 → 2 ≤ recKind b → recKind b ≤ 8 → headerClean b = false ∨ bodyClean (recKind b) b = false →
      exec (recordCommand b) s = .next (s.refused b .badField)))

/-! ### Records final at dispatch: TUNE, REGION, LEVEL -/

/-- R183: TUNE sets five settings, each clamped to its range, and is DONE at once, the result area carrying one bit for each value that was
clamped. -/
def Obligations.TuneRecord : Prop :=
  ∀ (s : State) (b : List Byte), s.awaitsRecord = true → s.atRest 1 = true → postedRecord 7 b = true →
    exec (.tune b) s = .next
      (let mask := (if fieldAt b 16 1 = 0 ∨ 4 < fieldAt b 16 1 then 1 else 0) + (if 1 < fieldAt b 17 1 then 2 else 0) +
         (if 3 < fieldAt b 18 1 then 4 else 0) + (if fieldAt b 19 1 = 0 then 8 else 0) + (if 1000 < fieldAt b 20 2 then 16 else 0)
       let t := s.finished b [outcomeBytes s.walker.next 2 0,
         { addr := s.walker.next.toNat + 48, bytes := BitVec.ofNat 8 mask :: List.replicate 15 0 }]
       { t with
         port := { t.port with readLimit := max 1 (min 4 (fieldAt b 16 1)), pairMode := decide (fieldAt b 17 1 ≠ 0),
                               retryCount := min 3 (fieldAt b 18 1) },
         walker := { t.walker with pollInterval := max 1 (fieldAt b 19 1), blockedLimit := min 1000 (fieldAt b 20 2) } })

/-- R77, R184, R185: REGION. A region number above 7, rights above 3 or a shape that is not a region's is refused BAD_FIELD; a change of a region
that entries in use name is refused REGION_IN_USE; otherwise the region takes the record's base, length and rights, and the record is DONE. A
region's reference count is the number of Feed and Sink entries in use whose region it is. Base and length are added as whole numbers, without
wrap (log entry 31, DEDUCED). -/
def Obligations.RegionRecord : Prop :=
  ∀ (s : State) (b : List Byte), s.awaitsRecord = true → s.atRest 1 = true → postedRecord 6 b = true →
    exec (.region b) s = .next
      (let i := fieldAt b 32 1
       let r : Region := { base := fieldAt b 16 8, length := fieldAt b 24 8, rights := fieldAt b 33 1 }
       let old := (s.ctl.regions.get i).getD { base := 0, length := 0, rights := 0 }
       if 8 ≤ i ∨ 3 < r.rights then s.refused b .badField
       else if r.rights = 0 ∧ (r.base ≠ 0 ∨ r.length ≠ 0) then s.refused b .badField
       else if r.rights ≠ 0 ∧ ¬(4096 ∣ r.base ∧ 4096 ∣ r.length ∧ 4096 ≤ r.length ∧ r.base + r.length ≤ 2 ^ 48) then
         s.refused b .badField
       else if r ≠ old ∧ s.refCount i ≠ 0 then s.refused b .regionInUse
       else
         let t := s.finished b [outcomeBytes s.walker.next 2 0]
         { t with ctl := { t.ctl with regions := if r.rights = 0 then s.ctl.regions.erase i else s.ctl.regions.set i r } }) ∧
    ∀ i, s.refCount i = s.feeds.rows.countP (fun e => decide (e.2.region = i)) +
        s.sinks.rows.countP (fun e => decide (e.2.region = i)) ∧
      (s.feeds.wf = true → s.sinks.wf = true → (s.refCount i = 0 ↔
        (∀ e f, s.feeds.get e = some f → f.region ≠ i) ∧ ∀ e k, s.sinks.get e = some k → k.region ≠ i))

/-- R163, R165: LEVEL. A mode above 2 is refused BAD_FIELD. Otherwise the level is set, raised or lowered within 0 to 15, the credit follows
R163's table, and the record is DONE with the level in force in its result area. -/
def Obligations.LevelRecord : Prop :=
  ∀ (s : State) (b : List Byte), s.awaitsRecord = true → s.atRest 1 = true → postedRecord 8 b = true →
    exec (.level b) s = .next
      (let mode := fieldAt b 16 1
       let value := fieldAt b 17 1
       let l := if mode = 0 then min 15 value else if mode = 1 then min 15 (s.gov.level + value) else s.gov.level - value
       if 2 < mode then s.refused b .badField
       else
         let t := s.finished b [outcomeBytes s.walker.next 2 0,
           { addr := s.walker.next.toNat + 48, bytes := BitVec.ofNat 8 l :: List.replicate 15 0 }]
         { t with gov := { s.gov with
             level := l
             credit := if l = s.gov.level then s.gov.credit else if l = 15 then 0 else if s.gov.level = 15 then budget l
               else if s.gov.credit > budget l then budget l else s.gov.credit } })

/-! ### OPEN (chapter 2) -/

/-- R21, R22, R170, R171: the checks of an OPEN record. Its first half in hand, its second is asked for if the record fits in the chain region;
if not, the Walker is FAULTED with BAD_LINK. Both halves in hand, a disposition that is not POSTED is a fault, and the first check that then
fails refuses the record (`State.openReason`); the body's check is R22's, field by field. That an OPEN arrives as two commands is log entry 4
(DESIGN CHOICE); that the fit is judged without wrap is log entry 31 (DEDUCED). -/
def Obligations.OpenChecked : Prop :=
  (∀ (s : State) (b : List Byte), s.awaitsRecord = true → s.atRest 2 = true → recordBytes 1 b = true →
    exec (.openRecord b) s = .next
      (if s.walker.next.toNat + 128 ≤ s.ctl.chnBase.toNat + s.ctl.chnSize.toNat then
        { s.fetched b with walker := (s.fetched b).asking .secondHalf (s.walker.next + 64) }
      else (s.fetched b).faulted .badLink s.walker.next)) ∧
  (∀ (s : State) (half : List Byte), s.awaitsTail = true → s.atRest 2 = true → half.length = 64 →
    let b := s.walker.buffer ++ half
    (recDisposition b ≠ 0 → exec (.openRecord half) s = .next ((s.fetched b).faulted .notPosted s.walker.next)) ∧
    (recDisposition b = 0 → ∀ r, s.openReason b = some r → exec (.openRecord half) s = .next (s.refused b r))) ∧
  (∀ b : List Byte, openBodyValid b = true ↔
    (2 ≤ fieldAt b 32 1 ∧ fieldAt b 32 1 ≤ 20) ∧ (1 ≤ fieldAt b 33 1 ∧ fieldAt b 33 1 ≤ 6) ∧
    fieldAt b 32 1 + fieldAt b 33 1 ≤ 24 ∧ fieldAt b 34 1 ≤ 3 ∧ (1 ≤ fieldAt b 28 4 ∧ fieldAt b 28 4 ≤ 2 ^ 28) ∧
    (1 ≤ fieldAt b 35 1 ∧ fieldAt b 35 1 ≤ 8) ∧ zeroAt b 37 3 = true ∧ zeroAt b 42 6 = true ∧
    (∀ f < 24, (byteAt b (48 + f)).toNat ≤ 3) ∧
    (∀ f < 24, fieldAt b 32 1 + fieldAt b 33 1 ≤ f → byteAt b (48 + f) = 0) ∧
    (List.range 24).countP (fun f => byteAt b (48 + f) == 1) = fieldAt b 32 1 ∧
    1 ≤ (List.range 24).countP (fun f => byteAt b (48 + f) == 3) ∧
    (List.range 24).countP (fun f => byteAt b (48 + f) == 3) ≤ fieldAt b 33 1)

/-- R23, R24, R27, R31, R51, R124, R125: an OPEN that passes every check fills its slot with the record's geometry, its error limit and stall limit
clamped, its roles and zero counters. If no context waits for cells and its W × T cells are free it takes them (the lowest-numbered: log entry
8) and enters SOLVING, its first min(W, N) positions OPEN and empty, their cells zeroed and no other cell changed, and the Solver takes it, with
the working table standing whole at once (log entry 25), or it queues; otherwise it joins the cell wait queue, PENDING, and no cell changes.
TAKEN is written, then the context's progress. -/
def Obligations.OpenAccepted : Prop :=
  ∀ (s : State) (half : List Byte), s.awaitsTail = true → s.atRest 2 = true → half.length = 64 →
    let b := s.walker.buffer ++ half
    let i := recContext b
    recDisposition b = 0 → headerClean b = true → s.openRefusal b = none →
    ∃ t c, exec (.openRecord half) s = .next t ∧ t.ctxs.get i = some c ∧
      c.geo = { openAddr := s.walker.next, notify := recNotify b, stripe := BitVec.ofNat 64 (fieldAt b 16 8),
                epoch := BitVec.ofNat 32 (fieldAt b 24 4), k := fieldAt b 32 1, m := fieldAt b 33 1, sizeCode := fieldAt b 34 1,
                fragLength := fieldAt b 28 4, width := fieldAt b 35 1,
                errorLimit := if fieldAt b 36 1 = 0 then 1 else if 15 < fieldAt b 36 1 then 15 else fieldAt b 36 1,
                stallLimit := if 60000 < fieldAt b 40 2 then 60000 else fieldAt b 40 2 } ∧
      c.geo = recGeometry s.walker.next b ∧ (∀ f < 24, roleOfByte (byteAt b (48 + f)) = some (c.role f)) ∧
      c.counters = Counters.zero ∧ (∀ n ∈ c.counters.values, n = 0) ∧ c.base = 0 ∧ c.retired = 0 ∧ c.aborts = [] ∧ c.outcome = none ∧
      c.stalled = false ∧ c.exposed = c.noSpare ∧ c.feedList = [] ∧ c.sinkList = [] ∧ c.table = none ∧ c.timerRuns = false ∧
      (if s.cellWait = [] ∧ c.cellNeed ≤ s.freeCells then
        c.state = .solving ∧ c.cells = s.freeCellList.take c.cellNeed ∧ t.freeCells = s.freeCells - c.cellNeed ∧
        t.cellWait = s.cellWait ∧
        (∀ seg, c.holding seg = if seg < min c.geo.width c.geo.segCount then
          some { state := .opened, seg := seg, row := Table.empty, binds := Table.empty } else none) ∧
        (∀ seg, seg < min c.geo.width c.geo.segCount → ∀ n ∈ c.cellsOf seg, cellBytesOf t.store n = List.replicate 4096 0) ∧
        (∀ n, (∀ seg, seg < min c.geo.width c.geo.segCount → n ∉ c.cellsOf seg) → cellBytesOf t.store n = cellBytesOf s.store n) ∧
        (if s.solving = none then
          t.solveQueue = [] ∧ t.solving = some { ctx := i, k := c.geo.k, sources := c.sources, targets := c.targets,
                                                 working := solveTable c.geo.k c.sources c.targets }
        else t.solveQueue = s.solveQueue ++ [i] ∧ t.solving = s.solving)
      else
        c.state = .pending ∧ c.cells = [] ∧ c.slots = Table.empty ∧ t.freeCells = s.freeCells ∧ t.store = s.store ∧
        t.cellWait = s.cellWait ++ [i] ∧ t.solveQueue = s.solveQueue ∧ t.solving = s.solving) ∧
      t.port.writeQueue = s.port.writeQueue ++
        [{ writer := .walker, kind := .taken, spans := [outcomeBytes s.walker.next 1 0] },
         { writer := .slot i, kind := .progress, spans := [{ addr := s.walker.next.toNat + 72, bytes := progressBytes c }] }] ∧
      t.walker = ((s.fetched b).concluded .taken [outcomeBytes s.walker.next 1 0]).walker ∧
      (∀ j, j ≠ i → t.ctxs.get j = s.ctxs.get j) ∧ t.feeds = s.feeds ∧ t.sinks = s.sinks ∧ t.statusQueue = [] ∧
      t.ctl = s.ctl ∧ t.gov = s.gov ∧ t.port.staging = s.port.staging

/-! ### FEED and SINK (chapter 4) -/

/-- R78 and R82: the checks of a FEED (`State.feedReason`) and of a SINK (`State.sinkReason`), in order; the first that fails refuses the
record, and nothing else changes. -/
def Obligations.FeedAndSinkRefused : Prop :=
  (∀ (s : State) (b : List Byte), s.awaitsRecord = true → s.atRest 1 = true → postedRecord 2 b = true → ∀ r,
    s.feedReason b = some r → exec (.feed b) s = .next (s.refused b r)) ∧
  (∀ (s : State) (b : List Byte), s.awaitsRecord = true → s.atRest 1 = true → postedRecord 3 b = true → ∀ r,
    s.sinkReason b = some r → exec (.sink b) s = .next (s.refused b r))

/-- R80, R81, R85: a FEED that passes its checks. With no room for its status or no free entry the Walker is BLOCKED on it. For a FAILED fragment
it is TAKEN and at once final, every segment unused. Otherwise it is TAKEN, the lowest-numbered free entry holds it (log entry 8, DESIGN CHOICE),
and its segments are classified under that entry (`State.classifyRun`): each of them once, in ascending order, as `FeedClassification` says of
one. -/
def Obligations.FeedAccepted : Prop :=
  ∀ (s : State) (b : List Byte) (c : Ctx) (r : Nat), s.awaitsRecord = true → s.atRest 2 = true → postedRecord 2 b = true →
    s.feedPasses b c r →
    (1280 ≤ s.statusTotal ∨ (c.role (recFragment b) ≠ .failed ∧ s.feeds.lowestFree 1024 = none) →
      exec (.feed b) s = .next (s.blockedOn b)) ∧
    (s.statusTotal < 1280 → c.role (recFragment b) = .failed → exec (.feed b) s = .next
      (let t := (s.fetched b).concluded .taken [outcomeBytes s.walker.next 1 0]
       { t with port := { t.port with writeQueue := t.port.writeQueue ++
           [{ writer := .registry, kind := .final (recNotify b),
              spans := [outcomeBytes s.walker.next 2 0,
                { addr := s.walker.next.toNat + 48,
                  bytes := List.replicate 10 0 ++ toLE 2 (recCount b) ++ List.replicate 4 0 }] }] } })) ∧
    (∀ e, s.statusTotal < 1280 → c.role (recFragment b) ≠ .failed → s.feeds.lowestFree 1024 = some e →
      let u := State.classifyRun (recContext b) e (recFragment b) (recCount b) (recFirst b)
        { s with
          feeds := s.feeds.set e
            { addr := s.walker.next, notify := recNotify b, ctx := recContext b, frag := recFragment b, first := recFirst b,
              count := recCount b, buffer := recBuffer b, region := r, pending := recCount b,
              counts := { used := 0, refused := 0, readFailed := 0, late := 0, duplicate := 0, unused := 0 } }
          ctxs := s.ctxs.set (recContext b) { c with feedList := c.feedList ++ [e] } }
      ∃ t more, exec (.feed b) s = .next t ∧ e < 1024 ∧ s.feeds.get e = none ∧ t.feeds = u.feeds ∧ u.ctxsSteady t ∧
        t.walker = ((s.fetched b).concluded .taken [outcomeBytes s.walker.next 1 0]).walker ∧
        t.port.writeQueue = s.port.writeQueue ++
          { writer := .walker, kind := .taken, spans := [outcomeBytes s.walker.next 1 0] } :: more ∧
        t.sinks = s.sinks ∧ t.store = s.store ∧ t.port.staging = s.port.staging ∧ t.ctl = s.ctl ∧ t.gov = s.gov) ∧
    (∀ (u : State) (i e f n seg : Nat), State.classifyRun i e f 0 seg u = u ∧
      State.classifyRun i e f (n + 1) seg u = State.classifyRun i e f n (seg + 1) (u.classify i e f seg))

/-- R53: what one segment of a feed becomes. In PENDING and ahead of the window it waits; behind the base, or at a position that is no longer
OPEN, it is late; for a FAILED fragment, unused; at an entry LOGGED, INFLIGHT or CONTRIBUTED, a duplicate; at any other entry it is LOGGED,
unverified, under the feed's entry. A late or duplicate one counts in the context's counter of that name, which stops at 65535, and is handed
to the feed's entry as that outcome (counted there as `SegmentOutcomes` says). -/
def Obligations.FeedClassification : Prop :=
  ∀ (s : State) (i e f seg : Nat) (c : Ctx), s.ctxs.get i = some c →
    let counting := fun (n : Counters) => ({ s with ctxs := s.ctxs.set i { c with counters := n } } : State)
    let late := (counting { c.counters with late := min 65535 (c.counters.late + 1) }).feedOutcome e .late
    let duplicate := (counting { c.counters with duplicate := min 65535 (c.counters.duplicate + 1) }).feedOutcome e .duplicate
    (c.state = .pending ∨ c.base + c.geo.width ≤ seg → s.classify i e f seg = s) ∧
    (c.state ≠ .pending → seg < c.base → s.classify i e f seg = late) ∧
    (∀ p, c.state ≠ .pending → c.base ≤ seg → seg < c.base + c.geo.width → c.holding seg = some p →
      (p.state ≠ .opened → s.classify i e f seg = late) ∧
      (p.state = .opened → c.role f = .failed → s.classify i e f seg = s.feedOutcome e .unused) ∧
      (∀ en, p.state = .opened → c.role f ≠ .failed → p.row.get f = some en →
        en.state = .logged ∨ en.state = .inflight ∨ en.state = .contributed → s.classify i e f seg = duplicate) ∧
      (p.state = .opened → c.role f ≠ .failed →
        (∀ en, p.row.get f = some en → en.state = .refused ∨ en.state = .readFailed) →
        ∃ c' p', (s.classify i e f seg).ctxs.get i = some c' ∧ c'.bones = c.bones ∧ c'.holding seg = some p' ∧
          p'.row.get f = some { state := .logged, feed := e, verified := false } ∧
          (∀ g, g ≠ f → p'.row.get g = p.row.get g) ∧ (s.classify i e f seg).feeds = s.feeds)) ∧
    (∀ j, j ≠ i → ∀ d, s.ctxs.get j = some d → ∃ d', (s.classify i e f seg).ctxs.get j = some d' ∧ d'.bones = d.bones)

/-- R33, R85, R86, R87, R89, R90, R91: each of the six outcomes of a FEED segment raises its own count by one, and each of a SINK's two its own, and
moves one segment out of those the entry owes. The last one frees the entry, takes it off its context's list, queues its status with its
counts, and tells a Walker BLOCKED on a record of that table, and no other, of room. Statuses that fit enter the write queue in order, each
covering the result area and the two header bytes, and one that leaves the status queue tells a BLOCKED Walker of room too. -/
def Obligations.SegmentOutcomes : Prop :=
  (∀ (s : State) (e : Nat) (o : FeedOutcome) (f : FeedEntry), s.feeds.get e = some f → 1 ≤ f.pending →
    let one := fun (x : FeedOutcome) => if o = x then 1 else 0
    let n := f.counts
    let counts : FeedCounts := { used := n.used + one .used, refused := n.refused + one .refused,
                                 readFailed := n.readFailed + one .readFailed, late := n.late + one .late,
                                 duplicate := n.duplicate + one .duplicate, unused := n.unused + one .unused }
    let t := s.feedOutcome e o
    counts.total = n.total + 1 ∧
    (1 < f.pending → t = { s with feeds := s.feeds.set e { f with counts := counts, pending := f.pending - 1 } }) ∧
    (f.pending = 1 → t.feeds.get e = none ∧ (∀ g, g ≠ e → t.feeds.get g = s.feeds.get g) ∧
      t.statusQueue = s.statusQueue ++ [{ addr := f.addr, notify := f.notify, ctx := f.ctx, result := feedResult counts }] ∧
      t.walker = (if s.walker.state = .blocked ∧ recKind s.walker.buffer = 2 then { s.walker with room := true } else s.walker) ∧
      ∀ c, s.ctxs.get f.ctx = some c → t.ctxs.get f.ctx = some { c with feedList := c.feedList.filter (· ≠ e) })) ∧
  (∀ (s : State) (e : Nat) (o : SinkOutcome) (k : SinkEntry), s.sinks.get e = some k → 1 ≤ k.pending →
    let w := k.written + (if o = .written then 1 else 0)
    let u := k.unwritten + (if o = .unwritten then 1 else 0)
    let t := s.sinkOutcome e o
    (1 < k.pending → t = { s with sinks := s.sinks.set e { k with written := w, unwritten := u, pending := k.pending - 1 } }) ∧
    (k.pending = 1 → t.sinks.get e = none ∧ (∀ g, g ≠ e → t.sinks.get g = s.sinks.get g) ∧
      t.statusQueue = s.statusQueue ++ [{ addr := k.addr, notify := k.notify, ctx := k.ctx, result := sinkResult w u }] ∧
      t.walker = (if s.walker.state = .blocked ∧ recKind s.walker.buffer = 3 then { s.walker with room := true } else s.walker) ∧
      ∀ c, s.ctxs.get k.ctx = some c → t.ctxs.get k.ctx = some { c with sinkList := c.sinkList.filter (· ≠ e) })) ∧
  (∀ s : State, s.port.claimLine = [] → s.walker.ready = none → s.port.writeQueue.length + s.statusQueue.length ≤ 64 →
    (∀ x ∈ s.statusQueue, x.result ≠ []) →
    s.offer .registry =
      { s with
        statusQueue := []
        walker := { s.walker with
          room := s.walker.room || (decide (s.walker.state = .blocked) && decide (s.statusQueue ≠ [])) }
        port := { s.port with writeQueue := s.port.writeQueue ++ s.statusQueue.map (fun x =>
          { writer := .registry, kind := .final x.notify,
            spans := [outcomeBytes x.addr 2 0, { addr := x.addr.toNat + 48, bytes := x.result }] }) } })

/-- R63, R64, R65, R66, R83, R85: a SINK that passes its checks. With no room for its status or no free entry the Walker is BLOCKED on it.
Otherwise it is TAKEN and the lowest-numbered free entry holds it (log entry 8, DESIGN CHOICE), listed last in its context; a segment of it
behind the base counts unwritten at once, and one whose whole range is behind is final at once, its status placed or waiting for a place. The
entry is bound for its target at each FULL position in its range, and nowhere else; a position with a target still unbound stays off the emit
queue; one with every target bound stands on it, or is being emitted if the Emit Unit was idle (`State.sinkTaken`). The feeds, the cells and the
window's bases do not change. -/
def Obligations.SinkAccepted : Prop :=
  ∀ (s : State) (b : List Byte) (c : Ctx) (r : Nat), s.awaitsRecord = true → s.atRest 2 = true → postedRecord 3 b = true →
    s.sinkPasses b c r →
    (1280 ≤ s.statusTotal ∨ s.sinks.lowestFree 256 = none → exec (.sink b) s = .next (s.blockedOn b)) ∧
    (∀ e, s.statusTotal < 1280 → s.sinks.lowestFree 256 = some e →
      ∃ t, exec (.sink b) s = .next t ∧ e < 256 ∧ s.sinks.get e = none ∧ s.sinkTaken t b c r e)

/-- R85, R178: BLOCKED_RECHECK. Once room has been reported to a BLOCKED Walker, its record is checked again in full: a check that now fails
refuses it with that reason (`State.feedReason`, `State.sinkReason`); still without room, or with its table full, it stays BLOCKED, its timer
going on; a FEED whose fragment has FAILED meanwhile is TAKEN and at once final, every segment unused, with no entry (R81); otherwise a FEED or a
SINK is TAKEN into the lowest-numbered free entry (log entry 8) as if it had just been fetched (`State.feedTaken`, whose classification
`FeedAccepted` opens; `State.sinkTaken`). With no room reported the command is not due and nothing happens (log entry 1). -/
def Obligations.BlockedRecheck : Prop :=
  ∀ s : State, s.walker.state = .blocked →
    let b := s.walker.buffer
    let again := { s with walker := { s.walker with room := false } }
    (s.walker.room = false → exec .blockedRecheck s = .next s) ∧
    (s.walker.room = true → s.atRest 2 = true → recKind b = 2 →
      (∀ r, s.feedReason b = some r → exec .blockedRecheck s = .next
        (s.concluded (.final (recNotify b)) [outcomeBytes s.walker.next 3 r.code])) ∧
      (∀ c r, s.feedPasses b c r →
        (1280 ≤ s.statusTotal ∨ (c.role (recFragment b) ≠ .failed ∧ s.feeds.lowestFree 1024 = none) →
          exec .blockedRecheck s = .next again) ∧
        (s.statusTotal < 1280 → c.role (recFragment b) = .failed → exec .blockedRecheck s = .next
          (let t := s.concluded .taken [outcomeBytes s.walker.next 1 0]
           { t with port := { t.port with writeQueue := t.port.writeQueue ++
               [{ writer := .registry, kind := .final (recNotify b),
                  spans := [outcomeBytes s.walker.next 2 0,
                    { addr := s.walker.next.toNat + 48,
                      bytes := List.replicate 10 0 ++ toLE 2 (recCount b) ++ List.replicate 4 0 }] }] } })) ∧
        (∀ e, s.statusTotal < 1280 → c.role (recFragment b) ≠ .failed → s.feeds.lowestFree 1024 = some e →
          ∃ t, exec .blockedRecheck s = .next t ∧ e < 1024 ∧ s.feeds.get e = none ∧ s.feedTaken t b c r e))) ∧
    (s.walker.room = true → s.atRest 2 = true → recKind b = 3 →
      (∀ r, s.sinkReason b = some r → exec .blockedRecheck s = .next
        (s.concluded (.final (recNotify b)) [outcomeBytes s.walker.next 3 r.code])) ∧
      (∀ c r, s.sinkPasses b c r →
        (1280 ≤ s.statusTotal ∨ s.sinks.lowestFree 256 = none → exec .blockedRecheck s = .next again) ∧
        (∀ e, s.statusTotal < 1280 → s.sinks.lowestFree 256 = some e →
          ∃ t, exec .blockedRecheck s = .next t ∧ e < 256 ∧ s.sinks.get e = none ∧ s.sinkTaken t b c r e)))

/-! ### DROP and ABORT (chapters 2 and 5) -/

/-- R39, R106: the checks of a DROP (`State.dropReason`) and of an ABORT (`State.abortReason`), in order; the first that fails refuses it,
and nothing else changes. -/
def Obligations.DropAndAbortRefused : Prop :=
  ∀ (s : State) (b : List Byte), s.awaitsRecord = true → s.atRest 1 = true → ∀ r,
    (postedRecord 4 b = true → s.dropReason b = some r → exec (.drop b) s = .next (s.refused b r)) ∧
    (postedRecord 5 b = true → s.abortReason b = some r → exec (.abort b) s = .next (s.refused b r))

/-- R25, R57, R61, R62, R106 to R113, R128, R140, R150: a DROP that passes its checks is DONE at once. A FAILED fragment stays as it is; a SPARE
becomes FAILED; a SOURCE becomes FAILED, and the lowest SPARE a SOURCE in its place, counted as a substitution, a RUNNING context going back to
SOLVING with its timer stopped, its installed table standing. Every staging slot of the context is then stale, those in RETRYING freed, the entry
each was to read LOGGED again, or NONE for the FAILED fragment; every CONTRIBUTED entry at an OPEN position is LOGGED again, verified kept, and
those positions' cells are zeroed (`State.sourcesChanged`). With no SPARE left the context ends SHORT, its slots stale too, its cells as they
were. The failed fragment is released (`State.fragmentReleased`): at OPEN positions its entries become NONE, a LOGGED or CONTRIBUTED one counting
unused, an INFLIGHT one staying until its slot is discarded; at other positions they stay. A context that was RUNNING joins the solve queue; of
one in SOLVING, a solve in progress is abandoned and goes behind the queue, a queued one keeps its place. No other role changes, and no other
context's. That a slot in RETRYING reads for a source of its context (R98, R140) is an invariant that `StoreQueuesAndSettings` states. While a
segment of the context is being combined the dispatch is held (log entry 6, DEDUCED); `CombineComplete` says what follows. That the next solve's
working table stands whole at its start is log entry 25 (DEDUCED). That several slots discarded by one mark, and the OPEN positions of one
release, go in ascending order is log entries 37 and 36 (DESIGN CHOICE). -/
def Obligations.DropTaken : Prop :=
  ∀ (s : State) (b : List Byte) (c : Ctx), s.awaitsRecord = true → s.atRest 1 = true → postedRecord 4 b = true →
    s.names b c → recFragment b < 24 → c.state ≠ .draining →
    let f := recFragment b
    let i := recContext b
    (c.role f = .failed → exec (.drop b) s = .next (s.finished b [outcomeBytes s.walker.next 2 0])) ∧
    (s.judging i = false → c.role f = .source ∨ c.role f = .spare → ∃ t c' more, exec (.drop b) s = .next t ∧
      t.ctxs.get i = some c' ∧ c'.role f = .failed ∧ c'.geo = c.geo ∧ c'.base = c.base ∧ c'.aborts = c.aborts ∧
      c'.exposed = c'.noSpare ∧
      (∀ j d, j ≠ i → s.ctxs.get j = some d → ∃ d', t.ctxs.get j = some d' ∧ d'.roles = d.roles ∧ d'.geo = d.geo) ∧
      t.port.writeQueue = s.port.writeQueue ++
        { writer := .walker, kind := .final (recNotify b), spans := [outcomeBytes s.walker.next 2 0] } :: more ∧
      (c.role f = .spare → c'.bones = { c.bones with roles := c.roles.set f .failed, exposed := c'.noSpare } ∧
        t.port.staging = s.port.staging ∧ t.port.reissueLine = s.port.reissueLine ∧ t.store = s.store ∧
        t.solving = s.solving ∧ t.solveQueue = s.solveQueue ∧
        (c.seated → t.fragmentReleased i f c s.feeds (fun _ => false) more)) ∧
      (∀ p, c.role f = .source → (c.fragmentsIn .spare).head? = some p →
        c'.role p = .source ∧ (∀ g, g ≠ f → g ≠ p → c'.role g = c.role g) ∧
        c'.counters = { c.counters with substitutions := min 65535 (c.counters.substitutions + 1) } ∧
        c'.outcome = c.outcome ∧
        (c.state = .pending → c'.state = .pending) ∧ (c.state ≠ .pending → c'.state = .solving) ∧
        (c.state = .running → c'.timerRuns = false) ∧
        (c.state ≠ .pending → s.port.staging.wf = true → s.staleMarked t i ∧ (s.retriesForSources i c →
          (∀ k u q en, s.port.staging.get k = some u → u.ctx = i → u.phase = .retrying → c.holding u.seg = some q →
            q.row.get u.frag = some en → en.state = .inflight → ∃ q', c'.holding u.seg = some q' ∧
              q'.row.get u.frag = if u.frag = f then none else some { en with state := .logged }) ∧
          (c.seated → t.fragmentReleased i f c s.feeds (fun seg => s.retryWaits i seg f) more))) ∧
        (c.state ≠ .pending → c.seated → t.sourcesChanged c c' s.store (some f)) ∧
        c'.table = c.table ∧
        (c.state = .pending → t.solving = s.solving ∧ t.solveQueue = s.solveQueue) ∧
        (c.state = .running → if s.solving = none then t.solving = some (solveOf i c') ∧ t.solveQueue = []
          else t.solving = s.solving ∧ t.solveQueue = s.solveQueue ++ [i]) ∧
        (c.state = .solving → s.solvingFor i = false → t.solving = s.solving ∧ t.solveQueue = s.solveQueue) ∧
        (c.state = .solving → s.solvingFor i = true →
          (s.solveQueue = [] → t.solving = some (solveOf i c') ∧ t.solveQueue = []) ∧
          (∀ j rest d, s.solveQueue = j :: rest → t.ctxs.get j = some d →
            t.solving = some (solveOf j d) ∧ t.solveQueue = rest ++ [i]))) ∧
      (c.role f = .source → c.fragmentsIn .spare = [] →
        (∀ g, g ≠ f → c'.role g = c.role g) ∧ c'.state = .draining ∧ c'.outcome = some .short ∧ c'.counters = c.counters ∧
        (c.state ≠ .pending → i ∉ t.solveQueue ∧ t.solvingFor i = false ∧ t.store = s.store ∧
          (s.port.staging.wf = true → s.staleMarked t i) ∧
          (c.seated → t.fragmentReleased i f c s.feeds (fun _ => false) more)))) ∧
    (s.judging i = true → c.role f = .source ∨ c.role f = .spare → exec (.drop b) s = .next (s.heldOn b))

/-- R39, R41, R42, R47, R57, R140, R150: an ABORT that passes its checks is TAKEN and joins its context's list; a context that is not DRAINING ends
ABORTED. If it was SOLVING or RUNNING its timer stops, every staging slot of it is marked stale, those in RETRYING freed at once, with the
entries they were to read left INFLIGHT, and it leaves the Solver and the emit queue. A DRAINING one goes on as it was. Roles, geometry and
counters stand. While a segment of the context is being combined the dispatch is held (log entry 6, DEDUCED). -/
def Obligations.AbortTaken : Prop :=
  ∀ (s : State) (b : List Byte) (c : Ctx), s.awaitsRecord = true → s.atRest 1 = true → postedRecord 5 b = true →
    s.names b c →
    let i := recContext b
    (c.state = .draining → c.aborts.length < 4 → exec (.abort b) s = .next
      { (s.fetched b).concluded .taken [outcomeBytes s.walker.next 1 0] with
        ctxs := s.ctxs.set i { c with aborts := c.aborts ++ [(s.walker.next, recNotify b)] } }) ∧
    (c.state ≠ .draining → s.judging i = false → ∃ t c' more, exec (.abort b) s = .next t ∧ t.ctxs.get i = some c' ∧
      c'.bones = { c.bones with
        state := .draining, outcome := some .aborted, teardown := .draining,
        aborts := c.aborts ++ [(s.walker.next, recNotify b)],
        timerRuns := if c.state = .pending then c.timerRuns else false } ∧
      (c.state = .pending → i ∉ t.cellWait ∧ t.port.staging = s.port.staging) ∧
      (c.state ≠ .pending → i ∉ t.solveQueue ∧ t.solvingFor i = false ∧ (∀ q ∈ t.emitQueue, q.1 ≠ i) ∧
        c'.slots = c.slots ∧ t.feeds = s.feeds ∧ t.sinks = s.sinks ∧
        (s.port.staging.wf = true → s.staleMarked t i)) ∧
      t.port.writeQueue = s.port.writeQueue ++
        { writer := .walker, kind := .taken, spans := [outcomeBytes s.walker.next 1 0] } :: more) ∧
    (c.state ≠ .draining → s.judging i = true → exec (.abort b) s = .next (s.heldOn b))

/-! ### The Memory Port (chapter 7) -/

/-- R132, R133, R137, R148, R180, R182, R191: ISSUE_OPPORTUNITY issues one request, the first there is of: a record fetch waiting for its
reissue; the fetch the Walker asks for, if its last disposition write has been issued; the write at the head of the write queue; the oldest
member of the reissue line, a pair with one read over both units. The issue of a final disposition counts in records finalised and, with NOTIFY, is
a cause of attention. That a fetch in the port's hands goes first, and that a new one waits for it and for the Walker's unissued write, is log
entry 14 (DEDUCED). -/
def Obligations.IssuePreference : Prop :=
  ∀ s : State, s.port.outstanding = 0 →
    (∀ f, s.port.fetch = some ⟨f, false⟩ → exec .issueOpportunity s = .next
      { s with port := { s.port with fetch := some ⟨f, true⟩ }, issued := s.issued ++ [.fetch f.addr f.what.length] }) ∧
    (∀ f, s.port.fetch = none → s.walker.unissued = false → s.walker.wanted = some f → exec .issueOpportunity s = .next
      { s with port := { s.port with fetch := some ⟨f, true⟩ }, walker := { s.walker with wanted := none },
               issued := s.issued ++ [.fetch f.addr f.what.length] }) ∧
    (∀ (w : QWrite) (rest : List QWrite), s.noFetchDue → s.port.writeQueue = w :: rest → s.atRest 0 = true → exec .issueOpportunity s = .next
      (let t : State := { s with
         port := { s.port with writeQueue := rest },
         walker := { s.walker with unissued := if w.writer = .walker then false else s.walker.unissued } }
       match w.kind with
       | .message => { t with issued := s.issued ++ [.message w (Config.msiEnabled s.draws)], draws := s.draws + 1 }
       | .final notify =>
         let told := notify && !s.ctl.attention && s.ctl.attnEnable
         { t with
           issued := s.issued ++ [.write w],
           ctl := { s.ctl with finalised := min (2 ^ 64 - 1) (s.ctl.finalised + 1), attention := s.ctl.attention || notify },
           port := { t.port with writeQueue := rest ++ if told then [s.messageWrite] else [] },
           draws := if told then s.draws + 1 else s.draws }
       | .taken => { t with issued := s.issued ++ [.write w] }
       | .progress => { t with issued := s.issued ++ [.write w] }
       | .report => { t with issued := s.issued ++ [.write w] }
       | .unit => { t with issued := s.issued ++ [.write w] })) ∧
    (∀ k rest t, s.noFetchDue → s.port.writeQueue = [] → s.port.reissueLine = k :: rest → s.port.staging.get k = some t →
      t.partner = none → exec .issueOpportunity s = .next
        { s with port := { s.port with reissueLine := rest, staging := s.port.staging.set k { t with phase := .reading } },
                 issued := s.issued ++ [.read t.addr t.length] }) ∧
    (∀ k rest t j u, s.noFetchDue → s.port.writeQueue = [] → s.port.reissueLine = k :: rest → s.port.staging.get k = some t →
      t.partner = some j → j ≠ k → s.port.staging.get j = some u → t.seg ≤ u.seg → exec .issueOpportunity s = .next
        { s with
          port := { s.port with
            reissueLine := rest,
            staging := (s.port.staging.set k { t with phase := .reading }).set j { u with phase := .reading } },
          issued := s.issued ++ [.read t.addr (2 * t.length)] })

/-- R58, R141, R142, R143: the arbiter's choice. The context chosen is a candidate; one of the exposed class if that class has a candidate; and
in its class no candidate stands nearer to the class's pointer, counting upward and wrapping from 63 to 0. The entry it offers is an eligible
one, at the lowest segment that has one and of the lowest fragment there; a context offers nothing only if none is eligible. Eligible is what
R58 says, a LOGGED entry of a SOURCE at an OPEN position of a RUNNING context; a candidate, what R141 says: RUNNING, with an eligible entry, and
with fewer staging slots in use than the read limit; the exposed class is the contexts whose EXPOSED flag is set. -/
def Obligations.ArbiterChoice : Prop :=
  (∀ (c : Ctx) (p : Position) (f : Nat), c.eligible p f = true ↔
    c.state = .running ∧ p.state = .opened ∧ c.role f = .source ∧ ∃ en, p.row.get f = some en ∧ en.state = .logged) ∧
  (∀ (s : State) (i : Nat),
    (s.candidate i = true ↔ ∃ c, s.ctxs.get i = some c ∧ c.state = .running ∧
      (∃ p ∈ c.positions, ∃ f < 24, c.eligible p f = true) ∧
      s.port.staging.rows.countP (fun r => r.2.ctx == i) < s.port.readLimit) ∧
    (∀ c, s.ctxs.get i = some c → s.inExposedClass i = c.exposed)) ∧
  (∀ s : State,
    (∀ i, s.choose = some i → i < 64 ∧ s.candidate i = true ∧
      (s.inExposedClass i = false → ∀ j < 64, s.candidate j = true → s.inExposedClass j = false) ∧
      ∀ j < 64, s.candidate j = true → s.inExposedClass j = s.inExposedClass i →
        let pointer := if s.inExposedClass i then s.port.exposedPointer else s.port.otherPointer
        (i + 64 - pointer % 64) % 64 ≤ (j + 64 - pointer % 64) % 64) ∧
    (s.choose = none ↔ ∀ j < 64, s.candidate j = false)) ∧
  (∀ c : Ctx,
    (∀ seg f e, c.offered = some (seg, f, e) → ∃ p ∈ c.positions, ∃ en, p.seg = seg ∧ p.state = .opened ∧ c.state = .running ∧
      c.role f = .source ∧ f < 24 ∧ p.row.get f = some en ∧ en.state = .logged ∧ en.feed = e ∧
      (∀ g < f, c.eligible p g = false) ∧
      ∀ q ∈ c.positions, ∀ g < 24, c.eligible q g = true → seg ≤ q.seg) ∧
    (c.offered = none ↔ ∀ p ∈ c.positions, ∀ f < 24, c.eligible p f = false))

/-- R144, R145, R160, R162, R164: a grant, with nothing else to issue. If the level and the credit allow it, a context is chosen and a staging
slot is free, the offered segment's unit is read into the slot: the entry is INFLIGHT, the unit's bytes are charged, the class's pointer
moves past the context; if pair mode applies, the next segment's unit is read with it, charged at once. At level 0, or without credit, or
without a candidate or a slot, nothing is issued. The slot is the lowest-numbered free one (log entry 8, DESIGN CHOICE); what keeps a fetch from
being issued first is log entry 14 (DEDUCED). -/
def Obligations.GrantTaken : Prop :=
  ∀ s : State, s.port.outstanding = 0 → s.noFetchDue → s.port.writeQueue = [] → s.port.reissueLine = [] →
    (s.gov.level = 0 ∨ (s.gov.level < 15 ∧ s.gov.credit ≤ 0) ∨ s.choose = none ∨ s.port.staging.lowestFree 32 = none →
      exec .issueOpportunity s = .next s) ∧
    (∀ i c seg f e fe a, s.gov.level = 15 ∨ (1 ≤ s.gov.level ∧ 0 < s.gov.credit) → s.choose = some i → s.ctxs.get i = some c →
      c.offered = some (seg, f, e) → s.feeds.get e = some fe → s.port.staging.lowestFree 32 = some a →
      let unit := c.geo.segSize + 32
      let slot : Nat → Nat → Option Nat → Staging := fun n g partner =>
        { ctx := i, seg := n, frag := g, feed := e, addr := fe.buffer + (n - fe.first) * unit, length := unit,
          phase := .reading, reissues := s.port.retryCount, stale := false, partner := partner, data := [] }
      let p := if c.exposed then { s.port with exposedPointer := (i + 1) % 64 } else { s.port with otherPointer := (i + 1) % 64 }
      (s.port.pairMode = false ∨ s.port.readLimit < 2 ∨ s.port.readLimit ≤ s.slotsInUse i + 1 ∨ 32 < s.port.staging.size + 2 ∨
        (∀ g, (c.inflight seg f).offered ≠ some (seg + 1, g, e)) →
        exec .issueOpportunity s = .next
          { s with
            port := { p with staging := s.port.staging.set a (slot seg f none) },
            gov := { s.gov with credit := if s.gov.level = 15 then s.gov.credit else s.gov.credit - (unit : Nat) },
            ctxs := s.ctxs.set i (c.inflight seg f),
            issued := s.issued ++ [.read (fe.buffer + (seg - fe.first) * unit) unit] }) ∧
      (∀ g b, s.port.pairMode = true → 2 ≤ s.port.readLimit → s.slotsInUse i + 1 < s.port.readLimit →
        s.port.staging.size + 2 ≤ 32 → (c.inflight seg f).offered = some (seg + 1, g, e) →
        (s.port.staging.set a (slot seg f none)).lowestFree 32 = some b →
        exec .issueOpportunity s = .next
          { s with
            port := { p with staging := (s.port.staging.set a (slot seg f (some b))).set b (slot (seg + 1) g (some a)) },
            gov := { s.gov with credit := if s.gov.level = 15 then s.gov.credit else s.gov.credit - (2 * unit : Nat) },
            ctxs := s.ctxs.set i ((c.inflight seg f).inflight (seg + 1) g),
            issued := s.issued ++ [.read (fe.buffer + (seg - fe.first) * unit) (2 * unit)] })) ∧
    (∀ (c : Ctx) (p : Position) (seg f : Nat) (en : LogEntry), c.holding seg = some p → p.row.get f = some en →
      ∃ p', (c.inflight seg f).holding seg = some p' ∧ p'.state = p.state ∧ p'.row.get f = some { en with state := .inflight } ∧
        (∀ g, g ≠ f → p'.row.get g = p.row.get g) ∧ (c.inflight seg f).bones = c.bones)

/-- R134, R136: the claim line. A writer with a write ready, not on the line yet, joins its tail; if the line is empty it first places its writes
at the queue's tail, in its own order, as many as there is room for, and joins only if one is left. CLAIM_LINE_SERVE serves the line from its
head: the writer there places its next write at the tail of the queue, goes on while it has one and there is room, and leaves once it has none;
then the writer behind it, until the queue is full or the line is empty. A writer whose write goes behind one of the Walker's that is not placed
yet keeps its place and is passed over (log entry 33, DEDUCED). Nothing else changes but what placing a write brings. -/
def Obligations.ClaimLineServe : Prop :=
  (∀ (s : State) (w : Writer), s.port.writeQueue.length ≤ 64 →
    (w ∈ s.port.claimLine → s.offer w = s) ∧
    (w ∉ s.port.claimLine → s.nextWrite w = none → s.offer w = s) ∧
    (w ∉ s.port.claimLine → s.nextWrite w ≠ none →
      s.port.claimLine ≠ [] ∨ s.port.writeQueue.length = 64 ∨ s.mustWait w = true →
      s.offer w = { s with port := { s.port with claimLine := s.port.claimLine ++ [w] } }) ∧
    (∀ q, s.port.claimLine = [] → s.port.writeQueue.length < 64 → s.nextWrite w = some q → s.mustWait w = false →
      ∃ more, (s.offer w).port.writeQueue = s.port.writeQueue ++ q :: more ∧ (s.offer w).port.writeQueue.length ≤ 64 ∧
        (s.offer w).port.claimLine = (if ((s.offer w).nextWrite w).isSome then [w] else []) ∧
        ((s.offer w).nextWrite w ≠ none → (s.offer w).port.writeQueue.length = 64 ∨ (s.offer w).mustWait w = true))) ∧
  (∀ s : State,
    s.nextWrite .walker = s.walker.ready ∧
    s.nextWrite .registry = s.statusQueue.head?.map (fun x =>
      { writer := .registry, kind := .final x.notify, spans := dispositionSpans x.addr .done 0 x.result }) ∧
    (∀ i addr notify rest, s.readyOf i = .abortDone addr notify :: rest → s.nextWrite (.slot i) =
      some { writer := .slot i, kind := .final notify, spans := [outcomeBytes addr 2 0] }) ∧
    (∀ i addr o notify rest, s.readyOf i = .openDone addr o notify :: rest → s.nextWrite (.slot i) =
      some { writer := .slot i, kind := .final notify, spans := [outcomeBytes addr 2 o.code] }) ∧
    (∀ i c rest, s.readyOf i = .progress :: rest → s.ctxs.get i = some c → s.nextWrite (.slot i) =
      some { writer := .slot i, kind := .progress,
             spans := [{ addr := c.geo.openAddr.toNat + 72, bytes := progressBytes c }] }) ∧
    (s.placed .walker).walker.ready = none ∧ (s.placed .registry).statusQueue = s.statusQueue.tail ∧
    (∀ i w rest, s.readyOf i = w :: rest → w.notDone = true → (s.placed (.slot i)).readyOf i = rest) ∧
    (∀ w, s.mustWait w = true → w ≠ .walker ∧ w ≠ .emit ∧ w ≠ .control ∧ s.walker.ready ≠ none)) ∧
  (∀ s : State, s.port.queuesBounded →
    (s.port.writeQueue.length = 64 ∨ (∀ v ∈ s.port.claimLine, s.mustWait v = true) → exec .claimLineServe s = .next s) ∧
    (∀ before w rest, s.port.claimLine = before ++ w :: rest → (∀ v ∈ before, s.mustWait v = true) → s.mustWait w = false →
      s.port.writeQueue.length < 64 →
      (s.nextWrite w = none → exec .claimLineServe s = exec .claimLineServe
        { s with port := { s.port with claimLine := before ++ rest } }) ∧
      (∀ q, s.nextWrite w = some q →
        let t := (s.placed w).enqueue q
        t.port.writeQueue = s.port.writeQueue ++ [q] ∧ t.port.claimLine = s.port.claimLine ∧ t.steady = s.steady ∧
        s.ctxsSteady t ∧
        (t.nextWrite w ≠ none → exec .claimLineServe s = exec .claimLineServe t) ∧
        (t.nextWrite w = none → exec .claimLineServe s = exec .claimLineServe
          { t with port := { t.port with claimLine := before ++ rest } }))) ∧
    ∃ t, exec .claimLineServe s = .next t ∧ t.steady = s.steady ∧ s.ctxsSteady t ∧ s.queueExtends t ∧
      t.port.writeQueue.length ≤ 64 ∧ t.port.claimLine.Sublist s.port.claimLine ∧
      (t.port.writeQueue.length = 64 ∨ ∀ v ∈ t.port.claimLine, t.mustWait v = true))

/-- R57, R114, R147, R151: SOURCE_READ_COMPLETE. The bytes stand in the slot, which the Combine Unit takes at once if it is free, and which
otherwise is STAGED at the tail of its queue; of a pair, whichever slot the command names, the lower segment's unit goes first. A stale slot is
freed, and the entry it was to read is LOGGED again, or NONE and unused, or left INFLIGHT in DRAINING (`State.discarded`); so are both slots of a
stale pair (`State.pairDiscarded`). A slot that is not READING is left alone (log entry 1); bytes that are too few or too many are filled with 00
or cut, and either slot may name a pair (log entry 5). -/
def Obligations.SourceReadComplete : Prop :=
  ∀ (s : State) (k : Fin 32) (data : List Byte), s.atRest 0 = true →
    (∀ t, s.port.staging.get k = some t → t.phase = .reading → t.stale = false → t.partner = none →
      exec (.sourceReadComplete k data) s = .next
        (if s.combining = none then
          let u := { t with phase := .combining, data := exactBytes t.length data }
          { s with combining := some { slot := k, judged := true }, port := { s.port with staging := s.port.staging.set k u } }
        else
          let u := { t with phase := .staged, data := exactBytes t.length data }
          { s with combineQueue := s.combineQueue ++ [k.val], port := { s.port with staging := s.port.staging.set k u } })) ∧
    (∀ a b t u, a ≠ b → k.val = a ∨ k.val = b → s.port.staging.get a = some t → s.port.staging.get b = some u →
      t.partner = some b → u.partner = some a → t.seg < u.seg → t.phase = .reading → u.phase = .reading →
      t.stale = false → u.stale = false →
      let lower := { t with phase := if s.combining = none then .combining else .staged, data := exactBytes t.length data }
      let upper := { u with phase := .staged, data := exactBytes u.length (data.drop t.length) }
      exec (.sourceReadComplete k data) s = .next
        { s with
          combining := if s.combining = none then some { slot := a, judged := true } else s.combining,
          combineQueue := if s.combining = none then [b] else s.combineQueue ++ [a, b],
          port := { s.port with staging := (s.port.staging.set a lower).set b upper } }) ∧
    (∀ t c, s.port.staging.get k = some t → t.phase = .reading → t.stale = true → t.partner = none →
      s.ctxs.get t.ctx = some c →
      ∃ t', exec (.sourceReadComplete k data) s = .next t' ∧ t'.port.staging = s.port.staging.erase k ∧
        t'.combineQueue = s.combineQueue ∧ t'.combining = s.combining ∧ t'.store = s.store ∧
        s.ctxsAlike t' ∧ s.discarded t' t c) ∧
    (∀ a b t u c, k.val = a ∨ k.val = b → s.readPair a b t u → t.stale = true → s.ctxs.get t.ctx = some c →
      ∃ t' more, exec (.sourceReadComplete k data) s = .next t' ∧ t'.port.writeQueue = s.port.writeQueue ++ more ∧
        s.pairDiscarded t' a b t u c more) ∧
    ((∀ t, s.port.staging.get k = some t → t.phase ≠ .reading) → exec (.sourceReadComplete k data) s = .next s)

/-- R57, R103, R148, R149: SOURCE_READ_ERROR. With a reissue left the slot is RETRYING at the tail of the reissue line; with none it is freed,
the context counts a read failure, and the entry it read for is READ_FAILED, its feed counting one segment so; a stale slot is freed, no failure
is counted, and its entry goes where a discard takes it (`State.discarded`). Of a pair, both slots are RETRYING and stand in the line as one
member, named by the lower segment's slot; or both have failed, two failures being counted; or, stale, both are freed with a discard
(`State.pairDiscarded`). A slot that is not READING is left alone (log entry 1); either slot may name a pair (log entry 5). -/
def Obligations.SourceReadError : Prop :=
  ∀ (s : State) (k : Fin 32), s.atRest 0 = true →
    (∀ t, s.port.staging.get k = some t → t.phase = .reading → t.partner = none → t.stale = false → 0 < t.reissues →
      exec (.sourceReadError k) s = .next
        { s with port := { s.port with
            staging := s.port.staging.set k { t with phase := .retrying, reissues := t.reissues - 1 },
            reissueLine := s.port.reissueLine ++ [k.val] } }) ∧
    (∀ t c p en, s.port.staging.get k = some t → t.phase = .reading → t.partner = none → t.stale = false → t.reissues = 0 →
      s.ctxs.get t.ctx = some c → c.holding t.seg = some p → p.row.get t.frag = some en → ∃ t' c' p', exec (.sourceReadError k) s = .next t' ∧
        t'.port.staging = s.port.staging.erase k ∧ t'.ctxs.get t.ctx = some c' ∧
        c'.bones = { c.bones with counters :=
          { c.counters with readFailures := min 65535 (c.counters.readFailures + 1) } } ∧
        c'.holding t.seg = some p' ∧ p'.row.get t.frag = some { en with state := .readFailed } ∧
        t'.feeds = (s.feedOutcome en.feed .readFailed).feeds ∧ t'.store = s.store) ∧
    (∀ t c, s.port.staging.get k = some t → t.phase = .reading → t.partner = none → t.stale = true →
      s.ctxs.get t.ctx = some c →
      ∃ t', exec (.sourceReadError k) s = .next t' ∧ t'.port.staging = s.port.staging.erase k ∧
        t'.port.reissueLine = s.port.reissueLine ∧ s.ctxsAlike t' ∧ s.discarded t' t c) ∧
    (∀ a b t u, k.val = a ∨ k.val = b → s.readPair a b t u →
      (t.stale = false → 0 < t.reissues → exec (.sourceReadError k) s = .next
        { s with port := { s.port with
            staging := (s.port.staging.set a { t with phase := .retrying, reissues := t.reissues - 1 }).set b
              { u with phase := .retrying, reissues := u.reissues - 1 },
            reissueLine := s.port.reissueLine ++ [a] } }) ∧
      (∀ c p q en fn, t.stale = false → t.reissues = 0 → s.ctxs.get t.ctx = some c →
        c.holding t.seg = some p → p.row.get t.frag = some en → c.holding u.seg = some q → q.row.get u.frag = some fn →
        ∃ t' c' p' q', exec (.sourceReadError k) s = .next t' ∧
          t'.port.staging = (s.port.staging.erase a).erase b ∧ t'.ctxs.get t.ctx = some c' ∧
          c'.bones = { c.bones with counters :=
            { c.counters with readFailures := min 65535 (c.counters.readFailures + 2) } } ∧
          c'.holding t.seg = some p' ∧ p'.row.get t.frag = some { en with state := .readFailed } ∧
          c'.holding u.seg = some q' ∧ q'.row.get u.frag = some { fn with state := .readFailed } ∧
          t'.feeds = ((s.feedOutcome en.feed .readFailed).feedOutcome fn.feed .readFailed).feeds ∧ t'.store = s.store) ∧
      (∀ c, t.stale = true → s.ctxs.get t.ctx = some c →
        ∃ t' more, exec (.sourceReadError k) s = .next t' ∧ t'.port.writeQueue = s.port.writeQueue ++ more ∧
          s.pairDiscarded t' a b t u c more)) ∧
    ((∀ t, s.port.staging.get k = some t → t.phase ≠ .reading) → exec (.sourceReadError k) s = .next s)

/-! ### The engine's own completions -/

/-- R57, R59, R61 to R63, R65, R98 to R102, R106, R107, R113, R114, R152: COMBINE_COMPLETE. A slot taken stale is freed, nothing is combined, and
its entry goes where a discard takes it. A good segment is folded into the cells of its position and stands CONTRIBUTED and verified; once every
source has contributed the position is FULL, each target bound to the Sink entry in use that covers the segment, if there is one, and with every
target bound it is emitted at once if the Emit Unit is idle, or joins the tail of the emit queue. A bad one is REFUSED and counted by its
refusal, and charged to its fragment, which fails at the error limit, every staging slot of the context then stale, the fragment's entries
released (`State.fragmentReleased`), and, a SPARE in its place, OPEN positions reset (`State.sourcesChanged`); a bad one that was good before
ends the context BUFFER_REUSED. Second part: a DROP or an ABORT held behind the combine (log entry 6, DEDUCED) is handled once this has been
reported, its write first. The DROP fails its fragment as `DropTaken` says, what the combine contributed being reset with the rest unless it made
its position FULL; one for the fragment that has just failed is DONE, and behind an end it is refused ENDING. The ABORT is TAKEN and joins its
context's list, the context ending ABORTED unless the segment has ended it. That this goes before the Emit Unit takes the position made FULL is
log entry 38 (DESIGN CHOICE). -/
def Obligations.CombineComplete : Prop :=
  (∀ (s : State) (w : Combining) (t : Staging) (c : Ctx) (p : Position) (en : LogEntry),
    s.combining = some w → s.held = [] → s.calm = true → s.walker.ready = none →
    s.port.staging.get w.slot = some t → s.ctxs.get t.ctx = some c → c.holding t.seg = some p → p.row.get t.frag = some en →
    let counted := fun (r : Refused) => c.counters.afterJudging (some r)
    let marked := fun (t' : State) => s.port.staging.wf = true → ∀ k u, k ≠ w.slot → s.port.staging.get k = some u → u.ctx = t.ctx →
      if u.phase = .retrying then t'.port.staging.get k = none ∧ k ∉ t'.port.reissueLine
      else ∃ u', t'.port.staging.get k = some u' ∧ u'.stale = true
    (w.judged = false → ∃ t', exec .combineComplete s = .next t' ∧ t'.port.staging.get w.slot = none ∧ t'.store = s.store ∧
      s.ctxsAlike t' ∧ s.discarded t' t c) ∧
    (w.judged = true → trailerRefusal c.geo t.seg t.frag t.data = none → ∃ t' c' p', exec .combineComplete s = .next t' ∧
      t'.port.staging.get w.slot = none ∧
      t'.store = foldTargets c t.seg (c.sources.idxOf t.frag) (c.geo.dataLength t.seg) t.data (List.range c.targetCount) s.store ∧
      t'.ctxs.get t.ctx = some c' ∧ c'.bones = c.bones ∧ c'.holding t.seg = some p' ∧
      p'.row.get t.frag = some { state := .contributed, feed := en.feed, verified := true } ∧
      (∀ g, g ≠ t.frag → p'.row.get g = p.row.get g) ∧
      (c.allContributed p' = true ↔ ∀ f ∈ c.sources, ∃ e, p'.row.get f = some e ∧ e.state = .contributed) ∧
      (c.allContributed p' = false → p'.state = p.state ∧ t'.emitQueue = s.emitQueue ∧ t'.emit = s.emit) ∧
      (c.allContributed p' = true → s.sinks.wf = true → (t.ctx, t.seg) ∉ s.emitQueue →
        let covers := fun (k : SinkEntry) (g : Nat) => k.ctx = t.ctx ∧ k.target = g ∧ k.first ≤ t.seg ∧ t.seg < k.first + k.count
        (∀ g ∈ c.targets, ∀ e, p'.binds.get g = some e → ∃ k, s.sinks.get e = some k ∧ covers k g) ∧
        (∀ g ∈ c.targets, p'.binds.get g = none → ∀ e k, s.sinks.get e = some k → ¬ covers k g) ∧
        ((∃ g ∈ c.targets, p'.binds.get g = none) →
          p'.state = .full ∧ t'.emitQueue = s.emitQueue ∧ t'.emit = s.emit) ∧
        ((∀ g ∈ c.targets, (p'.binds.get g).isSome = true) →
          if s.emit = none then
            p'.state = .emitting ∧ t'.emitQueue = [] ∧ ∃ left, t'.emit = some { ctx := t.ctx, seg := t.seg, targetsLeft := left }
          else p'.state = .full ∧ t'.emitQueue = s.emitQueue ++ [(t.ctx, t.seg)] ∧ t'.emit = s.emit)) ∧
      t'.feeds = s.feeds ∧ t'.sinks = s.sinks) ∧
    (∀ r, w.judged = true → trailerRefusal c.geo t.seg t.frag t.data = some r → en.verified = false →
      c.errors.count t.frag + 1 ≠ c.geo.errorLimit → ∃ t' c' p', exec .combineComplete s = .next t' ∧
        t'.port.staging.get w.slot = none ∧ t'.store = s.store ∧ t'.ctxs.get t.ctx = some c' ∧
        c'.bones = { c.bones with counters := counted r,
                                  errors := c.errors.setCount t.frag (c.errors.count t.frag + 1),
                                  cleanRuns := c.cleanRuns.setCount t.frag 0 } ∧
        c'.holding t.seg = some p' ∧ p'.row.get t.frag = some { en with state := .refused } ∧
        t'.feeds = (s.feedOutcome en.feed .refused).feeds) ∧
    (∀ r, w.judged = true → trailerRefusal c.geo t.seg t.frag t.data = some r → en.verified = false →
      c.errors.count t.frag + 1 = c.geo.errorLimit → c.role t.frag = .source → c.state = .running →
      let c1 := c.putPosition t.seg (p.putEntry t.frag (some { en with state := .refused }))
      let feeds1 := (s.feedOutcome en.feed .refused).feeds
      ∃ t' c' more, exec .combineComplete s = .next t' ∧ t'.port.writeQueue = s.port.writeQueue ++ more ∧
        t'.port.staging.get w.slot = none ∧ t'.ctxs.get t.ctx = some c' ∧ c'.role t.frag = .failed ∧ marked t' ∧
        (∀ g, (c.fragmentsIn .spare).head? = some g → c'.role g = .source ∧ c'.state = .solving ∧ c'.timerRuns = false ∧
          c'.counters = { counted r with substitutions := min 65535 (c.counters.substitutions + 1) } ∧
          (s.port.staging.wf = true → s.retriesForSources t.ctx c → c.seated →
            t'.fragmentReleased t.ctx t.frag c1 feeds1 (fun seg => s.retryWaits t.ctx seg t.frag) more) ∧
          (c.seated → t'.sourcesChanged c1 c' s.store (some t.frag))) ∧
        (c.fragmentsIn .spare = [] → c'.state = .draining ∧ c'.outcome = some .short ∧ c'.counters = counted r ∧
          (c.seated → t'.fragmentReleased t.ctx t.frag c1 feeds1 (fun _ => false) more))) ∧
    (∀ r, w.judged = true → trailerRefusal c.geo t.seg t.frag t.data = some r → en.verified = true → c.state = .running →
      ∃ t' c' p', exec .combineComplete s = .next t' ∧ t'.port.staging.get w.slot = none ∧ t'.ctxs.get t.ctx = some c' ∧
        c'.state = .draining ∧ c'.outcome = some .bufferReused ∧ c'.errors = c.errors ∧ c'.cleanRuns = c.cleanRuns ∧
        c'.roles = c.roles ∧ c'.counters = counted r ∧ marked t' ∧
        c'.holding t.seg = some p' ∧ p'.row.get t.frag = some { en with state := .refused } ∧
        t'.feeds = (s.feedOutcome en.feed .refused).feeds)) ∧
  (∀ (s : State) (w : Combining) (u : Staging) (c : Ctx) (p : Position) (en : LogEntry),
    s.combining = some w → w.judged = true → s.held = [.dispatch] → s.atRest 1 = true →
    s.port.staging.get w.slot = some u → s.ctxs.get u.ctx = some c → c.state = .running → c.holding u.seg = some p →
    p.row.get u.frag = some en →
    let b := s.walker.buffer
    let f := recFragment b
    recContext b = u.ctx → s.names b c →
    let refusal := trailerRefusal c.geo u.seg u.frag u.data
    let counted := c.counters.afterJudging refusal
    let c1 := c.putPosition u.seg (c.judgedAt p u.frag en refusal)
    let feeds1 := if refusal = none then s.feeds else (s.feedOutcome en.feed .refused).feeds
    let store1 := if refusal = none then
        foldTargets c u.seg (c.sources.idxOf u.frag) (c.geo.dataLength u.seg) u.data (List.range c.targetCount) s.store
      else s.store
    let atLimit := refusal ≠ none ∧ en.verified = false ∧ c.errors.count u.frag + 1 = c.geo.errorLimit
    let reused := refusal ≠ none ∧ en.verified = true
    let ends := fun (t : State) (c' : Ctx) (more : List QWrite) (kind : WriteKind) (code reason : Nat) =>
      exec .combineComplete s = .next t ∧ t.held = [] ∧ t.port.staging.get w.slot = none ∧ t.ctxs.get u.ctx = some c' ∧
      t.walker = (s.concluded kind [outcomeBytes s.walker.next code reason]).walker ∧
      t.port.writeQueue = s.port.writeQueue ++
        { writer := .walker, kind := kind, spans := [outcomeBytes s.walker.next code reason] } :: more
    let final := WriteKind.final (recNotify b)
    (postedRecord 4 b = true → f < 24 →
      (¬ atLimit → ¬ reused → c.role f = .source ∨ c.role f = .spare → ∃ t c' more, ends t c' more final 2 0 ∧
        c'.role f = .failed ∧
        (c.role f = .spare → c'.state = .running ∧ c'.counters = counted ∧ (∀ g, g ≠ f → c'.role g = c.role g) ∧
          t.store = store1) ∧
        (∀ g, c.role f = .source → (c.fragmentsIn .spare).head? = some g → c'.state = .solving ∧ c'.timerRuns = false ∧
          c'.role g = .source ∧ (∀ h, h ≠ f → h ≠ g → c'.role h = c.role h) ∧
          c'.counters = { counted with substitutions := min 65535 (counted.substitutions + 1) } ∧
          (c.seated → t.sourcesChanged c1 c' store1 (some f)) ∧
          (s.port.staging.wf = true → s.retriesForSources u.ctx c → c.seated →
            refusal ≠ none ∨ c.allContributed (c.judgedAt p u.frag en refusal) = false →
            t.fragmentReleased u.ctx f c1 feeds1 (fun seg => s.retryWaits u.ctx seg f) more)) ∧
        (c.role f = .source → c.fragmentsIn .spare = [] → c'.state = .draining ∧ c'.outcome = some .short ∧
          (∀ h, h ≠ f → c'.role h = c.role h) ∧ c'.counters = counted ∧ t.store = store1)) ∧
      (atLimit → f = u.frag → c.role f = .source → (∃ g, (c.fragmentsIn .spare).head? = some g) → ∃ t c' more,
        ends t c' more final 2 0 ∧ c'.state = .solving ∧ c'.role f = .failed ∧
        c'.counters = { counted with substitutions := min 65535 (counted.substitutions + 1) }) ∧
      (atLimit → c.role u.frag = .source → c.fragmentsIn .spare = [] → ∃ t c' more,
        ends t c' more final 3 Reason.ending.code ∧ c'.state = .draining ∧ c'.outcome = some .short) ∧
      (reused → ∃ t c' more, ends t c' more final 3 Reason.ending.code ∧ c'.state = .draining ∧
        c'.outcome = some .bufferReused ∧ c'.roles = c.roles)) ∧
    (postedRecord 5 b = true → c.aborts.length < 4 → ∃ t c' more, ends t c' more .taken 1 0 ∧ c'.state = .draining ∧
      c'.outcome = some (if reused then .bufferReused
        else if atLimit ∧ c.role u.frag = .source ∧ c.fragmentsIn .spare = [] then .short else .aborted) ∧
      c'.timerRuns = false ∧ c'.aborts = c.aborts ++ [(s.walker.next, recNotify b)] ∧
      (¬ atLimit → c'.roles = c.roles ∧ c'.counters = counted ∧ t.store = store1)))

/-- R61: a source-set change at the window: at every OPEN position CONTRIBUTED goes back to LOGGED, verified kept, and its cells are zeroed;
no other entry, position or cell changes. Every position stands in its segment's slot (R49), an invariant that `StoreQueuesAndSettings` states. -/
def Obligations.ContributionsReset : Prop :=
  ∀ (s : State) (i : Nat) (c : Ctx), s.ctxs.get i = some c → c.seated →
    ∃ c', (s.resetContributions i).ctxs.get i = some c' ∧ c'.bones = c.bones ∧
      (∀ n p, c.slots.get n = some p → ∃ p', c'.slots.get n = some p' ∧ p'.state = p.state ∧ p'.seg = p.seg ∧
        p'.binds = p.binds ∧ ∀ f en, p.row.get f = some en → ∃ en', p'.row.get f = some en' ∧ en'.feed = en.feed ∧
          en'.verified = en.verified ∧
          en'.state = if p.state = .opened ∧ en.state = .contributed then .logged else en.state) ∧
      (∀ seg p, c.holding seg = some p → p.state = .opened → ∀ t < c.targetCount,
        cellBytesOf (s.resetContributions i).store (c.cellOf seg t) = List.replicate 4096 0) ∧
      (∀ n, (∀ seg p, c.holding seg = some p → p.state = .opened → n ∉ c.cellsOf seg) →
        cellBytesOf (s.resetContributions i).store n = cellBytesOf s.store n) ∧
      (s.resetContributions i).feeds = s.feeds

/-- R34, R54, R66 to R71, R87, R104, R116: EMIT_COMPLETE, when the emit's last unit has been placed. The position is DONE. With the base position
not DONE, or in DRAINING, nothing retires, and the Emit Unit takes the head of the emit queue and places its units, target by target, as many as
there is room for. At the base of a SOLVING or RUNNING context the DONE positions from base on retire in one burst: base and retired count go up
by their number, STALLED and the expiries go, a RUNNING context's timer restarts, each segment that comes into the window is opened, and the last
one's retire ends the context COMPLETE. A position opened is scanned from the feed list, oldest first (`Ctx.scanned`): the first entry that
covers the segment is LOGGED for its fragment, a later one's segment counts duplicate, a FAILED fragment's unused. At a retire, each CONTRIBUTED
entry counts used, each LOGGED or INFLIGHT one unused, each bound sink one written, and each SOURCE that contributed one clean run. With no such
emit the command is not due and changes nothing (log entry 1). -/
def Obligations.EmitComplete : Prop :=
  (∀ s : State, (∀ e, s.emit = some e → e.targetsLeft ≠ []) → exec .emitComplete s = .next s) ∧
  (∀ (s : State) (i seg : Nat) (c : Ctx) (p : Position), s.emit = some { ctx := i, seg := seg, targetsLeft := [] } →
    s.calm = true → s.walker.ready = none → s.port.writeQueue.length ≤ 64 → s.ctxs.get i = some c → c.windowed →
    c.holding seg = some p → p.state = .emitting →
    (∀ g, (i, g) ∈ s.emitQueue → ∃ q, c.holding g = some q ∧ q.state = .full) →
    ((seg ≠ c.base ∧ (∀ q, c.holding c.base = some q → q.state ≠ .done)) ∨ c.state = .draining →
      ∃ t c', exec .emitComplete s = .next t ∧ t.ctxs.get i = some c' ∧ c'.bones = c.bones ∧
        c'.holding seg = some { p with state := .done } ∧
        (∀ g, g ≠ seg → s.emitQueue.head? ≠ some (i, g) → c'.holding g = c.holding g) ∧
        t.feeds = s.feeds ∧ t.sinks = s.sinks ∧ t.store = s.store ∧
        (s.emitQueue = [] → t.emit = none ∧ t.emitQueue = [] ∧ t.port.writeQueue = s.port.writeQueue) ∧
        (∀ j g rest d x (k : Nat → SinkEntry), s.emitQueue = (j, g) :: rest → s.ctxs.get j = some d → d.holding g = some x →
          (∀ n ∈ d.targets, (x.binds.get n).bind s.sinks.get = some (k n)) →
          let room := 64 - s.port.writeQueue.length
          (∃ d', t.ctxs.get j = some d' ∧ d'.holding g = some { x with state := .emitting }) ∧ t.emitQueue = rest ∧
          t.emit = some { ctx := j, seg := g, targetsLeft := d.targets.drop room } ∧
          t.port.writeQueue = s.port.writeQueue ++ (d.targets.take room).map (fun n =>
            { writer := .emit, kind := .unit,
              spans := [{ addr := (k n).buffer + (g - (k n).first) * (d.geo.segSize + 32),
                          bytes := rebuiltUnit d.geo g n (cellBytesOf s.store (d.cellOf g (d.targets.idxOf n))) }] }) ∧
          t.port.claimLine = (if d.targets.length ≤ room then [] else [.emit]))) ∧
    (∀ n, seg = c.base → c.state = .solving ∨ c.state = .running → 1 ≤ n → n ≤ c.geo.width → c.base + n ≤ c.geo.segCount →
      (∀ j, 1 ≤ j → j < n → ∃ q, c.holding (c.base + j) = some q ∧ q.state = .done) →
      (∀ q, c.holding (c.base + n) = some q → q.state ≠ .done) →
      ∃ t c', exec .emitComplete s = .next t ∧ t.ctxs.get i = some c' ∧ c'.geo = c.geo ∧ c'.roles = c.roles ∧
        c'.cells = c.cells ∧ c'.base = c.base + n ∧ c'.retired = c.retired + n ∧ c'.stalled = false ∧ c'.expiries = 0 ∧
        (∀ j < n, c'.holding (c.base + j) = none) ∧
        (∀ g, c.base + n ≤ g → g < c.base + c.geo.width → s.emitQueue.head? ≠ some (i, g) → c'.holding g = c.holding g) ∧
        (∀ j < n, c.base + c.geo.width + j < c.geo.segCount →
          ∃ q, c'.holding (c.base + c.geo.width + j) = some q ∧ q.state = .opened) ∧
        (c.base + n < c.geo.segCount → c'.state = c.state ∧ c'.outcome = c.outcome ∧
          (c.state = .running → c'.elapsed = 0 ∧ c'.timerRuns = (c.geo.stallLimit != 0))) ∧
        (c.base + n = c.geo.segCount → c'.state = .draining ∧ c'.outcome = some .complete ∧ c'.timerRuns = false) ∧
        (n = 1 →
          t.sinks = (s.accountPosition p).sinks ∧
          (∀ e f, s.feeds.get e = some f →
            ¬(f.first ≤ c.base + c.geo.width ∧ c.base + c.geo.width < f.first + f.count) →
            t.feeds.get e = (s.accountPosition p).feeds.get e) ∧
          (∀ d q f, (s.accountPosition p).ctxs.get i = some d → c'.holding (c.base + c.geo.width) = some q →
            q.row.get f = d.scanned (s.accountPosition p).feeds (c.base + c.geo.width) f) ∧
          ∀ f < 24,
            let named := c.role f = .source ∧ ∃ en, p.row.get f = some en ∧ en.state = .contributed
            let run := c.cleanRuns.count f + 1
            (named → c'.cleanRuns.count f = (if run = 16 then 0 else run) ∧
              c'.errors.count f = (if run = 16 then 0 else c.errors.count f)) ∧
            (¬named → c'.cleanRuns.count f = c.cleanRuns.count f ∧ c'.errors.count f = c.errors.count f)))) ∧
  (∀ (s : State) (i seg : Nat) (c : Ctx), s.ctxs.get i = some c → c.state ≠ .pending → c.base ≤ seg →
    seg < c.base + c.geo.width → c.feedList.Nodup →
    let t := s.openPosition i seg
    let again := fun e g => (g : FeedEntry).covers g.frag seg = true ∧
      c.scanned s.feeds seg g.frag ≠ some { state := .logged, feed := e, verified := false }
    ∃ c' q, t.ctxs.get i = some c' ∧ c'.holding seg = some q ∧ q.state = .opened ∧ q.binds = Table.empty ∧
      (∀ f, q.row.get f = c.scanned s.feeds seg f) ∧ (∀ n ∈ c.cellsOf seg, cellBytesOf t.store n = List.replicate 4096 0) ∧
      (∀ e g, s.feeds.get e = some g →
        (e ∈ c.feedList → again e g → t.feeds.get e =
          (s.feedOutcome e (if c.role g.frag = .failed then .unused else .duplicate)).feeds.get e) ∧
        (e ∉ c.feedList ∨ ¬ again e g → t.feeds.get e = some g))) ∧
  (∀ (s : State) (p : Position),
    let t := s.accountPosition p
    (∀ e f, s.feeds.get e = some f → 1 ≤ f.pending →
      let used := p.row.rows.countP (fun r => r.2.feed == e && r.2.state == .contributed)
      let unused := p.row.rows.countP (fun r => r.2.feed == e && (r.2.state == .logged || r.2.state == .inflight))
      let counts := { f.counts with used := f.counts.used + used, unused := f.counts.unused + unused }
      (used + unused < f.pending →
        t.feeds.get e = some { f with counts := counts, pending := f.pending - (used + unused) }) ∧
      (used + unused = f.pending → t.feeds.get e = none ∧
        { addr := f.addr, notify := f.notify, ctx := f.ctx, result := feedResult counts } ∈ t.statusQueue)) ∧
    (∀ e k, s.sinks.get e = some k → 1 ≤ k.pending →
      let written := p.binds.rows.countP (fun r => r.2 == e)
      (written < k.pending →
        t.sinks.get e = some { k with written := k.written + written, pending := k.pending - written }) ∧
      (written = k.pending → t.sinks.get e = none ∧
        { addr := k.addr, notify := k.notify, ctx := k.ctx, result := sinkResult (k.written + written) k.unwritten } ∈ t.statusQueue)))

/-- R28, R116, R125, R127: SOLVE_COMPLETE. The working table is installed, the context is RUNNING with its stall timer started afresh, its
progress is written, and the Solver takes the head of its queue. That the next solve's working table stands whole at its start is log entry 25
(DEDUCED). -/
def Obligations.SolveComplete : Prop :=
  ∀ (s : State) (j : Solve) (c : Ctx), s.solving = some j → s.atRest 1 = true → s.ctxs.get j.ctx = some c → c.state = .solving →
    ∃ t c', exec .solveComplete s = .next t ∧ t.ctxs.get j.ctx = some c' ∧
      c'.steady = { c.steady with state := .running, table := some j.working, elapsed := 0,
                                  timerRuns := c.geo.stallLimit != 0 } ∧
      c'.lastProgress = some (c.retired, c.counters) ∧
      t.port.writeQueue = s.port.writeQueue ++
        [{ writer := .slot j.ctx, kind := .progress,
           spans := [{ addr := c.geo.openAddr.toNat + 72, bytes := progressBytes c' }] }] ∧
      (∀ i, i ≠ j.ctx → t.ctxs.get i = s.ctxs.get i) ∧
      (s.solveQueue = [] → t.solving = none) ∧
      (∀ i rest d, s.solveQueue = i :: rest → i ≠ j.ctx → s.ctxs.get i = some d → t.solveQueue = rest ∧
        t.solving = some { ctx := i, k := d.geo.k, sources := d.sources, targets := d.targets,
                           working := solveTable d.geo.k d.sources d.targets }) ∧
      t.feeds = s.feeds ∧ t.sinks = s.sinks ∧ t.store = s.store ∧ t.freeCells = s.freeCells

/-- R42, R43, R87, R89 to R92: DRAINED. A DRAINING context with no staging slot and no emit of its own is finalised: its DONE positions are
counted as if they retired, each CONTRIBUTED entry used, each LOGGED one unused, the segment written on each bound sink; then every segment a
Feed entry still owes counts unused, and every one a Sink entry owes unwritten; the entries are free, and their statuses, in feed list order and
then in sink list order, are placed as far as there is room, and wait behind that. That an entry which the DONE positions leave with nothing owed
waits for its turn in these lists too is log entry 35 (DEDUCED). A context that is not drained is left alone (log entry 1). -/
def Obligations.Drained : Prop :=
  let done := fun (c : Ctx) => c.positions.filter (fun p => p.state == .done)
  let feedStatus := fun (c : Ctx) (e : Nat) (f : FeedEntry) =>
    let used := ((done c).flatMap (·.row.rows)).countP (fun r => r.2.feed == e && r.2.state == .contributed)
    let unused := ((done c).flatMap (·.row.rows)).countP (fun r => r.2.feed == e && r.2.state == .logged)
    ({ addr := f.addr, notify := f.notify, ctx := f.ctx, result := feedResult { f.counts with
        used := f.counts.used + used,
        unused := f.counts.unused + unused + (f.pending - (used + unused)) } } : Status)
  let sinkStatus := fun (c : Ctx) (e : Nat) (k : SinkEntry) =>
    let written := ((done c).flatMap (·.binds.rows)).countP (fun r => r.2 == e)
    ({ addr := k.addr, notify := k.notify, ctx := k.ctx,
       result := sinkResult (k.written + written) (k.unwritten + (k.pending - written)) } : Status)
  (∀ (s : State) (i : Fin 64) (c : Ctx), s.ctxs.get i = some c →
    (c.state = .draining → c.teardown = .draining → s.slotsInUse i = 0 → s.emitting i = false → s.calm = true →
      s.walker.ready = none → ∃ t c', exec (.drained i) s = .next t ∧ t.ctxs.get i = some c' ∧
        c'.bones = { c.bones with teardown := .statuses } ∧ (∀ e ∈ c.feedList, t.feeds.get e = none) ∧
        (∀ e ∈ c.sinkList, t.sinks.get e = none) ∧ t.freeCells = s.freeCells ∧ t.store = s.store ∧
        (c.feedList.Nodup → c.sinkList.Nodup →
          let statuses := c.feedList.filterMap (fun e => (s.feeds.get e).map (feedStatus c e)) ++
            c.sinkList.filterMap (fun e => (s.sinks.get e).map (sinkStatus c e))
          let room := 64 - s.port.writeQueue.length
          t.statusQueue = statuses.drop room ∧
          t.port.writeQueue = s.port.writeQueue ++ (statuses.take room).map (fun x =>
            { writer := .registry, kind := .final x.notify,
              spans := [outcomeBytes x.addr 2 0, { addr := x.addr.toNat + 48, bytes := x.result }] }))) ∧
    (c.state ≠ .draining ∨ c.teardown ≠ .draining ∨ s.slotsInUse i ≠ 0 ∨ s.emitting i = true →
      exec (.drained i) s = .next s)) ∧
  (∀ (s : State) (c : Ctx) (es : List Nat), es.Nodup →
    (State.teardownFeeds c es s).statusQueue = s.statusQueue ++ es.filterMap (fun e => (s.feeds.get e).map (feedStatus c e)) ∧
    ∀ e, (State.teardownFeeds c es s).feeds.get e = if e ∈ es then none else s.feeds.get e) ∧
  (∀ (s : State) (c : Ctx) (es : List Nat), es.Nodup →
    (State.teardownSinks c es s).statusQueue = s.statusQueue ++ es.filterMap (fun e => (s.sinks.get e).map (sinkStatus c e)) ∧
    ∀ e, (State.teardownSinks c es s).sinks.get e = if e ∈ es then none else s.sinks.get e)

/-- R32, R43, R44, R54: TEARDOWN_RESUME. The cells return to the pool and the cell wait queue is served; the final progress and the OPEN's DONE
with the outcome are written, the slot is FREE as that DONE is placed (log entry 17, DEDUCED), and each ABORT in the context's list gets its
DONE, in order. The progress writes of the contexts that were served stand ahead of these (log entry 22, DEDUCED). Serving, from the head: a
context that fits takes its cells, the lowest-numbered free ones (log entry 8, DESIGN CHOICE), and enters SOLVING, each position of its window
opened and scanned from its feed list (`Ctx.scanned`), and the next one is looked at; one that does not fit stops it. A TEARDOWN_RESUME that is
not due changes nothing (log entry 1). -/
def Obligations.TeardownResume : Prop :=
  (∀ (s : State) (i : Fin 64) (c : Ctx), s.ctxs.get i = some c → c.state = .draining →
    let last := [{ writer := .slot i, kind := .progress,
                   spans := [{ addr := c.geo.openAddr.toNat + 72, bytes := progressBytes c }] }]
    let final := fun (o : EndOutcome) =>
      ({ writer := .slot i, kind := .final c.geo.notify, spans := [outcomeBytes c.geo.openAddr 2 o.code] } : QWrite) ::
      c.aborts.map (fun a => { writer := .slot i, kind := .final a.2, spans := [outcomeBytes a.1 2 0] })
    (c.teardown ≠ .statuses → exec (.teardownResume i) s = .next s) ∧
    (∀ o, c.teardown = .statuses → c.outcome = some o → s.atRest (2 + c.aborts.length) = true → s.cellWait = [] →
      exec (.teardownResume i) s = .next
        { s with
          ctxs := s.ctxs.erase i
          freeCells := s.freeCells + c.cells.length
          port := { s.port with writeQueue := s.port.writeQueue ++ last ++ final o } }) ∧
    (∀ o, c.teardown = .statuses → c.outcome = some o → s.calm = true → s.walker.ready = none → i.val ∉ s.cellWait →
      let u := State.serveCellWait
        { s with ctxs := s.ctxs.set i { c with cells := [], teardown := .closing }, freeCells := s.freeCells + c.cells.length }
      ∃ t, exec (.teardownResume i) s = .next t ∧ (∀ j, j ≠ i.val → (t.ctxs.get j).map Ctx.steady = (u.ctxs.get j).map Ctx.steady) ∧
        t.freeCells = u.freeCells ∧ t.cellWait = u.cellWait ∧ t.store = u.store ∧ s.queueExtends t ∧
        (t.ctxs.get i = none ∨ ∃ c', t.ctxs.get i = some c' ∧ c'.teardown = .closing ∧ c'.cells = []) ∧
        (s.atRest (2 + c.aborts.length + s.cellWait.length) = true →
          (∀ j ∈ s.cellWait, ∀ d, s.ctxs.get j = some d → d.feedList = []) →
          t.ctxs.get i = none ∧ ∃ served, served.length ≤ s.cellWait.length ∧ (∀ q ∈ served, q.kind = .progress) ∧
            t.port.writeQueue = s.port.writeQueue ++ served ++ last ++ final o))) ∧
  (∀ (s : State) (i : Nat) (rest : List Nat) (c : Ctx), s.cellWait = i :: rest → s.ctxs.get i = some c →
    (s.freeCells < c.cellNeed → s.serveCellWait = s) ∧
    (c.cellNeed ≤ s.freeCells →
      let t := State.enterSolving { s with cellWait := rest } i
      s.serveCellWait = t.serveCellWait ∧ t.cellWait = rest ∧ t.freeCells = s.freeCells - c.cellNeed ∧
      t.solveQueue = s.solveQueue ++ [i] ∧
      ∃ c', t.ctxs.get i = some c' ∧ c'.state = .solving ∧ c'.cells = s.freeCellList.take c.cellNeed ∧
        c'.geo = c.geo ∧ c'.roles = c.roles ∧
        (c.base = 0 → ∀ seg, seg < min c.geo.width c.geo.segCount → ∃ q, c'.holding seg = some q ∧ q.state = .opened ∧
          q.binds = Table.empty ∧
          (c.feedList.Nodup → (∀ e ∈ c.feedList, ∀ g, s.feeds.get e = some g → g.pending = g.count) →
            ∀ f, q.row.get f = c.scanned s.feeds seg f))))

/-- R61, R114, R117 to R120: STALL_EXPIRY of a RUNNING context whose timer has reached its limit. The expiry is counted, STALLED is set and
attention raised at once. The fourth since a retire ends the context TIMED_OUT. At an earlier one the oldest OPEN position is looked at for the
lowest SOURCE whose entry there is NONE, REFUSED or READ_FAILED, and the lowest SPARE whose entry there is LOGGED; with both they change roles,
every CONTRIBUTED entry at an OPEN position is LOGGED again and those positions' cells are zeroed (`State.sourcesChanged`), and the context goes
back to SOLVING, else the timer restarts. While a segment of the context is being combined, the swap or the end takes effect once that combine
has been reported; and with a DROP of one of its sources, or an ABORT of it, taken first and held behind the combine, the expiry does not happen
(both: log entry 6, DEDUCED); with a swap or an end of an earlier expiry held, it does (log entry 41, DESIGN CHOICE). A command whose context's
timer has not reached its limit is not due and changes nothing (log entry 1). -/
def Obligations.StallExpiry : Prop :=
  let swaps := fun (c : Ctx) (f g : Nat) => ∃ seg p, c.holding seg = some p ∧ p.state = .opened ∧
    (∀ seg' q, c.holding seg' = some q → q.state = .opened → seg ≤ seg') ∧
    let waits := fun h => c.role h = .source ∧ ∀ en, p.row.get h = some en → en.state = .refused ∨ en.state = .readFailed
    let ready := fun h => c.role h = .spare ∧ ∃ en, p.row.get h = some en ∧ en.state = .logged
    f < 24 ∧ waits f ∧ (∀ h < f, ¬ waits h) ∧ g < 24 ∧ ready g ∧ ∀ h < g, ¬ ready h
  (∀ (s : State) (i : Fin 64) (c : Ctx), s.ctxs.get i = some c → c.seated →
    (c.expired = true ↔ c.state = .running ∧ c.timerRuns = true ∧ c.geo.stallLimit ≠ 0 ∧ c.geo.stallLimit ≤ c.elapsed) ∧
    let changeFirst := .dispatch ∈ s.held ∧ recContext s.walker.buffer = i ∧ (recKind s.walker.buffer = 5 ∨
      (recKind s.walker.buffer = 4 ∧ c.role (recFragment s.walker.buffer) = .source))
    (c.expired = false ∨ changeFirst → exec (.stallExpiry i) s = .next s) ∧
    (c.expired = true → ¬ changeFirst → s.calm = true → s.walker.ready = none →
      ∃ t c', exec (.stallExpiry i) s = .next t ∧ t.ctxs.get i = some c' ∧ t.ctl.attention = true ∧ c'.geo = c.geo ∧
        c'.stalled = true ∧ c'.expiries = c.expiries + 1 ∧
        c'.counters.stallExpiries = min 65535 (c.counters.stallExpiries + 1) ∧
        (3 ≤ c.expiries → c'.roles = c.roles ∧ c'.timerRuns = false ∧
          if s.judging i then c'.state = .running ∧ t.held = s.held ++ [.timeOut i.val]
          else c'.state = .draining ∧ c'.outcome = some .timedOut ∧ t.held = s.held) ∧
        (c.expiries < 3 → (∀ f g, ¬ swaps c f g) →
          c'.state = .running ∧ c'.roles = c.roles ∧ c'.elapsed = 0 ∧ c'.timerRuns = true ∧ t.held = s.held) ∧
        (∀ f g, c.expiries < 3 → swaps c f g → c'.timerRuns = false ∧
          if s.judging i then c'.state = .running ∧ c'.roles = c.roles ∧ t.held = s.held ++ [.swap i.val]
          else
            c'.state = .solving ∧ c'.role f = .spare ∧ c'.role g = .source ∧
            (∀ h, h ≠ f → h ≠ g → c'.role h = c.role h) ∧ t.held = s.held ∧ t.sourcesChanged c c' s.store none ∧
            c'.counters.substitutions = min 65535 (c.counters.substitutions + 1)))) ∧
  (∀ (s : State) (w : Combining) (u : Staging) (c : Ctx) (p : Position) (en : LogEntry),
    s.combining = some w → w.judged = true → s.calm = true → s.walker.ready = none → s.port.staging.get w.slot = some u →
    s.ctxs.get u.ctx = some c → c.state = .running → c.seated → c.holding u.seg = some p → p.row.get u.frag = some en →
    en.state = .inflight → trailerRefusal c.geo u.seg u.frag u.data = none →
    (s.held = [.timeOut u.ctx] → ∃ t c', exec .combineComplete s = .next t ∧ t.held = [] ∧ t.ctxs.get u.ctx = some c' ∧
      c'.state = .draining ∧ c'.outcome = some .timedOut ∧ c'.roles = c.roles ∧ c'.counters = c.counters) ∧
    (∀ f g, s.held = [.swap u.ctx] → swaps c f g → ∃ t c', exec .combineComplete s = .next t ∧ t.held = [] ∧
      t.ctxs.get u.ctx = some c' ∧ c'.state = .solving ∧ c'.timerRuns = false ∧ c'.role f = .spare ∧ c'.role g = .source ∧
      (∀ h, h ≠ f → h ≠ g → c'.role h = c.role h) ∧
      c'.counters = { c.counters with substitutions := min 65535 (c.counters.substitutions + 1) } ∧
      t.sourcesChanged (c.putPosition u.seg (c.judgedAt p u.frag en none)) c'
        (foldTargets c u.seg (c.sources.idxOf u.frag) (c.geo.dataLength u.seg) u.data (List.range c.targetCount) s.store) none))

/-! ### Over every step -/

/-- Every command: the step takes the command at the front of the queue and runs it with the queue's rest; with none waiting the engine idles
(log entry 2). -/
def Obligations.StepRunsFrontCommand : Prop :=
  ∀ (s : State) (c : Instr) (rest : List Instr),
    step { s with pending := c :: rest } = exec c { s with pending := rest } ∧
    step { s with pending := [] } = .next { s with pending := [] } ∧
    ∃ t, exec c { s with pending := rest } = .next t ∧ t.pending = rest

/-- R19, R25, R26, R33, R49: what every step that is not a reset keeps of a context that is in its slot before and after it: its geometry; its
roles, but for a move between SOURCE and SPARE and from either of them to FAILED; EXPOSED right; base never falling and the retired count equal to it; counters
never falling and within 65535. A context leaves its slot only after its OPEN's DONE was readied, or in its own TEARDOWN_RESUME (R44). -/
def Obligations.ContextsKeep : Prop :=
  ∀ s t : State, (∀ c rest, s.pending = c :: rest → ¬ s.resetsBy c) → step s = .next t →
    (∀ i c c', s.ctxs.get i = some c → t.ctxs.get i = some c' → CtxKept RoleMove c c') ∧
    (∀ i, s.holds i → (∀ n : Fin 64, s.pending.head? = some (.teardownResume n) → n.val ≠ i) → t.holds i)

/-- R22, R26, R33, R49: every context is sound, and stays so over every step. -/
def Obligations.SoundContexts : Prop :=
  ∀ s t : State, s.contextsSound → step s = .next t → t.contextsSound

/-- R74, R75, R86, R87: every Feed and Sink entry in use owes a segment, and its counts and what it owes add up to its count; so after every
step. -/
def Obligations.EntriesBalance : Prop :=
  ∀ s t : State, s.feedsBalanced → s.sinksBalanced → step s = .next t → t.feedsBalanced ∧ t.sinksBalanced

/-- R10, R12, R29, R30, R43, R49, R74, R75, R98, R122, R124, R134, R136, R138, R140, R150, R183: over every step the context table, the cells,
the windows, the cell wait queue and the Solver go on agreeing (`State.agrees`): free and lent cells are 512 together and no cell is lent twice;
each position stands in its segment's slot, and each segment from base to min(base + W, N) − 1 is held by exactly one; the waiting contexts are
the PENDING ones, and the Solver's the SOLVING ones, each once. The Accumulation Store keeps its canonical form, which is the model's own: each
listed cell once, in order, with its 4096 bytes; so do the tables of feeds, sinks and staging slots. The write queue holds at most 64 writes, no
writer stands in the claim line twice, and the five settings of a TUNE stay in their ranges. A staging slot that is not stale belongs to a
RUNNING context and reads for one of its sources, one in RETRYING is not stale, and the two slots of a pair stand alike until their read is done
(`State.stagingSound`). -/
def Obligations.StoreQueuesAndSettings : Prop :=
  (∀ s t : State, s.agrees → step s = .next t → t.agrees) ∧
  (∀ s t : State, storeCanonical s.store → s.tablesListed → step s = .next t → storeCanonical t.store ∧ t.tablesListed) ∧
  (∀ s t : State, s.port.queuesBounded → s.settingsInRange → step s = .next t → t.port.queuesBounded ∧ t.settingsInRange) ∧
  (∀ s t : State, s.agrees → s.stagingSound → step s = .next t → t.stagingSound)

/-- The invariants above hold after a full reset. -/
def Obligations.InvariantsAtReset : Prop :=
  State.reset.gov.bounded ∧ State.reset.contextsSound ∧ State.reset.feedsBalanced ∧ State.reset.sinksBalanced ∧
  State.reset.agrees ∧ State.reset.stagingSound ∧ storeCanonical State.reset.store ∧ State.reset.tablesListed ∧ State.reset.port.queuesBounded ∧
  State.reset.settingsInRange
end

