-- ==== Sys2Proof/Laws/Table.lean ====
section
/-! SUPPORT. What the operations over numbered tables do, said once: reads after writes, and the canonical form kept. -/

namespace Sys2Proof.Machine

variable {α β : Type}

theorem findRow_putRow_same (k : Nat) (v : α) (rows : List (Nat × α)) : findRow k (putRow k v rows) = some v := by
  induction rows with
  | nil => simp [putRow, findRow]
  | cons r rest ih =>
    obtain ⟨j, u⟩ := r
    simp only [putRow]
    split
    · simp [findRow]
    · split
      · simp [findRow]
      · simp [findRow, *]

theorem findRow_putRow_other {j k : Nat} (h : j ≠ k) (v : α) (rows : List (Nat × α)) :
    findRow j (putRow k v rows) = findRow j rows := by
  induction rows with
  | nil => simp [putRow, findRow, h.symm]
  | cons r rest ih =>
    obtain ⟨i, u⟩ := r
    simp only [putRow]
    split
    · simp [findRow, h.symm]
    · split
      · next h2 => subst h2; simp [findRow, h.symm]
      · simp [findRow, ih]

theorem findRow_filter_same (k : Nat) (rows : List (Nat × α)) :
    findRow k (rows.filter (fun r => r.1 ≠ k)) = none := by
  induction rows with
  | nil => rfl
  | cons r rest ih =>
    obtain ⟨i, u⟩ := r
    by_cases h : i = k
    · simpa [List.filter_cons, h] using ih
    · simp only [List.filter_cons, ne_eq, h, not_false_eq_true, decide_true, if_true, findRow, if_false]
      simpa using ih

theorem findRow_filter_other {j k : Nat} (h : j ≠ k) (rows : List (Nat × α)) :
    findRow j (rows.filter (fun r => r.1 ≠ k)) = findRow j rows := by
  induction rows with
  | nil => rfl
  | cons r rest ih =>
    obtain ⟨i, u⟩ := r
    by_cases hi : i = k
    · subst hi; simpa [List.filter_cons, findRow, h.symm] using ih
    · simp only [List.filter_cons, ne_eq, hi, not_false_eq_true, decide_true, if_true, findRow]
      split
      · rfl
      · simpa using ih

theorem findRow_map (f : α → β) (k : Nat) (rows : List (Nat × α)) :
    findRow k (rows.map (fun r => (r.1, f r.2))) = (findRow k rows).map f := by
  induction rows with
  | nil => rfl
  | cons r rest ih =>
    obtain ⟨i, u⟩ := r
    by_cases h : i = k
    · simp [findRow, h]
    · simpa [findRow, h] using ih

/-- A read of the entry just written gives the value written. -/
@[simp] theorem Table.get_set_same (t : Table α) (k : Nat) (v : α) : (t.set k v).get k = some v :=
  findRow_putRow_same k v t.rows

/-- A write leaves every other entry alone. -/
theorem Table.get_set_other (t : Table α) {j k : Nat} (h : j ≠ k) (v : α) : (t.set k v).get j = t.get j :=
  findRow_putRow_other h v t.rows

/-- A freed entry is not in use. -/
@[simp] theorem Table.get_erase_same (t : Table α) (k : Nat) : (t.erase k).get k = none :=
  findRow_filter_same k t.rows

/-- Freeing leaves every other entry alone. -/
theorem Table.get_erase_other (t : Table α) {j k : Nat} (h : j ≠ k) : (t.erase k).get j = t.get j :=
  findRow_filter_other h t.rows

@[simp] theorem Table.get_empty (k : Nat) : (Table.empty : Table α).get k = none := rfl

/-- A change of every entry changes the one that is read. -/
@[simp] theorem Table.get_mapValues (t : Table α) (f : α → β) (k : Nat) : (t.mapValues f).get k = (t.get k).map f :=
  findRow_map f k t.rows

theorem Table.get_set (t : Table α) (j k : Nat) (v : α) :
    (t.set k v).get j = if j = k then some v else t.get j := by
  by_cases h : j = k
  · subst h; simp
  · simp [h, Table.get_set_other t h]

theorem Table.get_erase (t : Table α) (j k : Nat) : (t.erase k).get j = if j = k then none else t.get j := by
  by_cases h : j = k
  · subst h; simp
  · simp [h, Table.get_erase_other t h]

/-! ### Canonical form -/

/-- Every number of the rows is above `n`. -/
def aboveAll (n : Nat) (rows : List (Nat × α)) : Prop := ∀ r ∈ rows, n < r.1

theorem rising_cons {j : Nat} {u : α} {rest : List (Nat × α)} :
    risingRows ((j, u) :: rest) = true ↔ aboveAll j rest ∧ risingRows rest = true := by
  induction rest generalizing j u with
  | nil => simp [risingRows, aboveAll]
  | cons r rest ih =>
    obtain ⟨k, v⟩ := r
    simp only [risingRows, Bool.and_eq_true, decide_eq_true_eq]
    constructor
    · rintro ⟨h1, h2⟩
      refine ⟨?_, h2⟩
      have h3 := (ih.mp h2).1
      intro r hr
      rcases List.mem_cons.mp hr with rfl | hr
      · exact h1
      · exact Nat.lt_trans h1 (h3 r hr)
    · rintro ⟨h1, h2⟩
      exact ⟨h1 (k, v) (by simp), h2⟩

theorem mem_putRow {k : Nat} {v : α} {rows : List (Nat × α)} {r : Nat × α} (h : r ∈ putRow k v rows) :
    r = (k, v) ∨ r ∈ rows := by
  induction rows with
  | nil => simpa [putRow] using h
  | cons q rest ih =>
    obtain ⟨j, u⟩ := q
    simp only [putRow] at h
    split at h
    · simpa using h
    · split at h
      · rcases List.mem_cons.mp h with h | h
        · exact .inl h
        · exact .inr (by simp [h])
      · rcases List.mem_cons.mp h with h | h
        · exact .inr (by simp [h])
        · rcases ih h with h | h
          · exact .inl h
          · exact .inr (by simp [h])

theorem rising_putRow (k : Nat) (v : α) (rows : List (Nat × α)) (h : risingRows rows = true) :
    risingRows (putRow k v rows) = true := by
  induction rows with
  | nil => simp [putRow, risingRows]
  | cons q rest ih =>
    obtain ⟨j, u⟩ := q
    have h' := rising_cons.mp h
    simp only [putRow]
    split
    · next hk =>
      refine rising_cons.mpr ⟨?_, h⟩
      intro r hr
      rcases List.mem_cons.mp hr with rfl | hr
      · exact hk
      · exact Nat.lt_trans hk (h'.1 r hr)
    · split
      · next hj => subst hj; exact rising_cons.mpr h'
      · next h1 h2 =>
        refine rising_cons.mpr ⟨?_, ih h'.2⟩
        intro r hr
        rcases mem_putRow hr with rfl | hr
        · simp only; omega
        · exact h'.1 r hr

theorem rising_filter (p : Nat × α → Bool) (rows : List (Nat × α)) (h : risingRows rows = true) :
    risingRows (rows.filter p) = true := by
  induction rows with
  | nil => rfl
  | cons q rest ih =>
    obtain ⟨j, u⟩ := q
    have h' := rising_cons.mp h
    rw [List.filter_cons]
    split
    · exact rising_cons.mpr ⟨fun r hr => h'.1 r (List.mem_filter.mp hr).1, ih h'.2⟩
    · exact ih h'.2

theorem rising_map (f : α → β) (rows : List (Nat × α)) (h : risingRows rows = true) :
    risingRows (rows.map (fun r => (r.1, f r.2))) = true := by
  induction rows with
  | nil => rfl
  | cons q rest ih =>
    obtain ⟨j, u⟩ := q
    have h' := rising_cons.mp h
    refine rising_cons.mpr ⟨?_, ih h'.2⟩
    intro r hr
    obtain ⟨r', hr', rfl⟩ := List.mem_map.mp hr
    exact h'.1 r' hr'

/-- Setting an entry keeps the canonical form. -/
theorem Table.wf_set (t : Table α) (k : Nat) (v : α) (h : t.wf = true) : (t.set k v).wf = true :=
  rising_putRow k v t.rows h

/-- Freeing an entry keeps the canonical form. -/
theorem Table.wf_erase (t : Table α) (k : Nat) (h : t.wf = true) : (t.erase k).wf = true := rising_filter _ t.rows h

/-- Changing every entry keeps the canonical form. -/
theorem Table.wf_mapValues (t : Table α) (f : α → β) (h : t.wf = true) : (t.mapValues f).wf = true :=
  rising_map f t.rows h

/-- The table with no entry in use is in canonical form. -/
theorem Table.wf_empty : (Table.empty : Table α).wf = true := rfl

/-- In a canonical table, a listed row is the one that is read. -/
theorem Table.get_of_mem {t : Table α} (h : t.wf = true) {r : Nat × α} (hr : r ∈ t.rows) : t.get r.1 = some r.2 := by
  obtain ⟨rows⟩ := t
  simp only [Table.wf, Table.get] at *
  induction rows with
  | nil => simp at hr
  | cons q rest ih =>
    obtain ⟨j, u⟩ := q
    have h' := rising_cons.mp h
    rcases List.mem_cons.mp hr with rfl | hr
    · simp [findRow]
    · have : j ≠ r.1 := Nat.ne_of_lt (h'.1 r hr)
      simpa [findRow, this] using ih h'.2 hr

/-- What is read is listed. -/
theorem Table.mem_of_get {t : Table α} {k : Nat} {v : α} (h : t.get k = some v) : (k, v) ∈ t.rows := by
  obtain ⟨rows⟩ := t
  simp only [Table.get] at h
  induction rows with
  | nil => simp [findRow] at h
  | cons q rest ih =>
    obtain ⟨j, u⟩ := q
    simp only [findRow] at h
    split at h
    · next hj => subst hj; simp at h; simp [h]
    · exact List.mem_cons_of_mem _ (ih h)

end Sys2Proof.Machine
end

