-- ==== Sys2Proof/Laws/Frame.lean ====
section
/-! SUPPORT. The frame of the shared operations: what every one of them keeps, said once, and composed by transitivity. -/

namespace Sys2Proof.Machine

/-- A relation on roles that a step may use: it holds of a role that stays, and of two moves one after another. -/
structure RoleRel (P : Role → Role → Prop) : Prop where
  refl : ∀ r, P r r
  trans : ∀ {a b c}, P a b → P b c → P a c

theorem roleMove_rel : RoleRel RoleMove where
  refl _ := .inl rfl
  trans := by
    intro a b c
    cases a <;> cases b <;> cases c <;> simp [RoleMove]

theorem anyRole_rel : RoleRel (fun _ _ => True) where
  refl _ := trivial
  trans _ _ := trivial

theorem Counters.upTo_refl (n : Counters) : n.upTo n := by
  simp [Counters.upTo, Counters.values]

theorem Counters.upTo_trans {a b c : Counters} (h1 : a.upTo b) (h2 : b.upTo c) : a.upTo c := by
  simp [Counters.upTo, Counters.values] at *
  omega

variable {P : Role → Role → Prop}

theorem CtxKept.refl (hP : RoleRel P) (c : Ctx) : CtxKept P c c :=
  ⟨rfl, fun _ => hP.refl _, id, Nat.le_refl _, id, fun h => ⟨h, c.counters.upTo_refl⟩⟩

theorem CtxKept.trans (hP : RoleRel P) {a b c : Ctx} (h1 : CtxKept P a b) (h2 : CtxKept P b c) : CtxKept P a c where
  geo := h2.geo.trans h1.geo
  roles f := hP.trans (h1.roles f) (h2.roles f)
  exposed h := h2.exposed (h1.exposed h)
  base := Nat.le_trans h1.base h2.base
  window h := h2.window (h1.window h)
  counters h := by
    have a1 := h1.counters h
    have a2 := h2.counters a1.1
    exact ⟨a2.1, Counters.upTo_trans a1.2 a2.2⟩

/-- A change of a context that touches none of what a context keeps. -/
theorem CtxKept.of_eq (hP : RoleRel P) {c c' : Ctx} (h1 : c'.geo = c.geo) (h2 : c'.roles = c.roles)
    (h3 : c'.exposed = c.exposed) (h4 : c'.base = c.base) (h5 : c'.retired = c.retired)
    (h6 : c'.counters = c.counters) : CtxKept P c c' where
  geo := h1
  roles f := by have : c'.role f = c.role f := by simp [Ctx.role, h2]
                rw [this]; exact hP.refl _
  exposed h := by
    have : c'.noSpare = c.noSpare := by simp [Ctx.noSpare, Ctx.fragmentsIn, Ctx.role, h2]
    rw [h3, this, h]
  base := by omega
  window h := by omega
  counters h := by rw [h6]; exact ⟨h, c.counters.upTo_refl⟩

theorem CtxKept.sound {c c' : Ctx} (h : CtxKept P c c') (hs : c.sound) : c'.sound :=
  ⟨h.geo ▸ hs.1, h.exposed hs.2.1, h.window hs.2.2.1, (h.counters hs.2.2.2).1⟩

/-- What an event keeps when it acts on contexts, tables, queues, cells and readied writes alone. -/
structure Core (P : Role → Role → Prop) (s t : State) : Prop where
  gov : t.gov = s.gov
  settings : t.settings = s.settings
  programmed : t.ctl.programmed = s.ctl.programmed
  outstanding : t.port.outstanding = s.port.outstanding
  pending : t.pending = s.pending
  ctxs : s.contextsKept P t
  feeds : s.feedsBalanced → t.feedsBalanced
  sinks : s.sinksBalanced → t.sinksBalanced
  store : storeCanonical s.store → storeCanonical t.store
  queues : s.port.queuesBounded → t.port.queuesBounded

/-- A `Core` step in which a context leaves its slot only when its OPEN record's DONE, readied before, is placed. -/
structure Frame (P : Role → Role → Prop) (s t : State) : Prop extends Core P s t where
  stays : ∀ i, s.holds i → t.holds i

theorem Core.refl (hP : RoleRel P) (s : State) : Core P s s :=
  ⟨rfl, rfl, rfl, rfl, rfl, fun _ c h => ⟨c, h, CtxKept.refl hP c⟩, id, id, id, id⟩

theorem Core.trans (hP : RoleRel P) {s t u : State} (h1 : Core P s t) (h2 : Core P t u) : Core P s u where
  gov := h2.gov.trans h1.gov
  settings := h2.settings.trans h1.settings
  programmed := h2.programmed.trans h1.programmed
  outstanding := h2.outstanding.trans h1.outstanding
  pending := h2.pending.trans h1.pending
  ctxs i c'' hc := by
    obtain ⟨c', hc', k2⟩ := h2.ctxs i c'' hc
    obtain ⟨c, hc, k1⟩ := h1.ctxs i c' hc'
    exact ⟨c, hc, k1.trans hP k2⟩
  feeds h := h2.feeds (h1.feeds h)
  sinks h := h2.sinks (h1.sinks h)
  store h := h2.store (h1.store h)
  queues h := h2.queues (h1.queues h)

theorem Core.sound {s t : State} (h : Core P s t) (hs : s.contextsSound) : t.contextsSound := by
  intro i c' hc
  obtain ⟨c, hc, k⟩ := h.ctxs i c' hc
  exact k.sound (hs i c hc)

theorem Frame.refl (hP : RoleRel P) (s : State) : Frame P s s := ⟨Core.refl hP s, fun _ h => h⟩

theorem Frame.trans (hP : RoleRel P) {s t u : State} (h1 : Frame P s t) (h2 : Frame P t u) : Frame P s u :=
  ⟨h1.toCore.trans hP h2.toCore, fun i h => h2.stays i (h1.stays i h)⟩

/-- A slot holds its context while the context table lists one there and its readied writes are the same. -/
theorem holds_of {s t : State} {i : Nat} (h : s.holds i) (hc : (s.ctxs.get i).isSome → (t.ctxs.get i).isSome)
    (hr : t.ready = s.ready) : t.holds i :=
  ⟨hc h.1, by have := h.2; unfold State.readyOf at *; rw [hr]; exact this⟩

/-- An update of fields that a frame does not watch. -/
theorem Frame.same (hP : RoleRel P) {s t : State} (h1 : t.gov = s.gov := by rfl) (h2 : t.settings = s.settings := by rfl)
    (h3 : t.ctl.programmed = s.ctl.programmed := by rfl) (h4 : t.port.outstanding = s.port.outstanding := by rfl)
    (h5 : t.pending = s.pending := by rfl) (h6 : t.ctxs = s.ctxs := by rfl) (h7 : t.feeds = s.feeds := by rfl)
    (h8 : t.sinks = s.sinks := by rfl) (h9 : t.store = s.store := by rfl)
    (h10 : t.port.writeQueue = s.port.writeQueue := by rfl) (h11 : t.port.claimLine = s.port.claimLine := by rfl)
    (h12 : t.ready = s.ready := by rfl) : Frame P s t where
  gov := h1
  settings := h2
  programmed := h3
  outstanding := h4
  pending := h5
  ctxs i c hc := ⟨c, h6 ▸ hc, CtxKept.refl hP c⟩
  feeds h e f hf := h e f (h7 ▸ hf)
  sinks h e k hk := h e k (h8 ▸ hk)
  store h := h9 ▸ h
  queues h := by unfold Port.queuesBounded at *; rw [h10, h11]; exact h
  stays i h := holds_of h (fun hc => h6 ▸ hc) h12

/-- One context replaced by what it becomes. -/
theorem Frame.setCtx (hP : RoleRel P) {s : State} {i : Nat} {c c' : Ctx} (hc : s.ctxs.get i = some c)
    (hk : CtxKept P c c') : Frame P s { s with ctxs := s.ctxs.set i c' } where
  gov := rfl
  settings := rfl
  programmed := rfl
  outstanding := rfl
  pending := rfl
  ctxs j d hd := by
    rw [Table.get_set] at hd
    split at hd
    · next h => subst h; cases hd; exact ⟨c, hc, hk⟩
    · exact ⟨d, hd, CtxKept.refl hP d⟩
  feeds := id
  sinks := id
  store := id
  queues := id
  stays j h := holds_of h (fun hj => by simp only [Table.get_set]; split <;> simp_all) rfl

theorem Frame.modCtx (hP : RoleRel P) (s : State) (i : Nat) (f : Ctx → Ctx)
    (hf : ∀ c, s.ctxs.get i = some c → CtxKept P c (f c)) : Frame P s (s.modCtx i f) := by
  unfold State.modCtx
  split
  · next c hc => exact Frame.setCtx hP hc (hf c hc)
  · exact Frame.refl hP s

end Sys2Proof.Machine
end

