-- ==== Sys2Proof/Laws/OpsFrame.lean ====
section
/-! SUPPORT. The frame of every shared operation over contexts, tables, feed logs, cells and the solver (Machine/Ops.lean). -/

namespace Sys2Proof.Machine

variable {P : Role → Role → Prop}

theorem readyOf_setReady (s : State) (i j : Nat) (ws : List CtxWrite) :
    (s.setReady i ws).readyOf j = if j = i then ws else s.readyOf j := by
  unfold State.setReady State.readyOf
  by_cases hw : ws = []
  · simp only [hw, if_true, Table.get_erase]; split <;> simp_all
  · simp only [hw, if_false, Table.get_set]; split <;> simp_all

/-- Replacing a slot's readied writes by ones that name no DONE of its OPEN that was not readied before. -/
theorem setReady_frame (hP : RoleRel P) (s : State) (i : Nat) (ws : List CtxWrite)
    (h : (s.readyOf i).all CtxWrite.notDone = true → ws.all CtxWrite.notDone = true) : Frame P s (s.setReady i ws) where
  gov := rfl
  settings := rfl
  programmed := rfl
  outstanding := rfl
  pending := rfl
  ctxs _ c hc := ⟨c, hc, CtxKept.refl hP c⟩
  feeds := id
  sinks := id
  store := id
  queues := id
  stays j hj := by
    refine ⟨hj.1, ?_⟩
    rw [readyOf_setReady]
    split
    · next hji => subst hji; exact h hj.2
    · exact hj.2

theorem oweProgress_frame (hP : RoleRel P) (s : State) (i : Nat) : Frame P s (s.oweProgress i) := by
  unfold State.oweProgress
  split
  · split
    · exact Frame.refl hP s
    · exact setReady_frame hP s i _ (fun h => by simp_all [CtxWrite.notDone])
  · exact Frame.refl hP s

theorem reportRoom_frame (hP : RoleRel P) (s : State) (kind : Nat) : Frame P s (s.reportRoom kind) := by
  unfold State.reportRoom
  split
  · exact Frame.same hP
  · exact Frame.refl hP s

/-- Freeing a Feed entry and queueing a status. -/
theorem eraseFeed_frame (hP : RoleRel P) (s : State) (e : Nat) (q : List Status) :
    Frame P s { s with feeds := s.feeds.erase e, statusQueue := q } where
  gov := rfl
  settings := rfl
  programmed := rfl
  outstanding := rfl
  pending := rfl
  ctxs _ c hc := ⟨c, hc, CtxKept.refl hP c⟩
  feeds h e' f hf := by
    simp only [Table.get_erase] at hf
    split at hf
    · cases hf
    · exact h e' f hf
  sinks := id
  store := id
  queues := id
  stays _ h := holds_of h id rfl

theorem eraseSink_frame (hP : RoleRel P) (s : State) (e : Nat) (q : List Status) :
    Frame P s { s with sinks := s.sinks.erase e, statusQueue := q } where
  gov := rfl
  settings := rfl
  programmed := rfl
  outstanding := rfl
  pending := rfl
  ctxs _ c hc := ⟨c, hc, CtxKept.refl hP c⟩
  feeds := id
  sinks h e' f hf := by
    simp only [Table.get_erase] at hf
    split at hf
    · cases hf
    · exact h e' f hf
  store := id
  queues := id
  stays _ h := holds_of h id rfl

theorem setFeed_frame (hP : RoleRel P) (s : State) (e : Nat) (f : FeedEntry) (hf : s.feedsBalanced → f.balanced) :
    Frame P s { s with feeds := s.feeds.set e f } where
  gov := rfl
  settings := rfl
  programmed := rfl
  outstanding := rfl
  pending := rfl
  ctxs _ c hc := ⟨c, hc, CtxKept.refl hP c⟩
  feeds h e' f' hf' := by
    simp only [Table.get_set] at hf'
    split at hf'
    · cases hf'; exact hf h
    · exact h e' f' hf'
  sinks := id
  store := id
  queues := id
  stays _ h := holds_of h id rfl

theorem setSink_frame (hP : RoleRel P) (s : State) (e : Nat) (f : SinkEntry) (hf : s.sinksBalanced → f.balanced) :
    Frame P s { s with sinks := s.sinks.set e f } where
  gov := rfl
  settings := rfl
  programmed := rfl
  outstanding := rfl
  pending := rfl
  ctxs _ c hc := ⟨c, hc, CtxKept.refl hP c⟩
  feeds := id
  sinks h e' f' hf' := by
    simp only [Table.get_set] at hf'
    split at hf'
    · cases hf'; exact hf h
    · exact h e' f' hf'
  store := id
  queues := id
  stays _ h := holds_of h id rfl

/-- A change of the store that keeps its canonical form. -/
theorem store_frame (hP : RoleRel P) (s : State) (store : Table (List Byte))
    (h : storeCanonical s.store → storeCanonical store) : Frame P s { s with store := store } where
  gov := rfl
  settings := rfl
  programmed := rfl
  outstanding := rfl
  pending := rfl
  ctxs _ c hc := ⟨c, hc, CtxKept.refl hP c⟩
  feeds := id
  sinks := id
  store := h
  queues := id
  stays _ h := holds_of h id rfl

theorem finaliseFeed_frame (hP : RoleRel P) (s : State) (e : Nat) (f : FeedEntry) : Frame P s (s.finaliseFeed e f) := by
  refine (Frame.modCtx hP s f.ctx _ ?_).trans hP ((eraseFeed_frame hP _ e _).trans hP (reportRoom_frame hP _ 2))
  exact fun c _ => CtxKept.of_eq hP rfl rfl rfl rfl rfl rfl

theorem finaliseSink_frame (hP : RoleRel P) (s : State) (e : Nat) (k : SinkEntry) : Frame P s (s.finaliseSink e k) := by
  refine (Frame.modCtx hP s k.ctx _ ?_).trans hP ((eraseSink_frame hP _ e _).trans hP (reportRoom_frame hP _ 3))
  exact fun c _ => CtxKept.of_eq hP rfl rfl rfl rfl rfl rfl

theorem FeedCounts.total_add (n : FeedCounts) (o : FeedOutcome) : (n.add o).total = n.total + 1 := by
  cases o <;> simp [FeedCounts.add, FeedCounts.total] <;> omega

theorem feedOutcome_frame (hP : RoleRel P) (s : State) (e : Nat) (o : FeedOutcome) : Frame P s (s.feedOutcome e o) := by
  unfold State.feedOutcome
  split
  · exact Frame.refl hP s
  · next f hf =>
    simp only
    split
    · exact finaliseFeed_frame hP s e _
    · next hp =>
      refine setFeed_frame hP s e _ (fun h => ?_)
      have hb := h e f hf
      have ht := FeedCounts.total_add f.counts o
      simp only [FeedEntry.balanced] at *
      omega

theorem sinkOutcome_frame (hP : RoleRel P) (s : State) (e : Nat) (o : SinkOutcome) : Frame P s (s.sinkOutcome e o) := by
  unfold State.sinkOutcome
  split
  · exact Frame.refl hP s
  · next k hk =>
    cases o
    all_goals
      simp only
      split
      · exact finaliseSink_frame hP s e _
      · next hp =>
        refine setSink_frame hP s e _ (fun h => ?_)
        have hb := h e k hk
        simp only [SinkEntry.balanced] at *
        omega

theorem putEntry_frame (hP : RoleRel P) (s : State) (i seg f : Nat) (e : Option LogEntry) :
    Frame P s (s.putEntry i seg f e) := by
  refine Frame.modCtx hP s i _ (fun c _ => ?_)
  split
  · exact CtxKept.of_eq hP rfl rfl rfl rfl rfl rfl
  · exact CtxKept.refl hP c

theorem Counters.count_late (n : Counters) (h : n.inRange) :
    Counters.inRange { n with late := bump16 n.late } ∧ n.upTo { n with late := bump16 n.late } := by
  simp [Counters.inRange, Counters.upTo, Counters.values, bump16] at *
  omega

theorem Counters.count_duplicate (n : Counters) (h : n.inRange) :
    Counters.inRange { n with duplicate := bump16 n.duplicate } ∧ n.upTo { n with duplicate := bump16 n.duplicate } := by
  simp [Counters.inRange, Counters.upTo, Counters.values, bump16] at *
  omega

theorem Counters.count_substitutions (n : Counters) (h : n.inRange) :
    Counters.inRange { n with substitutions := bump16 n.substitutions } ∧
      n.upTo { n with substitutions := bump16 n.substitutions } := by
  simp [Counters.inRange, Counters.upTo, Counters.values, bump16] at *
  omega

theorem Counters.count_readFailures (n : Counters) (h : n.inRange) :
    Counters.inRange { n with readFailures := bump16 n.readFailures } ∧
      n.upTo { n with readFailures := bump16 n.readFailures } := by
  simp [Counters.inRange, Counters.upTo, Counters.values, bump16] at *
  omega

theorem Counters.count_stallExpiries (n : Counters) (h : n.inRange) :
    Counters.inRange { n with stallExpiries := bump16 n.stallExpiries } ∧
      n.upTo { n with stallExpiries := bump16 n.stallExpiries } := by
  simp [Counters.inRange, Counters.upTo, Counters.values, bump16] at *
  omega

theorem Counters.count_refusal (n : Counters) (r : Refused) (h : n.inRange) :
    (n.countRefusal r).inRange ∧ n.upTo (n.countRefusal r) := by
  cases r <;> simp [Counters.inRange, Counters.upTo, Counters.values, Counters.countRefusal, bump16] at * <;> omega

/-- A change of a context's counters alone. -/
theorem CtxKept.counts (hP : RoleRel P) (c : Ctx) (n : Counters)
    (h : c.counters.inRange → n.inRange ∧ c.counters.upTo n) : CtxKept P c { c with counters := n } where
  geo := rfl
  roles _ := hP.refl _
  exposed := id
  base := Nat.le_refl _
  window := id
  counters := h

theorem countLate_frame (hP : RoleRel P) (s : State) (i e : Nat) : Frame P s (s.countLate i e) :=
  (Frame.modCtx hP s i _ (fun c _ => CtxKept.counts hP c _ c.counters.count_late)).trans hP (feedOutcome_frame hP _ e _)

theorem countDuplicate_frame (hP : RoleRel P) (s : State) (i e : Nat) : Frame P s (s.countDuplicate i e) :=
  (Frame.modCtx hP s i _ (fun c _ => CtxKept.counts hP c _ c.counters.count_duplicate)).trans hP
    (feedOutcome_frame hP _ e _)

theorem classify_frame (hP : RoleRel P) (s : State) (i e f seg : Nat) : Frame P s (s.classify i e f seg) := by
  unfold State.classify
  repeat' split
  all_goals first
    | exact Frame.refl hP s
    | exact countLate_frame hP s i e
    | exact countDuplicate_frame hP s i e
    | exact feedOutcome_frame hP s e _
    | exact putEntry_frame hP s i seg f _

theorem classifyRun_frame (hP : RoleRel P) (i e f n : Nat) (seg : Nat) (s : State) :
    Frame P s (State.classifyRun i e f n seg s) := by
  induction n generalizing seg s with
  | zero => exact Frame.refl hP s
  | succ n ih => exact (classify_frame hP s i e f seg).trans hP (ih _ _)

theorem scanFeeds_frame (hP : RoleRel P) (i seg : Nat) (es : List Nat) (s : State) :
    Frame P s (State.scanFeeds i seg es s) := by
  induction es generalizing s with
  | nil => exact Frame.refl hP s
  | cons e es ih =>
    refine Frame.trans hP ?_ (ih _)
    split
    · split
      · exact classify_frame hP s i e _ seg
      · exact Frame.refl hP s
    · exact Frame.refl hP s

theorem erase_storeCanonical (store : Table (List Byte)) (n : Nat) (h : storeCanonical store) :
    storeCanonical (store.erase n) :=
  ⟨Table.wf_erase _ _ h.1, fun r hr => h.2 r (List.mem_filter.mp hr).1⟩

/-- Zeroing cells keeps the store's canonical form. -/
theorem zeroCells_storeCanonical (cells : List Nat) (store : Table (List Byte)) (h : storeCanonical store) :
    storeCanonical (zeroCells store cells) := by
  unfold zeroCells
  induction cells generalizing store with
  | nil => exact h
  | cons n cells ih => exact ih _ (erase_storeCanonical store n h)

/-- Writing a whole cell keeps the store's canonical form. -/
theorem putCell_storeCanonical (store : Table (List Byte)) (n : Nat) (bytes : List Byte)
    (hl : bytes.length = Config.cellBytes) (h : storeCanonical store) : storeCanonical (putCell store n bytes) := by
  unfold putCell
  split
  · exact erase_storeCanonical store n h
  · next hz =>
    refine ⟨Table.wf_set _ _ _ h.1, fun r hr => ?_⟩
    rcases mem_putRow hr with rfl | hr
    · exact ⟨hl, by simpa using hz⟩
    · exact h.2 r hr

theorem openPosition_frame (hP : RoleRel P) (s : State) (i seg : Nat) : Frame P s (s.openPosition i seg) := by
  unfold State.openPosition
  split
  · exact Frame.refl hP s
  · next c hc =>
    refine Frame.trans hP ?_ (scanFeeds_frame hP i seg c.feedList _)
    refine (Frame.setCtx hP hc (CtxKept.of_eq hP (c' := c.putPosition seg ⟨.opened, seg, Table.empty, Table.empty⟩)
      rfl rfl rfl rfl rfl rfl)).trans hP ?_
    exact store_frame hP _ _ (zeroCells_storeCanonical _ _)

theorem openRun_frame (hP : RoleRel P) (i n seg : Nat) (s : State) : Frame P s (State.openRun i n seg s) := by
  induction n generalizing seg s with
  | zero => exact Frame.refl hP s
  | succ n ih => exact (openPosition_frame hP s i seg).trans hP (ih _ _)

theorem discard_frame (hP : RoleRel P) (s : State) (i seg f : Nat) : Frame P s (s.discard i seg f) := by
  unfold State.discard
  repeat' split
  all_goals first
    | exact Frame.refl hP s
    | exact (putEntry_frame hP s i seg f _).trans hP (feedOutcome_frame hP _ _ _)
    | exact putEntry_frame hP s i seg f _

theorem freeStaging_frame (hP : RoleRel P) (s : State) (k : Nat) : Frame P s (s.freeStaging k) := Frame.same hP

theorem discardStaging_frame (hP : RoleRel P) (s : State) (k : Nat) : Frame P s (s.discardStaging k) := by
  unfold State.discardStaging
  split
  · exact Frame.refl hP s
  · exact (freeStaging_frame hP s k).trans hP (discard_frame hP _ _ _ _)

theorem discardEach_frame (hP : RoleRel P) (ks : List Nat) (s : State) : Frame P s (State.discardEach ks s) := by
  induction ks generalizing s with
  | nil => exact Frame.refl hP s
  | cons k ks ih => exact (discardStaging_frame hP s k).trans hP (ih _)

theorem markStale_frame (hP : RoleRel P) (s : State) (i : Nat) : Frame P s (s.markStale i) :=
  Frame.trans hP (t := { s with port := { s.port with
      staging := s.port.staging.mapValues (fun t => if t.ctx = i then { t with stale := true } else t),
      reissueLine := s.port.reissueLine.filter (fun k =>
        !(((s.port.staging.mapValues (fun t => if t.ctx = i then { t with stale := true } else t)).rows.filter
          (fun r => r.2.ctx == i && r.2.phase == .retrying)).map (·.1)).contains k) } })
    (Frame.same hP) (discardEach_frame hP _ _)

theorem releaseAt_frame (hP : RoleRel P) (s : State) (i f seg : Nat) : Frame P s (s.releaseAt i f seg) := by
  unfold State.releaseAt
  repeat' split
  all_goals first
    | exact Frame.refl hP s
    | exact (putEntry_frame hP s i seg f _).trans hP (feedOutcome_frame hP _ _ _)
    | exact putEntry_frame hP s i seg f _

theorem releaseEach_frame (hP : RoleRel P) (i f : Nat) (segs : List Nat) (s : State) :
    Frame P s (State.releaseEach i f segs s) := by
  induction segs generalizing s with
  | nil => exact Frame.refl hP s
  | cons seg segs ih => exact (releaseAt_frame hP s i f seg).trans hP (ih _)

theorem release_frame (hP : RoleRel P) (s : State) (i f : Nat) : Frame P s (s.release i f) := by
  unfold State.release
  split
  · exact Frame.refl hP s
  · exact releaseEach_frame hP i f _ s

theorem resetContributions_frame (hP : RoleRel P) (s : State) (i : Nat) : Frame P s (s.resetContributions i) := by
  unfold State.resetContributions
  split
  · exact Frame.refl hP s
  · next c hc =>
    refine (Frame.setCtx hP hc (CtxKept.of_eq hP (c' := { c with slots := c.slots.mapValues Position.reset })
      rfl rfl rfl rfl rfl rfl)).trans hP ?_
    exact store_frame hP _ _ (zeroCells_storeCanonical _ _)

theorem joinSolve_frame (hP : RoleRel P) (s : State) (i : Nat) : Frame P s (s.joinSolve i) := Frame.same hP

theorem requeueSolve_frame (hP : RoleRel P) (s : State) (i : Nat) : Frame P s (s.requeueSolve i) := by
  unfold State.requeueSolve
  split
  · exact Frame.same hP
  · exact Frame.refl hP s

theorem leaveSolver_frame (hP : RoleRel P) (s : State) (i : Nat) : Frame P s (s.leaveSolver i) := Frame.same hP

theorem startSolve_frame (hP : RoleRel P) (s : State) : Frame P s s.startSolve := by
  unfold State.startSolve
  repeat' split
  all_goals first
    | exact Frame.refl hP s
    | exact Frame.same hP

theorem enterSolving_frame (hP : RoleRel P) (s : State) (i : Nat) : Frame P s (s.enterSolving i) := by
  unfold State.enterSolving
  split
  · exact Frame.refl hP s
  · next c hc =>
    refine Frame.trans hP ?_ (oweProgress_frame hP _ i)
    refine Frame.trans hP ?_ (joinSolve_frame hP _ i)
    refine Frame.trans hP ?_ (openRun_frame hP i _ 0 _)
    refine (Frame.setCtx hP hc (CtxKept.of_eq hP
      (c' := { c with state := .solving, cells := s.freeCellList.take c.cellNeed }) rfl rfl rfl rfl rfl rfl)).trans hP ?_
    exact Frame.same hP

theorem serveCells_frame (hP : RoleRel P) (n : Nat) (s : State) : Frame P s (State.serveCells n s) := by
  induction n generalizing s with
  | zero => exact Frame.refl hP s
  | succ n ih =>
    unfold State.serveCells
    repeat' split
    all_goals first
      | exact Frame.refl hP s
      | refine Frame.trans hP ?_ (ih _)
    exact Frame.trans hP (Frame.same hP) (enterSolving_frame hP _ _)

theorem serveCellWait_frame (hP : RoleRel P) (s : State) : Frame P s s.serveCellWait := serveCells_frame hP _ s

theorem placeContext_frame (hP : RoleRel P) (s : State) (i : Nat) : Frame P s (s.placeContext i) := by
  unfold State.placeContext
  repeat' split
  · exact Frame.refl hP s
  · exact enterSolving_frame hP s i
  · exact Frame.trans hP (Frame.same hP) (oweProgress_frame hP _ i)

theorem endPending_frame (hP : RoleRel P) (s : State) (i : Nat) (o : EndOutcome) : Frame P s (s.endPending i o) := by
  unfold State.endPending
  extract_lets wasHead s1 s2 s3
  have h1 : Frame P s s1 := Frame.modCtx hP s i _ (fun c _ => CtxKept.of_eq hP rfl rfl rfl rfl rfl rfl)
  have h2 : Frame P s1 s2 := Frame.same hP
  have h3 : Frame P s2 s3 := setReady_frame hP s2 i _ (fun h => by
    simp only [List.all_eq_true, List.mem_filter] at *
    exact fun w hw => h w hw.1)
  have h := (h1.trans hP h2).trans hP h3
  split
  · exact h.trans hP (serveCellWait_frame hP _)
  · exact h

theorem enterDraining_frame (hP : RoleRel P) (s : State) (i : Nat) (o : EndOutcome) : Frame P s (s.enterDraining i o) := by
  unfold State.enterDraining
  extract_lets s1 s2 s3
  have h1 : Frame P s s1 := Frame.modCtx hP s i _ (fun c _ => CtxKept.of_eq hP rfl rfl rfl rfl rfl rfl)
  have h2 : Frame P s1 s2 := (oweProgress_frame hP s1 i).trans hP (markStale_frame hP _ i)
  have h3 : Frame P s2 s3 := leaveSolver_frame hP s2 i
  exact ((h1.trans hP h2).trans hP h3).trans hP (Frame.same hP)

theorem endRequest_frame (hP : RoleRel P) (s : State) (i : Nat) (o : EndOutcome) : Frame P s (s.endRequest i o) := by
  unfold State.endRequest
  repeat' split
  · exact Frame.refl hP s
  · exact endPending_frame hP s i o
  · exact enterDraining_frame hP s i o
  · exact enterDraining_frame hP s i o
  · exact Frame.refl hP s

/-! ### Changes of role -/

theorem role_setRoles (changes : List (Nat × Role)) (c : Ctx) (t : Table Role)
    (h : ∀ p ∈ changes, P (c.role p.1) p.2) (ht : ∀ f, P (c.role f) ((t.get f).getD .absent)) (f : Nat) :
    P (c.role f) (((setRoles changes t).get f).getD .absent) := by
  induction changes generalizing t with
  | nil => exact ht f
  | cons p changes ih =>
    obtain ⟨g, r⟩ := p
    refine ih (t.set g r) (fun p hp => h p (List.mem_cons_of_mem _ hp)) (fun f' => ?_)
    rw [Table.get_set]
    split
    · next hf => subst hf; exact h (f', r) (by simp)
    · exact ht f'

/-- A role update keeps what a context keeps, if each of its changes is a change that `P` allows. -/
theorem roleUpdate_frame (hP : RoleRel P) (s : State) (i : Nat) (changes : List (Nat × Role))
    (h : ∀ c, s.ctxs.get i = some c → ∀ p ∈ changes, P (c.role p.1) p.2) : Frame P s (s.roleUpdate i changes) := by
  refine Frame.trans hP (Frame.modCtx hP s i _ (fun c hc => ?_)) (oweProgress_frame hP _ i)
  exact ⟨rfl, fun f => role_setRoles changes c c.roles (h c hc) (fun _ => hP.refl _) f, fun _ => rfl, Nat.le_refl _,
    id, fun hn => ⟨hn, c.counters.upTo_refl⟩⟩

theorem countSubstitution_frame (hP : RoleRel P) (s : State) (i : Nat) : Frame P s (s.countSubstitution i) :=
  Frame.modCtx hP s i _ (fun c _ => CtxKept.counts hP c _ c.counters.count_substitutions)

theorem changeSources_frame (hP : RoleRel P) (s : State) (i : Nat) (failed : Option Nat) :
    Frame P s (s.changeSources i failed) := by
  unfold State.changeSources
  split
  · exact Frame.refl hP s
  · have hcount := countSubstitution_frame hP s i
    have hcleared : Frame P s ((match failed with
        | some f => ((s.countSubstitution i).markStale i).release i f
        | none => (s.countSubstitution i).markStale i).resetContributions i) := by
      refine Frame.trans hP ?_ (resetContributions_frame hP _ i)
      have hm := hcount.trans hP (markStale_frame hP _ i)
      cases failed with
      | none => exact hm
      | some f => exact hm.trans hP (release_frame hP _ i f)
    simp only
    split
    · exact hcount
    · exact (hcleared.trans hP (requeueSolve_frame hP _ i)).trans hP (oweProgress_frame hP _ i)
    · refine Frame.trans hP ?_ (oweProgress_frame hP _ i)
      refine Frame.trans hP ?_ (joinSolve_frame hP _ i)
      exact hcleared.trans hP (Frame.modCtx hP _ i _ (fun c _ => CtxKept.of_eq hP rfl rfl rfl rfl rfl rfl))
    · exact Frame.refl hP s

theorem mem_fragmentsIn {c : Ctx} {r : Role} {f : Nat} (h : f ∈ c.fragmentsIn r) : c.role f = r := by
  have := (List.mem_filter.mp h).2
  simpa using this

theorem failSource_frame (hP : RoleRel P) (s : State) (i f : Nat)
    (h : P .source .failed ∧ P .spare .source) : Frame P s (s.failSource i f) := by
  unfold State.failSource
  split
  · exact Frame.refl hP s
  · next c hc =>
    split
    · exact Frame.refl hP s
    · next hs =>
      have hs : c.role f = .source := by simpa using hs
      split
      · next p hp =>
        refine Frame.trans hP (roleUpdate_frame hP s i _ (fun c' hc' q hq => ?_)) (changeSources_frame hP _ i _)
        rw [hc] at hc'; cases hc'
        have hspare : c.role p = .spare := mem_fragmentsIn (List.mem_of_mem_head? hp)
        simp only [List.mem_cons, List.not_mem_nil, or_false] at hq
        rcases hq with rfl | rfl
        · simpa [hs] using h.1
        · simpa [hspare] using h.2
      · refine Frame.trans hP ?_ (endRequest_frame hP _ i _)
        refine Frame.trans hP ?_ (release_frame hP _ i f)
        refine roleUpdate_frame hP s i _ (fun c' hc' q hq => ?_)
        rw [hc] at hc'; cases hc'
        simp only [List.mem_cons, List.not_mem_nil, or_false] at hq
        subst hq
        simpa [hs] using h.1

theorem failSpare_frame (hP : RoleRel P) (s : State) (i f : Nat)
    (h : ∀ c, s.ctxs.get i = some c → P (c.role f) .failed) : Frame P s (s.failSpare i f) := by
  refine Frame.trans hP (roleUpdate_frame hP s i _ (fun c' hc' q hq => ?_)) (release_frame hP _ i f)
  simp only [List.mem_cons, List.not_mem_nil, or_false] at hq
  subst hq
  exact h c' hc'

/-! ### Binding, contribution, retire -/

theorem joinEmit_frame (hP : RoleRel P) (s : State) (i seg : Nat) : Frame P s (s.joinEmit i seg) := by
  unfold State.joinEmit
  repeat' split
  all_goals first
    | exact Frame.refl hP s
    | exact Frame.same hP

theorem bindFull_frame (hP : RoleRel P) (s : State) (i seg : Nat) : Frame P s (s.bindFull i seg) := by
  refine Frame.trans hP (Frame.modCtx hP s i _ (fun c _ => ?_)) (joinEmit_frame hP _ i seg)
  split
  · exact CtxKept.of_eq hP rfl rfl rfl rfl rfl rfl
  · exact CtxKept.refl hP c

theorem bindAt_frame (hP : RoleRel P) (s : State) (i e t seg : Nat) : Frame P s (s.bindAt i e t seg) := by
  refine Frame.trans hP (Frame.modCtx hP s i _ (fun c _ => ?_)) (joinEmit_frame hP _ i seg)
  split
  · exact CtxKept.of_eq hP rfl rfl rfl rfl rfl rfl
  · exact CtxKept.refl hP c

theorem bindEach_frame (hP : RoleRel P) (i e t : Nat) (segs : List Nat) (s : State) :
    Frame P s (State.bindEach i e t segs s) := by
  induction segs generalizing s with
  | nil => exact Frame.refl hP s
  | cons seg segs ih => exact (bindAt_frame hP s i e t seg).trans hP (ih _)

theorem contribute_frame (hP : RoleRel P) (s : State) (i seg f : Nat) : Frame P s (s.contribute i seg f) := by
  unfold State.contribute
  split
  · exact Frame.refl hP s
  · next c hc =>
    repeat' split
    · exact Frame.refl hP s
    · exact Frame.refl hP s
    · simp only
      split
      · refine Frame.trans hP ?_ (bindFull_frame hP _ i seg)
        exact Frame.setCtx hP hc (CtxKept.of_eq hP rfl rfl rfl rfl rfl rfl)
      · exact Frame.setCtx hP hc (CtxKept.of_eq hP rfl rfl rfl rfl rfl rfl)

theorem accountRow_frame (hP : RoleRel P) (rows : List (Nat × LogEntry)) (s : State) :
    Frame P s (State.accountRow rows s) := by
  induction rows generalizing s with
  | nil => exact Frame.refl hP s
  | cons r rows ih =>
    obtain ⟨f, en⟩ := r
    unfold State.accountRow
    refine Frame.trans hP ?_ (ih _)
    repeat' split
    all_goals first
      | exact feedOutcome_frame hP s _ _
      | exact Frame.refl hP s

theorem accountSinks_frame (hP : RoleRel P) (rows : List (Nat × Nat)) (s : State) :
    Frame P s (State.accountSinks rows s) := by
  induction rows generalizing s with
  | nil => exact Frame.refl hP s
  | cons r rows ih => exact (sinkOutcome_frame hP s r.2 _).trans hP (ih _)

theorem accountPosition_frame (hP : RoleRel P) (s : State) (p : Position) :
    Frame P s (s.accountPosition p) :=
  (accountRow_frame hP _ s).trans hP (accountSinks_frame hP _ _)

theorem countCleanRun_kept (hP : RoleRel P) (c : Ctx) (f : Nat) : CtxKept P c (c.countCleanRun f) := by
  unfold Ctx.countCleanRun
  split <;> exact CtxKept.of_eq hP rfl rfl rfl rfl rfl rfl

theorem countCleanRuns_kept (hP : RoleRel P) (fs : List Nat) (c : Ctx) : CtxKept P c (fs.foldl Ctx.countCleanRun c) := by
  induction fs generalizing c with
  | nil => exact CtxKept.refl hP c
  | cons f fs ih => exact (countCleanRun_kept hP c f).trans hP (ih _)

theorem restartTimer_kept (hP : RoleRel P) (c : Ctx) : CtxKept P c c.restartTimer :=
  CtxKept.of_eq hP rfl rfl rfl rfl rfl rfl

theorem retired1_kept (hP : RoleRel P) (c : Ctx) (p : Position) : CtxKept P c (c.retired1 p) := by
  unfold Ctx.retired1
  have h := (CtxKept.of_eq hP (c := c) (c' := { c with stalled := false, expiries := 0 }) rfl rfl rfl rfl rfl rfl).trans hP
    (countCleanRuns_kept hP (c.cleanFragments p) _)
  simp only
  split
  · exact h.trans hP (restartTimer_kept hP _)
  · exact h

theorem advance_kept (hP : RoleRel P) (c : Ctx) (p : Position) (slots : Table Position) :
    CtxKept P c { c.retired1 p with base := c.base + 1, retired := c.retired + 1, slots := slots } := by
  have h := retired1_kept hP c p
  exact ⟨h.geo, h.roles, h.exposed, Nat.le_succ _, fun hw => by simp only [hw], h.counters⟩

theorem retireBase_frame (hP : RoleRel P) (s : State) (i : Nat) (p : Position) : Frame P s (s.retireBase i p) := by
  unfold State.retireBase
  extract_lets s1
  have h1 : Frame P s s1 := accountPosition_frame hP s p
  split
  · exact h1
  · next c hc =>
    extract_lets slot src next s2 s3
    have h2 : Frame P s1 s2 := Frame.setCtx hP hc (advance_kept hP c p _)
    have h3 : Frame P s2 s3 := by
      simp only [s3]
      split
      · exact openPosition_frame hP _ i _
      · exact Frame.refl hP _
    split
    · exact ((h1.trans hP h2).trans hP h3).trans hP (endRequest_frame hP _ i _)
    · exact (h1.trans hP h2).trans hP h3

theorem retireWhile_frame (hP : RoleRel P) (i n : Nat) (s : State) : Frame P s (State.retireWhile i n s) := by
  induction n generalizing s with
  | zero => exact Frame.refl hP s
  | succ n ih =>
    unfold State.retireWhile
    repeat' split
    all_goals first
      | exact Frame.refl hP s
      | exact (retireBase_frame hP s i _).trans hP (ih _)

theorem examineBase_frame (hP : RoleRel P) (s : State) (i : Nat) : Frame P s (s.examineBase i) := by
  unfold State.examineBase
  split
  · exact Frame.refl hP s
  · exact retireWhile_frame hP i _ s

end Sys2Proof.Machine
end

