-- ==== Sys2Proof/Laws/State.lean ====
section
/-! SUPPORT. One lemma for each field and each small update of the state: what the update leaves alone, and what it writes. -/

namespace Sys2Proof.Machine

/-! ### The writes a slot has ready are replaced. -/

@[simp] theorem setReady_ctl (s : State) (i : Nat) (ws : List CtxWrite) : (s.setReady i ws).ctl = s.ctl := rfl
@[simp] theorem setReady_walker (s : State) (i : Nat) (ws : List CtxWrite) : (s.setReady i ws).walker = s.walker := rfl
@[simp] theorem setReady_gov (s : State) (i : Nat) (ws : List CtxWrite) : (s.setReady i ws).gov = s.gov := rfl
@[simp] theorem setReady_port (s : State) (i : Nat) (ws : List CtxWrite) : (s.setReady i ws).port = s.port := rfl
@[simp] theorem setReady_ctxs (s : State) (i : Nat) (ws : List CtxWrite) : (s.setReady i ws).ctxs = s.ctxs := rfl
@[simp] theorem setReady_freeCells (s : State) (i : Nat) (ws : List CtxWrite) : (s.setReady i ws).freeCells = s.freeCells := rfl
@[simp] theorem setReady_cellWait (s : State) (i : Nat) (ws : List CtxWrite) : (s.setReady i ws).cellWait = s.cellWait := rfl
@[simp] theorem setReady_feeds (s : State) (i : Nat) (ws : List CtxWrite) : (s.setReady i ws).feeds = s.feeds := rfl
@[simp] theorem setReady_sinks (s : State) (i : Nat) (ws : List CtxWrite) : (s.setReady i ws).sinks = s.sinks := rfl
@[simp] theorem setReady_statusQueue (s : State) (i : Nat) (ws : List CtxWrite) : (s.setReady i ws).statusQueue = s.statusQueue := rfl
@[simp] theorem setReady_emitQueue (s : State) (i : Nat) (ws : List CtxWrite) : (s.setReady i ws).emitQueue = s.emitQueue := rfl
@[simp] theorem setReady_emit (s : State) (i : Nat) (ws : List CtxWrite) : (s.setReady i ws).emit = s.emit := rfl
@[simp] theorem setReady_solveQueue (s : State) (i : Nat) (ws : List CtxWrite) : (s.setReady i ws).solveQueue = s.solveQueue := rfl
@[simp] theorem setReady_solving (s : State) (i : Nat) (ws : List CtxWrite) : (s.setReady i ws).solving = s.solving := rfl
@[simp] theorem setReady_combineQueue (s : State) (i : Nat) (ws : List CtxWrite) : (s.setReady i ws).combineQueue = s.combineQueue := rfl
@[simp] theorem setReady_combining (s : State) (i : Nat) (ws : List CtxWrite) : (s.setReady i ws).combining = s.combining := rfl
@[simp] theorem setReady_held (s : State) (i : Nat) (ws : List CtxWrite) : (s.setReady i ws).held = s.held := rfl
@[simp] theorem setReady_store (s : State) (i : Nat) (ws : List CtxWrite) : (s.setReady i ws).store = s.store := rfl
@[simp] theorem setReady_pending (s : State) (i : Nat) (ws : List CtxWrite) : (s.setReady i ws).pending = s.pending := rfl
@[simp] theorem setReady_issued (s : State) (i : Nat) (ws : List CtxWrite) : (s.setReady i ws).issued = s.issued := rfl
@[simp] theorem setReady_draws (s : State) (i : Nat) (ws : List CtxWrite) : (s.setReady i ws).draws = s.draws := rfl

/-! ### A write joins the tail of the write queue. -/

@[simp] theorem enqueue_ctl (s : State) (q : QWrite) : (s.enqueue q).ctl = s.ctl := rfl
@[simp] theorem enqueue_walker (s : State) (q : QWrite) : (s.enqueue q).walker = s.walker := rfl
@[simp] theorem enqueue_gov (s : State) (q : QWrite) : (s.enqueue q).gov = s.gov := rfl
@[simp] theorem enqueue_ctxs (s : State) (q : QWrite) : (s.enqueue q).ctxs = s.ctxs := rfl
@[simp] theorem enqueue_freeCells (s : State) (q : QWrite) : (s.enqueue q).freeCells = s.freeCells := rfl
@[simp] theorem enqueue_cellWait (s : State) (q : QWrite) : (s.enqueue q).cellWait = s.cellWait := rfl
@[simp] theorem enqueue_ready (s : State) (q : QWrite) : (s.enqueue q).ready = s.ready := rfl
@[simp] theorem enqueue_feeds (s : State) (q : QWrite) : (s.enqueue q).feeds = s.feeds := rfl
@[simp] theorem enqueue_sinks (s : State) (q : QWrite) : (s.enqueue q).sinks = s.sinks := rfl
@[simp] theorem enqueue_statusQueue (s : State) (q : QWrite) : (s.enqueue q).statusQueue = s.statusQueue := rfl
@[simp] theorem enqueue_emitQueue (s : State) (q : QWrite) : (s.enqueue q).emitQueue = s.emitQueue := rfl
@[simp] theorem enqueue_emit (s : State) (q : QWrite) : (s.enqueue q).emit = s.emit := rfl
@[simp] theorem enqueue_solveQueue (s : State) (q : QWrite) : (s.enqueue q).solveQueue = s.solveQueue := rfl
@[simp] theorem enqueue_solving (s : State) (q : QWrite) : (s.enqueue q).solving = s.solving := rfl
@[simp] theorem enqueue_combineQueue (s : State) (q : QWrite) : (s.enqueue q).combineQueue = s.combineQueue := rfl
@[simp] theorem enqueue_combining (s : State) (q : QWrite) : (s.enqueue q).combining = s.combining := rfl
@[simp] theorem enqueue_held (s : State) (q : QWrite) : (s.enqueue q).held = s.held := rfl
@[simp] theorem enqueue_store (s : State) (q : QWrite) : (s.enqueue q).store = s.store := rfl
@[simp] theorem enqueue_pending (s : State) (q : QWrite) : (s.enqueue q).pending = s.pending := rfl
@[simp] theorem enqueue_issued (s : State) (q : QWrite) : (s.enqueue q).issued = s.issued := rfl
@[simp] theorem enqueue_draws (s : State) (q : QWrite) : (s.enqueue q).draws = s.draws := rfl

/-! ### A request goes onto the link. -/

@[simp] theorem log_ctl (s : State) (r : LinkRequest) : (s.log r).ctl = s.ctl := rfl
@[simp] theorem log_walker (s : State) (r : LinkRequest) : (s.log r).walker = s.walker := rfl
@[simp] theorem log_gov (s : State) (r : LinkRequest) : (s.log r).gov = s.gov := rfl
@[simp] theorem log_port (s : State) (r : LinkRequest) : (s.log r).port = s.port := rfl
@[simp] theorem log_ctxs (s : State) (r : LinkRequest) : (s.log r).ctxs = s.ctxs := rfl
@[simp] theorem log_freeCells (s : State) (r : LinkRequest) : (s.log r).freeCells = s.freeCells := rfl
@[simp] theorem log_cellWait (s : State) (r : LinkRequest) : (s.log r).cellWait = s.cellWait := rfl
@[simp] theorem log_ready (s : State) (r : LinkRequest) : (s.log r).ready = s.ready := rfl
@[simp] theorem log_feeds (s : State) (r : LinkRequest) : (s.log r).feeds = s.feeds := rfl
@[simp] theorem log_sinks (s : State) (r : LinkRequest) : (s.log r).sinks = s.sinks := rfl
@[simp] theorem log_statusQueue (s : State) (r : LinkRequest) : (s.log r).statusQueue = s.statusQueue := rfl
@[simp] theorem log_emitQueue (s : State) (r : LinkRequest) : (s.log r).emitQueue = s.emitQueue := rfl
@[simp] theorem log_emit (s : State) (r : LinkRequest) : (s.log r).emit = s.emit := rfl
@[simp] theorem log_solveQueue (s : State) (r : LinkRequest) : (s.log r).solveQueue = s.solveQueue := rfl
@[simp] theorem log_solving (s : State) (r : LinkRequest) : (s.log r).solving = s.solving := rfl
@[simp] theorem log_combineQueue (s : State) (r : LinkRequest) : (s.log r).combineQueue = s.combineQueue := rfl
@[simp] theorem log_combining (s : State) (r : LinkRequest) : (s.log r).combining = s.combining := rfl
@[simp] theorem log_held (s : State) (r : LinkRequest) : (s.log r).held = s.held := rfl
@[simp] theorem log_store (s : State) (r : LinkRequest) : (s.log r).store = s.store := rfl
@[simp] theorem log_pending (s : State) (r : LinkRequest) : (s.log r).pending = s.pending := rfl
@[simp] theorem log_draws (s : State) (r : LinkRequest) : (s.log r).draws = s.draws := rfl

/-! ### A cause of attention. -/

@[simp] theorem cause_walker (s : State) : s.cause.walker = s.walker := rfl
@[simp] theorem cause_gov (s : State) : s.cause.gov = s.gov := rfl
@[simp] theorem cause_port (s : State) : s.cause.port = s.port := rfl
@[simp] theorem cause_ctxs (s : State) : s.cause.ctxs = s.ctxs := rfl
@[simp] theorem cause_freeCells (s : State) : s.cause.freeCells = s.freeCells := rfl
@[simp] theorem cause_cellWait (s : State) : s.cause.cellWait = s.cellWait := rfl
@[simp] theorem cause_ready (s : State) : s.cause.ready = s.ready := rfl
@[simp] theorem cause_feeds (s : State) : s.cause.feeds = s.feeds := rfl
@[simp] theorem cause_sinks (s : State) : s.cause.sinks = s.sinks := rfl
@[simp] theorem cause_statusQueue (s : State) : s.cause.statusQueue = s.statusQueue := rfl
@[simp] theorem cause_emitQueue (s : State) : s.cause.emitQueue = s.emitQueue := rfl
@[simp] theorem cause_emit (s : State) : s.cause.emit = s.emit := rfl
@[simp] theorem cause_solveQueue (s : State) : s.cause.solveQueue = s.solveQueue := rfl
@[simp] theorem cause_solving (s : State) : s.cause.solving = s.solving := rfl
@[simp] theorem cause_combineQueue (s : State) : s.cause.combineQueue = s.combineQueue := rfl
@[simp] theorem cause_combining (s : State) : s.cause.combining = s.combining := rfl
@[simp] theorem cause_held (s : State) : s.cause.held = s.held := rfl
@[simp] theorem cause_store (s : State) : s.cause.store = s.store := rfl
@[simp] theorem cause_pending (s : State) : s.cause.pending = s.pending := rfl
@[simp] theorem cause_issued (s : State) : s.cause.issued = s.issued := rfl
@[simp] theorem cause_draws (s : State) : s.cause.draws = s.draws := rfl

/-! ### A record is handled. -/

@[simp] theorem handle_ctl (s : State) (d : Disposition) (r : Nat) (b : List Byte) : (s.handle d r b).ctl = s.ctl := rfl
@[simp] theorem handle_gov (s : State) (d : Disposition) (r : Nat) (b : List Byte) : (s.handle d r b).gov = s.gov := rfl
@[simp] theorem handle_port (s : State) (d : Disposition) (r : Nat) (b : List Byte) : (s.handle d r b).port = s.port := rfl
@[simp] theorem handle_ctxs (s : State) (d : Disposition) (r : Nat) (b : List Byte) : (s.handle d r b).ctxs = s.ctxs := rfl
@[simp] theorem handle_freeCells (s : State) (d : Disposition) (r : Nat) (b : List Byte) : (s.handle d r b).freeCells = s.freeCells := rfl
@[simp] theorem handle_cellWait (s : State) (d : Disposition) (r : Nat) (b : List Byte) : (s.handle d r b).cellWait = s.cellWait := rfl
@[simp] theorem handle_ready (s : State) (d : Disposition) (r : Nat) (b : List Byte) : (s.handle d r b).ready = s.ready := rfl
@[simp] theorem handle_feeds (s : State) (d : Disposition) (r : Nat) (b : List Byte) : (s.handle d r b).feeds = s.feeds := rfl
@[simp] theorem handle_sinks (s : State) (d : Disposition) (r : Nat) (b : List Byte) : (s.handle d r b).sinks = s.sinks := rfl
@[simp] theorem handle_statusQueue (s : State) (d : Disposition) (r : Nat) (b : List Byte) : (s.handle d r b).statusQueue = s.statusQueue := rfl
@[simp] theorem handle_emitQueue (s : State) (d : Disposition) (r : Nat) (b : List Byte) : (s.handle d r b).emitQueue = s.emitQueue := rfl
@[simp] theorem handle_emit (s : State) (d : Disposition) (r : Nat) (b : List Byte) : (s.handle d r b).emit = s.emit := rfl
@[simp] theorem handle_solveQueue (s : State) (d : Disposition) (r : Nat) (b : List Byte) : (s.handle d r b).solveQueue = s.solveQueue := rfl
@[simp] theorem handle_solving (s : State) (d : Disposition) (r : Nat) (b : List Byte) : (s.handle d r b).solving = s.solving := rfl
@[simp] theorem handle_combineQueue (s : State) (d : Disposition) (r : Nat) (b : List Byte) : (s.handle d r b).combineQueue = s.combineQueue := rfl
@[simp] theorem handle_combining (s : State) (d : Disposition) (r : Nat) (b : List Byte) : (s.handle d r b).combining = s.combining := rfl
@[simp] theorem handle_held (s : State) (d : Disposition) (r : Nat) (b : List Byte) : (s.handle d r b).held = s.held := rfl
@[simp] theorem handle_store (s : State) (d : Disposition) (r : Nat) (b : List Byte) : (s.handle d r b).store = s.store := rfl
@[simp] theorem handle_pending (s : State) (d : Disposition) (r : Nat) (b : List Byte) : (s.handle d r b).pending = s.pending := rfl
@[simp] theorem handle_issued (s : State) (d : Disposition) (r : Nat) (b : List Byte) : (s.handle d r b).issued = s.issued := rfl
@[simp] theorem handle_draws (s : State) (d : Disposition) (r : Nat) (b : List Byte) : (s.handle d r b).draws = s.draws := rfl

/-! ### A record is refused. -/

@[simp] theorem refuseRecord_ctl (s : State) (r : Reason) : (s.refuseRecord r).ctl = s.ctl := rfl
@[simp] theorem refuseRecord_gov (s : State) (r : Reason) : (s.refuseRecord r).gov = s.gov := rfl
@[simp] theorem refuseRecord_port (s : State) (r : Reason) : (s.refuseRecord r).port = s.port := rfl
@[simp] theorem refuseRecord_ctxs (s : State) (r : Reason) : (s.refuseRecord r).ctxs = s.ctxs := rfl
@[simp] theorem refuseRecord_freeCells (s : State) (r : Reason) : (s.refuseRecord r).freeCells = s.freeCells := rfl
@[simp] theorem refuseRecord_cellWait (s : State) (r : Reason) : (s.refuseRecord r).cellWait = s.cellWait := rfl
@[simp] theorem refuseRecord_ready (s : State) (r : Reason) : (s.refuseRecord r).ready = s.ready := rfl
@[simp] theorem refuseRecord_feeds (s : State) (r : Reason) : (s.refuseRecord r).feeds = s.feeds := rfl
@[simp] theorem refuseRecord_sinks (s : State) (r : Reason) : (s.refuseRecord r).sinks = s.sinks := rfl
@[simp] theorem refuseRecord_statusQueue (s : State) (r : Reason) : (s.refuseRecord r).statusQueue = s.statusQueue := rfl
@[simp] theorem refuseRecord_emitQueue (s : State) (r : Reason) : (s.refuseRecord r).emitQueue = s.emitQueue := rfl
@[simp] theorem refuseRecord_emit (s : State) (r : Reason) : (s.refuseRecord r).emit = s.emit := rfl
@[simp] theorem refuseRecord_solveQueue (s : State) (r : Reason) : (s.refuseRecord r).solveQueue = s.solveQueue := rfl
@[simp] theorem refuseRecord_solving (s : State) (r : Reason) : (s.refuseRecord r).solving = s.solving := rfl
@[simp] theorem refuseRecord_combineQueue (s : State) (r : Reason) : (s.refuseRecord r).combineQueue = s.combineQueue := rfl
@[simp] theorem refuseRecord_combining (s : State) (r : Reason) : (s.refuseRecord r).combining = s.combining := rfl
@[simp] theorem refuseRecord_held (s : State) (r : Reason) : (s.refuseRecord r).held = s.held := rfl
@[simp] theorem refuseRecord_store (s : State) (r : Reason) : (s.refuseRecord r).store = s.store := rfl
@[simp] theorem refuseRecord_pending (s : State) (r : Reason) : (s.refuseRecord r).pending = s.pending := rfl
@[simp] theorem refuseRecord_issued (s : State) (r : Reason) : (s.refuseRecord r).issued = s.issued := rfl
@[simp] theorem refuseRecord_draws (s : State) (r : Reason) : (s.refuseRecord r).draws = s.draws := rfl

/-! ### A DROP that brings a role update is handled. -/

@[simp] theorem handleDrop_ctl (s : State) (i : Nat) : (s.handleDrop i).ctl = s.ctl := rfl
@[simp] theorem handleDrop_gov (s : State) (i : Nat) : (s.handleDrop i).gov = s.gov := rfl
@[simp] theorem handleDrop_port (s : State) (i : Nat) : (s.handleDrop i).port = s.port := rfl
@[simp] theorem handleDrop_ctxs (s : State) (i : Nat) : (s.handleDrop i).ctxs = s.ctxs := rfl
@[simp] theorem handleDrop_freeCells (s : State) (i : Nat) : (s.handleDrop i).freeCells = s.freeCells := rfl
@[simp] theorem handleDrop_cellWait (s : State) (i : Nat) : (s.handleDrop i).cellWait = s.cellWait := rfl
@[simp] theorem handleDrop_ready (s : State) (i : Nat) : (s.handleDrop i).ready = s.ready := rfl
@[simp] theorem handleDrop_feeds (s : State) (i : Nat) : (s.handleDrop i).feeds = s.feeds := rfl
@[simp] theorem handleDrop_sinks (s : State) (i : Nat) : (s.handleDrop i).sinks = s.sinks := rfl
@[simp] theorem handleDrop_statusQueue (s : State) (i : Nat) : (s.handleDrop i).statusQueue = s.statusQueue := rfl
@[simp] theorem handleDrop_emitQueue (s : State) (i : Nat) : (s.handleDrop i).emitQueue = s.emitQueue := rfl
@[simp] theorem handleDrop_emit (s : State) (i : Nat) : (s.handleDrop i).emit = s.emit := rfl
@[simp] theorem handleDrop_solveQueue (s : State) (i : Nat) : (s.handleDrop i).solveQueue = s.solveQueue := rfl
@[simp] theorem handleDrop_solving (s : State) (i : Nat) : (s.handleDrop i).solving = s.solving := rfl
@[simp] theorem handleDrop_combineQueue (s : State) (i : Nat) : (s.handleDrop i).combineQueue = s.combineQueue := rfl
@[simp] theorem handleDrop_combining (s : State) (i : Nat) : (s.handleDrop i).combining = s.combining := rfl
@[simp] theorem handleDrop_held (s : State) (i : Nat) : (s.handleDrop i).held = s.held := rfl
@[simp] theorem handleDrop_store (s : State) (i : Nat) : (s.handleDrop i).store = s.store := rfl
@[simp] theorem handleDrop_pending (s : State) (i : Nat) : (s.handleDrop i).pending = s.pending := rfl
@[simp] theorem handleDrop_issued (s : State) (i : Nat) : (s.handleDrop i).issued = s.issued := rfl
@[simp] theorem handleDrop_draws (s : State) (i : Nat) : (s.handleDrop i).draws = s.draws := rfl
@[simp] theorem handleDrop_dropped (s : State) (i : Nat) : (s.handleDrop i).walker.dropped = some i := rfl
@[simp] theorem handleDrop_walker_ready (s : State) (i : Nat) :
    (s.handleDrop i).walker.ready = (s.handle .done 0 []).walker.ready := rfl

/-! ### The Walker asks for a fetch. -/

@[simp] theorem askFetch_ctl (s : State) (k : FetchKind) (a : Word64) : (s.askFetch k a).ctl = s.ctl := rfl
@[simp] theorem askFetch_gov (s : State) (k : FetchKind) (a : Word64) : (s.askFetch k a).gov = s.gov := rfl
@[simp] theorem askFetch_port (s : State) (k : FetchKind) (a : Word64) : (s.askFetch k a).port = s.port := rfl
@[simp] theorem askFetch_ctxs (s : State) (k : FetchKind) (a : Word64) : (s.askFetch k a).ctxs = s.ctxs := rfl
@[simp] theorem askFetch_freeCells (s : State) (k : FetchKind) (a : Word64) : (s.askFetch k a).freeCells = s.freeCells := rfl
@[simp] theorem askFetch_cellWait (s : State) (k : FetchKind) (a : Word64) : (s.askFetch k a).cellWait = s.cellWait := rfl
@[simp] theorem askFetch_ready (s : State) (k : FetchKind) (a : Word64) : (s.askFetch k a).ready = s.ready := rfl
@[simp] theorem askFetch_feeds (s : State) (k : FetchKind) (a : Word64) : (s.askFetch k a).feeds = s.feeds := rfl
@[simp] theorem askFetch_sinks (s : State) (k : FetchKind) (a : Word64) : (s.askFetch k a).sinks = s.sinks := rfl
@[simp] theorem askFetch_statusQueue (s : State) (k : FetchKind) (a : Word64) : (s.askFetch k a).statusQueue = s.statusQueue := rfl
@[simp] theorem askFetch_emitQueue (s : State) (k : FetchKind) (a : Word64) : (s.askFetch k a).emitQueue = s.emitQueue := rfl
@[simp] theorem askFetch_emit (s : State) (k : FetchKind) (a : Word64) : (s.askFetch k a).emit = s.emit := rfl
@[simp] theorem askFetch_solveQueue (s : State) (k : FetchKind) (a : Word64) : (s.askFetch k a).solveQueue = s.solveQueue := rfl
@[simp] theorem askFetch_solving (s : State) (k : FetchKind) (a : Word64) : (s.askFetch k a).solving = s.solving := rfl
@[simp] theorem askFetch_combineQueue (s : State) (k : FetchKind) (a : Word64) : (s.askFetch k a).combineQueue = s.combineQueue := rfl
@[simp] theorem askFetch_combining (s : State) (k : FetchKind) (a : Word64) : (s.askFetch k a).combining = s.combining := rfl
@[simp] theorem askFetch_held (s : State) (k : FetchKind) (a : Word64) : (s.askFetch k a).held = s.held := rfl
@[simp] theorem askFetch_store (s : State) (k : FetchKind) (a : Word64) : (s.askFetch k a).store = s.store := rfl
@[simp] theorem askFetch_pending (s : State) (k : FetchKind) (a : Word64) : (s.askFetch k a).pending = s.pending := rfl
@[simp] theorem askFetch_issued (s : State) (k : FetchKind) (a : Word64) : (s.askFetch k a).issued = s.issued := rfl
@[simp] theorem askFetch_draws (s : State) (k : FetchKind) (a : Word64) : (s.askFetch k a).draws = s.draws := rfl

/-! ### The fetch in hand is done with. -/

@[simp] theorem clearFetch_ctl (s : State) : s.clearFetch.ctl = s.ctl := rfl
@[simp] theorem clearFetch_walker (s : State) : s.clearFetch.walker = s.walker := rfl
@[simp] theorem clearFetch_gov (s : State) : s.clearFetch.gov = s.gov := rfl
@[simp] theorem clearFetch_ctxs (s : State) : s.clearFetch.ctxs = s.ctxs := rfl
@[simp] theorem clearFetch_freeCells (s : State) : s.clearFetch.freeCells = s.freeCells := rfl
@[simp] theorem clearFetch_cellWait (s : State) : s.clearFetch.cellWait = s.cellWait := rfl
@[simp] theorem clearFetch_ready (s : State) : s.clearFetch.ready = s.ready := rfl
@[simp] theorem clearFetch_feeds (s : State) : s.clearFetch.feeds = s.feeds := rfl
@[simp] theorem clearFetch_sinks (s : State) : s.clearFetch.sinks = s.sinks := rfl
@[simp] theorem clearFetch_statusQueue (s : State) : s.clearFetch.statusQueue = s.statusQueue := rfl
@[simp] theorem clearFetch_emitQueue (s : State) : s.clearFetch.emitQueue = s.emitQueue := rfl
@[simp] theorem clearFetch_emit (s : State) : s.clearFetch.emit = s.emit := rfl
@[simp] theorem clearFetch_solveQueue (s : State) : s.clearFetch.solveQueue = s.solveQueue := rfl
@[simp] theorem clearFetch_solving (s : State) : s.clearFetch.solving = s.solving := rfl
@[simp] theorem clearFetch_combineQueue (s : State) : s.clearFetch.combineQueue = s.combineQueue := rfl
@[simp] theorem clearFetch_combining (s : State) : s.clearFetch.combining = s.combining := rfl
@[simp] theorem clearFetch_held (s : State) : s.clearFetch.held = s.held := rfl
@[simp] theorem clearFetch_store (s : State) : s.clearFetch.store = s.store := rfl
@[simp] theorem clearFetch_pending (s : State) : s.clearFetch.pending = s.pending := rfl
@[simp] theorem clearFetch_issued (s : State) : s.clearFetch.issued = s.issued := rfl
@[simp] theorem clearFetch_draws (s : State) : s.clearFetch.draws = s.draws := rfl

/-! ### A staging slot is freed. -/

@[simp] theorem freeStaging_ctl (s : State) (k : Nat) : (s.freeStaging k).ctl = s.ctl := rfl
@[simp] theorem freeStaging_walker (s : State) (k : Nat) : (s.freeStaging k).walker = s.walker := rfl
@[simp] theorem freeStaging_gov (s : State) (k : Nat) : (s.freeStaging k).gov = s.gov := rfl
@[simp] theorem freeStaging_ctxs (s : State) (k : Nat) : (s.freeStaging k).ctxs = s.ctxs := rfl
@[simp] theorem freeStaging_freeCells (s : State) (k : Nat) : (s.freeStaging k).freeCells = s.freeCells := rfl
@[simp] theorem freeStaging_cellWait (s : State) (k : Nat) : (s.freeStaging k).cellWait = s.cellWait := rfl
@[simp] theorem freeStaging_ready (s : State) (k : Nat) : (s.freeStaging k).ready = s.ready := rfl
@[simp] theorem freeStaging_feeds (s : State) (k : Nat) : (s.freeStaging k).feeds = s.feeds := rfl
@[simp] theorem freeStaging_sinks (s : State) (k : Nat) : (s.freeStaging k).sinks = s.sinks := rfl
@[simp] theorem freeStaging_statusQueue (s : State) (k : Nat) : (s.freeStaging k).statusQueue = s.statusQueue := rfl
@[simp] theorem freeStaging_emitQueue (s : State) (k : Nat) : (s.freeStaging k).emitQueue = s.emitQueue := rfl
@[simp] theorem freeStaging_emit (s : State) (k : Nat) : (s.freeStaging k).emit = s.emit := rfl
@[simp] theorem freeStaging_solveQueue (s : State) (k : Nat) : (s.freeStaging k).solveQueue = s.solveQueue := rfl
@[simp] theorem freeStaging_solving (s : State) (k : Nat) : (s.freeStaging k).solving = s.solving := rfl
@[simp] theorem freeStaging_combineQueue (s : State) (k : Nat) : (s.freeStaging k).combineQueue = s.combineQueue := rfl
@[simp] theorem freeStaging_combining (s : State) (k : Nat) : (s.freeStaging k).combining = s.combining := rfl
@[simp] theorem freeStaging_held (s : State) (k : Nat) : (s.freeStaging k).held = s.held := rfl
@[simp] theorem freeStaging_store (s : State) (k : Nat) : (s.freeStaging k).store = s.store := rfl
@[simp] theorem freeStaging_pending (s : State) (k : Nat) : (s.freeStaging k).pending = s.pending := rfl
@[simp] theorem freeStaging_issued (s : State) (k : Nat) : (s.freeStaging k).issued = s.issued := rfl
@[simp] theorem freeStaging_draws (s : State) (k : Nat) : (s.freeStaging k).draws = s.draws := rfl

/-! ### A context joins the solve queue. -/

@[simp] theorem joinSolve_ctl (s : State) (i : Nat) : (s.joinSolve i).ctl = s.ctl := rfl
@[simp] theorem joinSolve_walker (s : State) (i : Nat) : (s.joinSolve i).walker = s.walker := rfl
@[simp] theorem joinSolve_gov (s : State) (i : Nat) : (s.joinSolve i).gov = s.gov := rfl
@[simp] theorem joinSolve_port (s : State) (i : Nat) : (s.joinSolve i).port = s.port := rfl
@[simp] theorem joinSolve_ctxs (s : State) (i : Nat) : (s.joinSolve i).ctxs = s.ctxs := rfl
@[simp] theorem joinSolve_freeCells (s : State) (i : Nat) : (s.joinSolve i).freeCells = s.freeCells := rfl
@[simp] theorem joinSolve_cellWait (s : State) (i : Nat) : (s.joinSolve i).cellWait = s.cellWait := rfl
@[simp] theorem joinSolve_ready (s : State) (i : Nat) : (s.joinSolve i).ready = s.ready := rfl
@[simp] theorem joinSolve_feeds (s : State) (i : Nat) : (s.joinSolve i).feeds = s.feeds := rfl
@[simp] theorem joinSolve_sinks (s : State) (i : Nat) : (s.joinSolve i).sinks = s.sinks := rfl
@[simp] theorem joinSolve_statusQueue (s : State) (i : Nat) : (s.joinSolve i).statusQueue = s.statusQueue := rfl
@[simp] theorem joinSolve_emitQueue (s : State) (i : Nat) : (s.joinSolve i).emitQueue = s.emitQueue := rfl
@[simp] theorem joinSolve_emit (s : State) (i : Nat) : (s.joinSolve i).emit = s.emit := rfl
@[simp] theorem joinSolve_solving (s : State) (i : Nat) : (s.joinSolve i).solving = s.solving := rfl
@[simp] theorem joinSolve_combineQueue (s : State) (i : Nat) : (s.joinSolve i).combineQueue = s.combineQueue := rfl
@[simp] theorem joinSolve_combining (s : State) (i : Nat) : (s.joinSolve i).combining = s.combining := rfl
@[simp] theorem joinSolve_held (s : State) (i : Nat) : (s.joinSolve i).held = s.held := rfl
@[simp] theorem joinSolve_store (s : State) (i : Nat) : (s.joinSolve i).store = s.store := rfl
@[simp] theorem joinSolve_pending (s : State) (i : Nat) : (s.joinSolve i).pending = s.pending := rfl
@[simp] theorem joinSolve_issued (s : State) (i : Nat) : (s.joinSolve i).issued = s.issued := rfl
@[simp] theorem joinSolve_draws (s : State) (i : Nat) : (s.joinSolve i).draws = s.draws := rfl

/-! ### One context changes. -/

@[simp] theorem modCtx_ctl (s : State) (i : Nat) (f : Ctx → Ctx) : (s.modCtx i f).ctl = s.ctl := by unfold State.modCtx; split <;> rfl
@[simp] theorem modCtx_walker (s : State) (i : Nat) (f : Ctx → Ctx) : (s.modCtx i f).walker = s.walker := by unfold State.modCtx; split <;> rfl
@[simp] theorem modCtx_gov (s : State) (i : Nat) (f : Ctx → Ctx) : (s.modCtx i f).gov = s.gov := by unfold State.modCtx; split <;> rfl
@[simp] theorem modCtx_port (s : State) (i : Nat) (f : Ctx → Ctx) : (s.modCtx i f).port = s.port := by unfold State.modCtx; split <;> rfl
@[simp] theorem modCtx_freeCells (s : State) (i : Nat) (f : Ctx → Ctx) : (s.modCtx i f).freeCells = s.freeCells := by unfold State.modCtx; split <;> rfl
@[simp] theorem modCtx_cellWait (s : State) (i : Nat) (f : Ctx → Ctx) : (s.modCtx i f).cellWait = s.cellWait := by unfold State.modCtx; split <;> rfl
@[simp] theorem modCtx_ready (s : State) (i : Nat) (f : Ctx → Ctx) : (s.modCtx i f).ready = s.ready := by unfold State.modCtx; split <;> rfl
@[simp] theorem modCtx_feeds (s : State) (i : Nat) (f : Ctx → Ctx) : (s.modCtx i f).feeds = s.feeds := by unfold State.modCtx; split <;> rfl
@[simp] theorem modCtx_sinks (s : State) (i : Nat) (f : Ctx → Ctx) : (s.modCtx i f).sinks = s.sinks := by unfold State.modCtx; split <;> rfl
@[simp] theorem modCtx_statusQueue (s : State) (i : Nat) (f : Ctx → Ctx) : (s.modCtx i f).statusQueue = s.statusQueue := by unfold State.modCtx; split <;> rfl
@[simp] theorem modCtx_emitQueue (s : State) (i : Nat) (f : Ctx → Ctx) : (s.modCtx i f).emitQueue = s.emitQueue := by unfold State.modCtx; split <;> rfl
@[simp] theorem modCtx_emit (s : State) (i : Nat) (f : Ctx → Ctx) : (s.modCtx i f).emit = s.emit := by unfold State.modCtx; split <;> rfl
@[simp] theorem modCtx_solveQueue (s : State) (i : Nat) (f : Ctx → Ctx) : (s.modCtx i f).solveQueue = s.solveQueue := by unfold State.modCtx; split <;> rfl
@[simp] theorem modCtx_solving (s : State) (i : Nat) (f : Ctx → Ctx) : (s.modCtx i f).solving = s.solving := by unfold State.modCtx; split <;> rfl
@[simp] theorem modCtx_combineQueue (s : State) (i : Nat) (f : Ctx → Ctx) : (s.modCtx i f).combineQueue = s.combineQueue := by unfold State.modCtx; split <;> rfl
@[simp] theorem modCtx_combining (s : State) (i : Nat) (f : Ctx → Ctx) : (s.modCtx i f).combining = s.combining := by unfold State.modCtx; split <;> rfl
@[simp] theorem modCtx_held (s : State) (i : Nat) (f : Ctx → Ctx) : (s.modCtx i f).held = s.held := by unfold State.modCtx; split <;> rfl
@[simp] theorem modCtx_store (s : State) (i : Nat) (f : Ctx → Ctx) : (s.modCtx i f).store = s.store := by unfold State.modCtx; split <;> rfl
@[simp] theorem modCtx_pending (s : State) (i : Nat) (f : Ctx → Ctx) : (s.modCtx i f).pending = s.pending := by unfold State.modCtx; split <;> rfl
@[simp] theorem modCtx_issued (s : State) (i : Nat) (f : Ctx → Ctx) : (s.modCtx i f).issued = s.issued := by unfold State.modCtx; split <;> rfl
@[simp] theorem modCtx_draws (s : State) (i : Nat) (f : Ctx → Ctx) : (s.modCtx i f).draws = s.draws := by unfold State.modCtx; split <;> rfl

/-! ### A progress write is owed. -/

@[simp] theorem oweProgress_ctl (s : State) (i : Nat) : (s.oweProgress i).ctl = s.ctl := by unfold State.oweProgress; (repeat' split) <;> rfl
@[simp] theorem oweProgress_walker (s : State) (i : Nat) : (s.oweProgress i).walker = s.walker := by unfold State.oweProgress; (repeat' split) <;> rfl
@[simp] theorem oweProgress_gov (s : State) (i : Nat) : (s.oweProgress i).gov = s.gov := by unfold State.oweProgress; (repeat' split) <;> rfl
@[simp] theorem oweProgress_port (s : State) (i : Nat) : (s.oweProgress i).port = s.port := by unfold State.oweProgress; (repeat' split) <;> rfl
@[simp] theorem oweProgress_ctxs (s : State) (i : Nat) : (s.oweProgress i).ctxs = s.ctxs := by unfold State.oweProgress; (repeat' split) <;> rfl
@[simp] theorem oweProgress_freeCells (s : State) (i : Nat) : (s.oweProgress i).freeCells = s.freeCells := by unfold State.oweProgress; (repeat' split) <;> rfl
@[simp] theorem oweProgress_cellWait (s : State) (i : Nat) : (s.oweProgress i).cellWait = s.cellWait := by unfold State.oweProgress; (repeat' split) <;> rfl
@[simp] theorem oweProgress_feeds (s : State) (i : Nat) : (s.oweProgress i).feeds = s.feeds := by unfold State.oweProgress; (repeat' split) <;> rfl
@[simp] theorem oweProgress_sinks (s : State) (i : Nat) : (s.oweProgress i).sinks = s.sinks := by unfold State.oweProgress; (repeat' split) <;> rfl
@[simp] theorem oweProgress_statusQueue (s : State) (i : Nat) : (s.oweProgress i).statusQueue = s.statusQueue := by unfold State.oweProgress; (repeat' split) <;> rfl
@[simp] theorem oweProgress_emitQueue (s : State) (i : Nat) : (s.oweProgress i).emitQueue = s.emitQueue := by unfold State.oweProgress; (repeat' split) <;> rfl
@[simp] theorem oweProgress_emit (s : State) (i : Nat) : (s.oweProgress i).emit = s.emit := by unfold State.oweProgress; (repeat' split) <;> rfl
@[simp] theorem oweProgress_solveQueue (s : State) (i : Nat) : (s.oweProgress i).solveQueue = s.solveQueue := by unfold State.oweProgress; (repeat' split) <;> rfl
@[simp] theorem oweProgress_solving (s : State) (i : Nat) : (s.oweProgress i).solving = s.solving := by unfold State.oweProgress; (repeat' split) <;> rfl
@[simp] theorem oweProgress_combineQueue (s : State) (i : Nat) : (s.oweProgress i).combineQueue = s.combineQueue := by unfold State.oweProgress; (repeat' split) <;> rfl
@[simp] theorem oweProgress_combining (s : State) (i : Nat) : (s.oweProgress i).combining = s.combining := by unfold State.oweProgress; (repeat' split) <;> rfl
@[simp] theorem oweProgress_held (s : State) (i : Nat) : (s.oweProgress i).held = s.held := by unfold State.oweProgress; (repeat' split) <;> rfl
@[simp] theorem oweProgress_store (s : State) (i : Nat) : (s.oweProgress i).store = s.store := by unfold State.oweProgress; (repeat' split) <;> rfl
@[simp] theorem oweProgress_pending (s : State) (i : Nat) : (s.oweProgress i).pending = s.pending := by unfold State.oweProgress; (repeat' split) <;> rfl
@[simp] theorem oweProgress_issued (s : State) (i : Nat) : (s.oweProgress i).issued = s.issued := by unfold State.oweProgress; (repeat' split) <;> rfl
@[simp] theorem oweProgress_draws (s : State) (i : Nat) : (s.oweProgress i).draws = s.draws := by unfold State.oweProgress; (repeat' split) <;> rfl

/-! ### Room is reported to a BLOCKED Walker. -/

@[simp] theorem reportRoom_ctl (s : State) (k : Nat) : (s.reportRoom k).ctl = s.ctl := by unfold State.reportRoom; split <;> rfl
@[simp] theorem reportRoom_gov (s : State) (k : Nat) : (s.reportRoom k).gov = s.gov := by unfold State.reportRoom; split <;> rfl
@[simp] theorem reportRoom_port (s : State) (k : Nat) : (s.reportRoom k).port = s.port := by unfold State.reportRoom; split <;> rfl
@[simp] theorem reportRoom_ctxs (s : State) (k : Nat) : (s.reportRoom k).ctxs = s.ctxs := by unfold State.reportRoom; split <;> rfl
@[simp] theorem reportRoom_freeCells (s : State) (k : Nat) : (s.reportRoom k).freeCells = s.freeCells := by unfold State.reportRoom; split <;> rfl
@[simp] theorem reportRoom_cellWait (s : State) (k : Nat) : (s.reportRoom k).cellWait = s.cellWait := by unfold State.reportRoom; split <;> rfl
@[simp] theorem reportRoom_ready (s : State) (k : Nat) : (s.reportRoom k).ready = s.ready := by unfold State.reportRoom; split <;> rfl
@[simp] theorem reportRoom_feeds (s : State) (k : Nat) : (s.reportRoom k).feeds = s.feeds := by unfold State.reportRoom; split <;> rfl
@[simp] theorem reportRoom_sinks (s : State) (k : Nat) : (s.reportRoom k).sinks = s.sinks := by unfold State.reportRoom; split <;> rfl
@[simp] theorem reportRoom_statusQueue (s : State) (k : Nat) : (s.reportRoom k).statusQueue = s.statusQueue := by unfold State.reportRoom; split <;> rfl
@[simp] theorem reportRoom_emitQueue (s : State) (k : Nat) : (s.reportRoom k).emitQueue = s.emitQueue := by unfold State.reportRoom; split <;> rfl
@[simp] theorem reportRoom_emit (s : State) (k : Nat) : (s.reportRoom k).emit = s.emit := by unfold State.reportRoom; split <;> rfl
@[simp] theorem reportRoom_solveQueue (s : State) (k : Nat) : (s.reportRoom k).solveQueue = s.solveQueue := by unfold State.reportRoom; split <;> rfl
@[simp] theorem reportRoom_solving (s : State) (k : Nat) : (s.reportRoom k).solving = s.solving := by unfold State.reportRoom; split <;> rfl
@[simp] theorem reportRoom_combineQueue (s : State) (k : Nat) : (s.reportRoom k).combineQueue = s.combineQueue := by unfold State.reportRoom; split <;> rfl
@[simp] theorem reportRoom_combining (s : State) (k : Nat) : (s.reportRoom k).combining = s.combining := by unfold State.reportRoom; split <;> rfl
@[simp] theorem reportRoom_held (s : State) (k : Nat) : (s.reportRoom k).held = s.held := by unfold State.reportRoom; split <;> rfl
@[simp] theorem reportRoom_store (s : State) (k : Nat) : (s.reportRoom k).store = s.store := by unfold State.reportRoom; split <;> rfl
@[simp] theorem reportRoom_pending (s : State) (k : Nat) : (s.reportRoom k).pending = s.pending := by unfold State.reportRoom; split <;> rfl
@[simp] theorem reportRoom_issued (s : State) (k : Nat) : (s.reportRoom k).issued = s.issued := by unfold State.reportRoom; split <;> rfl
@[simp] theorem reportRoom_draws (s : State) (k : Nat) : (s.reportRoom k).draws = s.draws := by unfold State.reportRoom; split <;> rfl

/-! ### What the updates write -/

@[simp] theorem setReady_ready_same (s : State) (i : Nat) (ws : List CtxWrite) : (s.setReady i ws).readyOf i = ws := by
  unfold State.setReady State.readyOf
  by_cases h : ws = [] <;> simp [h]

@[simp] theorem enqueue_writeQueue (s : State) (q : QWrite) : (s.enqueue q).port.writeQueue = s.port.writeQueue ++ [q] := rfl

@[simp] theorem log_issued (s : State) (r : LinkRequest) : (s.log r).issued = s.issued ++ [r] := rfl

@[simp] theorem cause_ctl (s : State) : s.cause.ctl = s.ctl.cause := rfl

@[simp] theorem handle_walker (s : State) (d : Disposition) (r : Nat) (b : List Byte) :
    (s.handle d r b).walker = s.walker.handle d r b := rfl

@[simp] theorem refuseRecord_walker (s : State) (r : Reason) :
    (s.refuseRecord r).walker = s.walker.handle .refused r.code [] := rfl

@[simp] theorem askFetch_walker (s : State) (k : FetchKind) (a : Word64) : (s.askFetch k a).walker =
    { s.walker with wanted := some { what := k, addr := a, reissues := s.port.retryCount, discard := false } } := rfl

@[simp] theorem clearFetch_port (s : State) : s.clearFetch.port = { s.port with fetch := none } := rfl

@[simp] theorem freeStaging_port (s : State) (k : Nat) :
    (s.freeStaging k).port = { s.port with staging := s.port.staging.erase k } := rfl

@[simp] theorem joinSolve_solveQueue (s : State) (i : Nat) : (s.joinSolve i).solveQueue = s.solveQueue ++ [i] := rfl

theorem modCtx_get_same (s : State) (i : Nat) (f : Ctx → Ctx) : (s.modCtx i f).ctxs.get i = (s.ctxs.get i).map f := by
  unfold State.modCtx
  split
  next c h => simp [h]
  next h => simp [h]

theorem modCtx_get_other (s : State) {i j : Nat} (h : j ≠ i) (f : Ctx → Ctx) : (s.modCtx i f).ctxs.get j = s.ctxs.get j := by
  unfold State.modCtx
  split
  · exact Table.get_set_other _ h _
  · rfl

/-! ### An entry finalised at teardown keeps its record; nothing waits behind a Walker with no write readied. -/

@[simp] theorem FeedEntry.account_addr (f : FeedEntry) (c : Ctx) (e : Nat) : (f.account c e).addr = f.addr := rfl
@[simp] theorem FeedEntry.teardown_addr (f : FeedEntry) : f.teardown.addr = f.addr := rfl
@[simp] theorem FeedEntry.account_notify (f : FeedEntry) (c : Ctx) (e : Nat) : (f.account c e).notify = f.notify := rfl
@[simp] theorem FeedEntry.teardown_notify (f : FeedEntry) : f.teardown.notify = f.notify := rfl
@[simp] theorem FeedEntry.account_ctx (f : FeedEntry) (c : Ctx) (e : Nat) : (f.account c e).ctx = f.ctx := rfl
@[simp] theorem FeedEntry.teardown_ctx (f : FeedEntry) : f.teardown.ctx = f.ctx := rfl
@[simp] theorem FeedEntry.account_first (f : FeedEntry) (c : Ctx) (e : Nat) : (f.account c e).first = f.first := rfl
@[simp] theorem FeedEntry.teardown_first (f : FeedEntry) : f.teardown.first = f.first := rfl
@[simp] theorem FeedEntry.account_count (f : FeedEntry) (c : Ctx) (e : Nat) : (f.account c e).count = f.count := rfl
@[simp] theorem FeedEntry.teardown_count (f : FeedEntry) : f.teardown.count = f.count := rfl
@[simp] theorem FeedEntry.teardown_pending (f : FeedEntry) : f.teardown.pending = 0 := rfl
@[simp] theorem SinkEntry.account_addr (k : SinkEntry) (c : Ctx) (e : Nat) : (k.account c e).addr = k.addr := rfl
@[simp] theorem SinkEntry.teardown_addr (k : SinkEntry) : k.teardown.addr = k.addr := rfl
@[simp] theorem SinkEntry.account_notify (k : SinkEntry) (c : Ctx) (e : Nat) : (k.account c e).notify = k.notify := rfl
@[simp] theorem SinkEntry.teardown_notify (k : SinkEntry) : k.teardown.notify = k.notify := rfl
@[simp] theorem SinkEntry.account_ctx (k : SinkEntry) (c : Ctx) (e : Nat) : (k.account c e).ctx = k.ctx := rfl
@[simp] theorem SinkEntry.teardown_ctx (k : SinkEntry) : k.teardown.ctx = k.ctx := rfl
@[simp] theorem SinkEntry.account_first (k : SinkEntry) (c : Ctx) (e : Nat) : (k.account c e).first = k.first := rfl
@[simp] theorem SinkEntry.teardown_first (k : SinkEntry) : k.teardown.first = k.first := rfl
@[simp] theorem SinkEntry.account_count (k : SinkEntry) (c : Ctx) (e : Nat) : (k.account c e).count = k.count := rfl
@[simp] theorem SinkEntry.teardown_count (k : SinkEntry) : k.teardown.count = k.count := rfl
@[simp] theorem SinkEntry.teardown_pending (k : SinkEntry) : k.teardown.pending = 0 := rfl

theorem dropWaits_of_none {s : State} (h : s.walker.ready = none) (i : Nat) : s.dropWaits i = false := by
  simp [State.dropWaits, h]

theorem takenWaits_of_none {s : State} (h : s.walker.ready = none) (addr : Word64) : s.takenWaits addr = false := by
  simp [State.takenWaits, h]

end Sys2Proof.Machine
end

