-- ==== Sys2Proof/Laws/PortFrame.lean ====
section
/-! SUPPORT. The frame of judging, expiries and the Memory Port's operations (Machine/Sources.lean, Machine/Port.lean). -/

namespace Sys2Proof.Machine

variable {P : Role → Role → Prop}

theorem eq_rel : RoleRel Eq where
  refl _ := rfl
  trans := Eq.trans

/-! ### Judging and expiries -/

theorem foldCell_length (c : Byte) (d : Nat) (payload cell : List Byte) : (foldCell c d payload cell).length = cell.length := by
  induction d generalizing payload cell with
  | zero => rfl
  | succ d ih =>
    cases cell with
    | nil => rfl
    | cons x cell => cases payload <;> simp [foldCell, ih]

theorem cellBytesOf_length (store : Table (List Byte)) (n : Nat) (h : storeCanonical store) :
    (cellBytesOf store n).length = Config.cellBytes := by
  unfold cellBytesOf
  cases hg : store.get n with
  | none => simp
  | some b => exact (h.2 _ (Table.mem_of_get hg)).1

/-- Folding a segment into its targets' cells keeps the store's canonical form. -/
theorem foldTargets_storeCanonical (c : Ctx) (seg j d : Nat) (payload : List Byte) (is : List Nat)
    (store : Table (List Byte)) (h : storeCanonical store) : storeCanonical (foldTargets c seg j d payload is store) := by
  induction is generalizing store with
  | nil => exact h
  | cons i is ih =>
    refine ih _ (putCell_storeCanonical _ _ _ ?_ h)
    rw [foldCell_length]
    exact cellBytesOf_length store _ h

theorem combine_frame (hP : RoleRel P) (s : State) (c : Ctx) (seg f : Nat) (payload : List Byte) :
    Frame P s (s.combine c seg f payload) :=
  store_frame hP s _ (foldTargets_storeCanonical c seg _ _ payload _ s.store)

theorem refuseEntry_frame (hP : RoleRel P) (s : State) (i seg f : Nat) (en : LogEntry) (r : Refused) :
    Frame P s (s.refuseEntry i seg f en r) :=
  ((putEntry_frame hP s i seg f _).trans hP (feedOutcome_frame hP _ _ _)).trans hP
    (Frame.modCtx hP _ i _ (fun c _ => CtxKept.counts hP c _ (c.counters.count_refusal r)))

theorem refuseSegment_frame (hP : RoleRel P) (s : State) (i seg f : Nat) (r : Refused)
    (h : P .source .failed ∧ P .spare .source) : Frame P s (s.refuseSegment i seg f r) := by
  have hr : ∀ en : LogEntry, Frame P s ((s.refuseEntry i seg f en r).modCtx i (fun c => c.chargeError f)) := fun en =>
    (refuseEntry_frame hP s i seg f en r).trans hP
      (Frame.modCtx hP _ i _ (fun c _ => CtxKept.of_eq hP rfl rfl rfl rfl rfl rfl))
  unfold State.refuseSegment
  repeat' split
  · exact Frame.refl hP s
  · exact Frame.refl hP s
  · exact Frame.refl hP s
  · exact (refuseEntry_frame hP s i seg f _ r).trans hP (endRequest_frame hP _ i _)
  · exact (hr _).trans hP (failSource_frame hP _ i f h)
  · exact hr _

theorem judge_frame (hP : RoleRel P) (s : State) (t : Staging)
    (h : P .source .failed ∧ P .spare .source) : Frame P s (s.judge t) := by
  unfold State.judge
  split
  · exact Frame.refl hP s
  · split
    · exact (combine_frame hP s _ _ _ _).trans hP (contribute_frame hP _ _ _ _)
    · exact refuseSegment_frame hP s _ _ _ _ h

theorem readFailure_frame (hP : RoleRel P) (s : State) (i seg f : Nat) : Frame P s (s.readFailure i seg f) := by
  unfold State.readFailure
  split
  · exact Frame.refl hP s
  · extract_lets s1
    have h1 : Frame P s s1 := Frame.modCtx hP s i _ (fun c _ => CtxKept.counts hP c _ c.counters.count_readFailures)
    repeat' split
    · exact h1
    · exact h1
    · exact h1.trans hP ((putEntry_frame hP _ i seg f _).trans hP (feedOutcome_frame hP _ _ _))

/-- The two fragments a stall swap exchanges are a SOURCE and a SPARE. -/
theorem swapPair_roles {c : Ctx} {f g : Nat} (h : c.swapPair = some (f, g)) : c.role f = .source ∧ c.role g = .spare := by
  simp only [Ctx.swapPair, Option.bind_eq_some_iff, Option.map_eq_some_iff, Prod.mk.injEq] at h
  obtain ⟨p, -, f', hf, g', hg, rfl, rfl⟩ := h
  exact ⟨mem_fragmentsIn (List.mem_of_find?_eq_some hf), mem_fragmentsIn (List.mem_of_find?_eq_some hg)⟩

theorem stallSwap_frame (hP : RoleRel P) (s : State) (i : Nat) (h : P .source .spare ∧ P .spare .source) :
    Frame P s (s.stallSwap i) := by
  unfold State.stallSwap
  split
  · exact Frame.refl hP s
  · next c hc =>
    split
    · exact Frame.refl hP s
    · split
      · next f g hfg =>
        obtain ⟨hsf, hsg⟩ := swapPair_roles hfg
        refine Frame.trans hP (roleUpdate_frame hP s i _ (fun c' hc' q hq => ?_)) (changeSources_frame hP _ i _)
        rw [hc] at hc'; cases hc'
        simp only [List.mem_cons, List.not_mem_nil, or_false] at hq
        rcases hq with rfl | rfl
        · simpa [hsf] using h.1
        · simpa [hsg] using h.2
      · exact Frame.refl hP s

theorem cause_frame (hP : RoleRel P) (s : State) : Frame P s s.cause := by
  unfold State.cause Control.cause
  split
  · exact Frame.same hP
  · exact Frame.same hP

theorem setStalled_frame (hP : RoleRel P) (s : State) (i : Nat) : Frame P s (s.setStalled i) := by
  unfold State.setStalled
  repeat' split
  · exact Frame.refl hP s
  · exact Frame.refl hP s
  · refine Frame.trans hP ?_ (oweProgress_frame hP _ i)
    exact Frame.modCtx hP s i _ (fun c _ => CtxKept.of_eq hP rfl rfl rfl rfl rfl rfl)

theorem restartIfRunning_frame (hP : RoleRel P) (s : State) (i : Nat) : Frame P s (s.restartIfRunning i) := by
  refine Frame.modCtx hP s i _ (fun c _ => ?_)
  split
  · exact restartTimer_kept hP c
  · exact CtxKept.refl hP c

theorem countExpiry_frame (hP : RoleRel P) (s : State) (i : Nat) : Frame P s (s.countExpiry i) := by
  refine Frame.trans hP (Frame.trans hP ?_ (setStalled_frame hP _ i)) (cause_frame hP _)
  exact Frame.modCtx hP s i _ (fun c _ => (CtxKept.counts hP c _ c.counters.count_stallExpiries).trans hP
    (CtxKept.of_eq hP rfl rfl rfl rfl rfl rfl))

theorem takeSwap_frame (hP : RoleRel P) (s : State) (i : Nat) (h : P .source .spare ∧ P .spare .source) :
    Frame P s (s.takeSwap i) := (stallSwap_frame hP s i h).trans hP (restartIfRunning_frame hP _ i)

theorem takeTimeOut_frame (hP : RoleRel P) (s : State) (i : Nat) : Frame P s (s.takeTimeOut i) := endRequest_frame hP s i _

theorem holdExpiry_frame (hP : RoleRel P) (s : State) (i : Nat) (k : Held) : Frame P s (s.holdExpiry i k) := by
  have h1 : Frame P s (s.modCtx i (fun c => { c with timerRuns := false })) :=
    Frame.modCtx hP s i _ (fun c _ => CtxKept.of_eq hP rfl rfl rfl rfl rfl rfl)
  exact h1.trans hP (Frame.same hP)

theorem takeExpiry_frame (hP : RoleRel P) (s : State) (i : Nat) (c : Ctx) (h : P .source .spare ∧ P .spare .source) :
    Frame P s (s.takeExpiry i c) := by
  have h1 := countExpiry_frame hP s i
  unfold State.takeExpiry
  extract_lets counted
  repeat' split
  · exact h1.trans hP (holdExpiry_frame hP _ i _)
  · exact h1.trans hP (takeTimeOut_frame hP _ i)
  · exact h1.trans hP (holdExpiry_frame hP _ i _)
  · exact h1.trans hP (takeSwap_frame hP _ i h)

/-! ### The write queue and the claim line -/

/-- A context leaves its slot: nothing else that is watched changes. -/
theorem freeContext_core (hP : RoleRel P) (s : State) (i : Nat) : Core P s (s.freeContext i) := by
  unfold State.freeContext
  split
  · exact Core.refl hP s
  · refine ⟨rfl, rfl, rfl, rfl, rfl, fun j d hd => ?_, id, id, id, id⟩
    simp only [State.setReady, Table.get_erase] at hd
    split at hd
    · cases hd
    · exact ⟨d, hd, CtxKept.refl hP d⟩

theorem freeContext_others (s : State) (i j : Nat) (h : j ≠ i) (hj : s.holds j) : (s.freeContext i).holds j := by
  unfold State.freeContext
  split
  · exact hj
  · refine ⟨?_, ?_⟩
    · simpa [State.setReady, Table.get_erase, h] using hj.1
    · rw [readyOf_setReady]; simpa [h, State.readyOf] using hj.2

theorem slotPlaced_frame (hP : RoleRel P) (s : State) (i : Nat) : Frame P s (s.slotPlaced i) := by
  unfold State.slotPlaced
  split
  · exact Frame.refl hP s
  · next hr =>
    refine Frame.trans hP (setReady_frame hP s i _ (fun h => ?_)) (Frame.modCtx hP _ i _ (fun c _ => ?_))
    · rw [hr] at h; simp_all
    · exact CtxKept.of_eq hP rfl rfl rfl rfl rfl rfl
  · next rest hr =>
    have hc : Core P s (s.setReady i rest) := by
      refine (setReady_frame hP s i rest (fun h => ?_)).toCore
      rw [hr] at h; simp [CtxWrite.notDone] at h
    refine ⟨hc.trans hP (freeContext_core hP _ i), fun j hj => ?_⟩
    by_cases hji : j = i
    · subst hji
      have := hj.2
      rw [hr] at this
      simp [CtxWrite.notDone] at this
    · refine freeContext_others _ i j hji ⟨hj.1, ?_⟩
      rw [readyOf_setReady]
      simpa [hji] using hj.2
  · next hr =>
    refine setReady_frame hP s i _ (fun h => ?_)
    rw [hr] at h; simp_all

theorem placed_frame (hP : RoleRel P) (s : State) (w : Writer) : Frame P s (s.placed w) := by
  cases w with
  | walker => exact Frame.same hP
  | registry =>
    simp only [State.placed]
    split <;> exact Frame.same hP
  | emit =>
    simp only [State.placed]
    split
    · exact Frame.same hP
    · exact Frame.refl hP s
  | control =>
    simp only [State.placed]
    split <;> exact Frame.same hP
  | slot i => exact slotPlaced_frame hP s i

/-- What a writer does after a write of its has been placed leaves the port alone. -/
theorem placed_port (s : State) (w : Writer) : (s.placed w).port = s.port := by
  cases w with
  | walker => rfl
  | registry => rfl
  | emit => simp only [State.placed]; split <;> rfl
  | control => simp only [State.placed]; split <;> rfl
  | slot i =>
    simp only [State.placed, State.slotPlaced]
    split
    · rfl
    · rw [modCtx_port]; rfl
    · unfold State.freeContext; split <;> rfl
    · rfl

/-- A place of the queue is taken. -/
theorem enqueue_frame (hP : RoleRel P) (s : State) (q : QWrite) (h : 0 < s.freePlaces) : Frame P s (s.enqueue q) where
  gov := rfl
  settings := rfl
  programmed := rfl
  outstanding := rfl
  pending := rfl
  ctxs _ c hc := ⟨c, hc, CtxKept.refl hP c⟩
  feeds := id
  sinks := id
  store := id
  stays _ h := holds_of h id rfl
  queues hq := by
    refine ⟨?_, hq.2⟩
    simp only [State.freePlaces] at h
    simp only [State.enqueue, List.length_append, List.length_singleton]
    omega

theorem enqueue_freePlaces (s : State) (q : QWrite) : (s.enqueue q).freePlaces = s.freePlaces - 1 := by
  simp [State.enqueue, State.freePlaces]; omega

theorem placed_freePlaces (s : State) (w : Writer) : (s.placed w).freePlaces = s.freePlaces := by
  simp [State.freePlaces, placed_port]

theorem placeReady_frame (hP : RoleRel P) (w : Writer) (n : Nat) (s : State) (hn : n ≤ s.freePlaces) :
    Frame P s (State.placeReady w n s) := by
  induction n generalizing s with
  | zero => exact Frame.refl hP s
  | succ n ih =>
    unfold State.placeReady
    split
    · exact Frame.refl hP s
    · next q _ =>
      have hp := placed_freePlaces s w
      refine ((placed_frame hP s w).trans hP (enqueue_frame hP _ q (by omega))).trans hP (ih _ ?_)
      rw [enqueue_freePlaces]
      omega

theorem placeReady_claimLine (w : Writer) (n : Nat) (s : State) :
    (State.placeReady w n s).port.claimLine = s.port.claimLine := by
  induction n generalizing s with
  | zero => rfl
  | succ n ih =>
    unfold State.placeReady
    split
    · rfl
    · rw [ih]; simp [State.enqueue, placed_port]

/-- The claim line replaced by one that holds no writer twice. -/
theorem setLine_frame (hP : RoleRel P) (s : State) (line : List Writer) (h : s.port.claimLine.Nodup → line.Nodup) :
    Frame P s (s.setLine line) where
  gov := rfl
  settings := rfl
  programmed := rfl
  outstanding := rfl
  pending := rfl
  ctxs _ c hc := ⟨c, hc, CtxKept.refl hP c⟩
  feeds := id
  sinks := id
  store := id
  stays _ h := holds_of h id rfl
  queues hq := ⟨hq.1, h hq.2⟩

theorem joinLine_frame (hP : RoleRel P) (s : State) (w : Writer) (hw : w ∉ s.port.claimLine) : Frame P s (s.joinLine w) := by
  unfold State.joinLine
  split
  · refine setLine_frame hP s _ (fun h => List.nodup_append.2 ⟨h, by simp, fun a ha b hb => ?_⟩)
    rw [List.mem_singleton] at hb
    rintro rfl
    exact hw (hb ▸ ha)
  · exact Frame.refl hP s

theorem leaveLine_frame (hP : RoleRel P) (s : State) (w : Writer) : Frame P s (s.leaveLine w) := by
  unfold State.leaveLine
  split
  · exact Frame.refl hP s
  · exact setLine_frame hP s _ (fun h => h.filter _)

theorem offer_frame (hP : RoleRel P) (s : State) (w : Writer) : Frame P s (s.offer w) := by
  unfold State.offer
  split
  · exact Frame.refl hP s
  · next hw =>
    split
    · refine (placeReady_frame hP w _ s (Nat.le_refl _)).trans hP (joinLine_frame hP _ w ?_)
      rwa [placeReady_claimLine]
    · exact joinLine_frame hP s w hw

theorem serveLine_frame (hP : RoleRel P) (n : Nat) (s : State) : Frame P s (State.serveLine n s) := by
  induction n generalizing s with
  | zero => exact Frame.refl hP s
  | succ n ih =>
    unfold State.serveLine
    split
    · exact Frame.refl hP s
    · split
      · exact Frame.refl hP s
      · next w _ =>
        exact ((placeReady_frame hP w _ s (Nat.le_refl _)).trans hP (leaveLine_frame hP _ w)).trans hP (ih _)

theorem serveClaims_frame (hP : RoleRel P) (s : State) : Frame P s s.serveClaims := serveLine_frame hP _ s

theorem offerEach_frame (hP : RoleRel P) (ws : List Writer) (s : State) : Frame P s (State.offerEach ws s) := by
  induction ws generalizing s with
  | nil => exact Frame.refl hP s
  | cons w ws ih => exact (offer_frame hP s w).trans hP (ih _)

theorem offerReady_frame (hP : RoleRel P) (s : State) : Frame P s s.offerReady := by
  unfold State.offerReady
  extract_lets s1 ws
  have h1 : Frame P s s1 := offer_frame hP s .walker
  refine (h1.trans hP ?_).trans hP (offerEach_frame hP _ _)
  split
  · exact Frame.same hP
  · exact Frame.refl hP s1

theorem takeEmit_frame (hP : RoleRel P) (s : State) : Frame P s s.takeEmit := by
  unfold State.takeEmit
  split
  · split
    · exact Frame.same hP
    · next c hc =>
      split
      · exact Frame.same hP
      · next seg p _ =>
        exact Frame.trans hP (Frame.setCtx hP hc (CtxKept.of_eq hP
          (c' := c.putPosition _ { p with state := .emitting }) rfl rfl rfl rfl rfl rfl)) (Frame.same hP)
  · exact Frame.refl hP s

theorem takeCombine_frame (hP : RoleRel P) (s : State) : Frame P s s.takeCombine := by
  unfold State.takeCombine
  split
  · split
    · exact Frame.same hP
    · exact Frame.same hP
  · exact Frame.refl hP s

theorem settle_frame (hP : RoleRel P) (s : State) : Frame P s s.settle :=
  (((startSolve_frame hP s).trans hP (takeCombine_frame hP _)).trans hP (takeEmit_frame hP _)).trans hP
    (offerReady_frame hP _)

/-! ### Completions -/

theorem modStaging_frame (hP : RoleRel P) (s : State) (k : Nat) (f : Staging → Staging) : Frame P s (s.modStaging k f) := by
  unfold State.modStaging
  split
  · exact Frame.refl hP s
  · exact Frame.same hP

theorem stageEach_frame (hP : RoleRel P) (ks : List Nat) (data : List Byte) (s : State) :
    Frame P s (State.stageEach ks data s) := by
  induction ks generalizing data s with
  | nil => exact Frame.refl hP s
  | cons k ks ih =>
    unfold State.stageEach
    split
    · exact ih _ _
    · extract_lets s1
      have h1 : Frame P s s1 := modStaging_frame hP s k _
      exact (h1.trans hP (Frame.same hP)).trans hP (ih _ _)

theorem readArrived_frame (hP : RoleRel P) (s : State) (k : Nat) (data : List Byte) : Frame P s (s.readArrived k data) := by
  unfold State.readArrived
  repeat' split
  · exact Frame.refl hP s
  · exact discardEach_frame hP _ s
  · exact stageEach_frame hP _ _ s

theorem retryEach_frame (hP : RoleRel P) (ks : List Nat) (s : State) : Frame P s (State.retryEach ks s) := by
  induction ks generalizing s with
  | nil => exact Frame.refl hP s
  | cons k ks ih => exact (modStaging_frame hP s k _).trans hP (ih _)

theorem failEach_frame (hP : RoleRel P) (ks : List Nat) (s : State) : Frame P s (State.failEach ks s) := by
  induction ks generalizing s with
  | nil => exact Frame.refl hP s
  | cons k ks ih =>
    refine Frame.trans hP ?_ (ih _)
    split
    · exact Frame.refl hP s
    · exact (freeStaging_frame hP s k).trans hP (readFailure_frame hP _ _ _ _)

theorem readErred_frame (hP : RoleRel P) (s : State) (k : Nat) : Frame P s (s.readErred k) := by
  unfold State.readErred
  repeat' split
  · exact Frame.refl hP s
  · exact discardEach_frame hP _ s
  · extract_lets s1
    have h1 : Frame P s s1 := retryEach_frame hP _ s
    exact h1.trans hP (Frame.same hP)
  · exact failEach_frame hP _ s

theorem readEach_frame (hP : RoleRel P) (ks : List Nat) (s : State) : Frame P s (State.readEach ks s) := by
  induction ks generalizing s with
  | nil => exact Frame.refl hP s
  | cons k ks ih => exact (modStaging_frame hP s k _).trans hP (ih _)

theorem reissue_frame (hP : RoleRel P) (s : State) (k : Nat) : Frame P s (s.reissue k) := by
  unfold State.reissue
  split
  · exact Frame.refl hP s
  · extract_lets members s1
    have h1 : Frame P s s1 := readEach_frame hP _ s
    exact h1.trans hP (Frame.same hP)

/-! ### Issue -/

theorem issueFetch_frame (hP : RoleRel P) (s : State) (f : Fetch) : Frame P s (s.issueFetch f) := by
  unfold State.issueFetch
  split
  · exact Frame.same hP
  · exact Frame.same hP

theorem finalIssued_frame (hP : RoleRel P) (s : State) (notify : Bool) : Frame P s (s.finalIssued notify) := by
  unfold State.finalIssued
  extract_lets c1 s1
  have h1 : Frame P s s1 := Frame.same hP
  split
  · exact h1.trans hP (cause_frame hP s1)
  · exact h1

theorem issueWrite_frame (hP : RoleRel P) (s : State) (w : QWrite) : Frame P s (s.issueWrite w) := by
  unfold State.issueWrite
  extract_lets w1 s1
  have h1 : Frame P s s1 := by
    simp only [s1]
    split
    · exact Frame.same hP
    · exact Frame.refl hP s
  split
  · exact h1.trans hP (Frame.same hP)
  · exact (h1.trans hP (Frame.same hP)).trans hP (finalIssued_frame hP _ _)
  all_goals exact h1.trans hP (Frame.same hP)

/-- A write leaves the head of the write queue. -/
theorem popWrite_frame (hP : RoleRel P) (s : State) (w : QWrite) (rest : List QWrite) (h : s.port.writeQueue = w :: rest) :
    Frame P s { s with port := { s.port with writeQueue := rest } } where
  gov := rfl
  settings := rfl
  programmed := rfl
  outstanding := rfl
  pending := rfl
  ctxs _ c hc := ⟨c, hc, CtxKept.refl hP c⟩
  feeds := id
  sinks := id
  store := id
  stays _ h := holds_of h id rfl
  queues hq := ⟨by have := hq.1; rw [h] at this; simp at this; simp; omega, hq.2⟩

theorem inflight_kept (hP : RoleRel P) (c : Ctx) (seg f : Nat) : CtxKept P c (c.inflight seg f) := by
  unfold Ctx.inflight
  repeat' split
  · exact CtxKept.refl hP c
  · exact CtxKept.refl hP c
  · exact CtxKept.of_eq hP rfl rfl rfl rfl rfl rfl

theorem movePointer_frame (p : Port) (e : Bool) (i : Nat) :
    (p.movePointer e i).readLimit = p.readLimit ∧ (p.movePointer e i).pairMode = p.pairMode ∧
    (p.movePointer e i).retryCount = p.retryCount ∧ (p.movePointer e i).outstanding = p.outstanding ∧
    (p.movePointer e i).writeQueue = p.writeQueue ∧ (p.movePointer e i).claimLine = p.claimLine := by
  unfold Port.movePointer; split <;> simp

/-- What a grant keeps, the Governor's charge apart. -/
theorem grantCtx_frame (hP : RoleRel P) (s : State) (i : Nat) (c c' : Ctx) (g : Governor) (p : Port)
    (issued : List LinkRequest) (hc : s.ctxs.get i = some c) (hk : CtxKept P c c')
    (hp : p.readLimit = s.port.readLimit ∧ p.pairMode = s.port.pairMode ∧ p.retryCount = s.port.retryCount ∧
      p.outstanding = s.port.outstanding ∧ p.writeQueue = s.port.writeQueue ∧ p.claimLine = s.port.claimLine) :
    Frame P { s with gov := g } { s with port := p, gov := g, ctxs := s.ctxs.set i c', issued := issued } := by
  obtain ⟨h1, h2, h3, h4, h5, h6⟩ := hp
  exact ⟨⟨rfl, by simp [State.settings, h1, h2, h3], rfl, h4, rfl, (Frame.setCtx (s := s) hP hc hk).ctxs, id, id, id,
    fun hq => by simpa [Port.queuesBounded, h5, h6] using hq⟩, fun j hj =>
      (Frame.setCtx (s := s) hP hc hk).stays j hj⟩

/-- Everything a grant can do to the Governor: nothing, or one charge, of one or two segment units of a context, on a credit that
allowed it. -/
theorem grant_frame (hP : RoleRel P) (s : State) : ∃ g, Frame P { s with gov := g } s.grant ∧
    (g = s.gov ∨ ∃ i c, s.ctxs.get i = some c ∧ s.gov.allows = true ∧
      (g = s.gov.charge c.geo.unitSize ∨ g = s.gov.charge (2 * c.geo.unitSize))) := by
  unfold State.grant
  split
  · next ha =>
    split
    · next i a _ _ =>
      split
      · exact ⟨s.gov, Frame.refl hP s, .inl rfl⟩
      · next c hc =>
        split
        · exact ⟨s.gov, Frame.refl hP s, .inl rfl⟩
        · next first _ =>
          split
          · exact ⟨s.gov, Frame.refl hP s, .inl rfl⟩
          · next f _ =>
            have hsingle : Frame P { s with gov := s.gov.charge c.geo.unitSize } (s.grantSingle i c first f a) :=
              grantCtx_frame hP s i c _ _ _ _ hc (inflight_kept hP c _ _) (movePointer_frame s.port c.exposed i)
            split
            · exact ⟨_, hsingle, .inr ⟨i, c, hc, ha, .inl rfl⟩⟩
            · next second _ =>
              split
              · exact ⟨_, hsingle, .inr ⟨i, c, hc, ha, .inl rfl⟩⟩
              · next b _ =>
                refine ⟨s.gov.charge (2 * c.geo.unitSize), ?_, .inr ⟨i, c, hc, ha, .inr rfl⟩⟩
                exact grantCtx_frame hP s i c _ _ _ _ hc
                  ((inflight_kept hP c _ _).trans hP (inflight_kept hP _ _ _)) (movePointer_frame s.port c.exposed i)
    · exact ⟨s.gov, Frame.refl hP s, .inl rfl⟩
  · exact ⟨s.gov, Frame.refl hP s, .inl rfl⟩

end Sys2Proof.Machine
end

