-- ==== Sys2Proof/Laws/Settle.lean ====
section
/-! SUPPORT. The end of an event, said once: what placing and starting do when nothing is left over from before. -/

namespace Sys2Proof.Machine

/-- What `State.calm` says, part by part. -/
structure Calm (s : State) : Prop where
  line : s.port.claimLine = []
  statuses : s.statusQueue = []
  ready : s.ready.rows = []
  owed : s.ctl.reportOwed = false
  messages : s.ctl.messages = 0
  units : ∀ e, s.emit = some e → e.targetsLeft = []
  emits : s.emit = none → s.emitQueue = []
  solves : s.solving = none → s.solveQueue = []
  combines : s.combining = none → s.combineQueue = []

theorem State.calm_iff (s : State) : s.calm = true ↔ Calm s := by
  unfold State.calm
  constructor
  · intro h
    simp only [Bool.and_eq_true, List.isEmpty_iff, Bool.not_eq_true', beq_iff_eq, Bool.or_eq_true] at h
    obtain ⟨⟨⟨⟨⟨⟨⟨h1, h2⟩, h3⟩, h4⟩, h5⟩, h6⟩, h7⟩, h8⟩ := h
    exact ⟨h1, h2, h3, h4, h5, fun e he => by simpa [he] using h6, fun he => by simpa [he] using h6,
      fun he => by simpa [he] using h7, fun he => by simpa [he] using h8⟩
  · intro h
    simp only [Bool.and_eq_true, List.isEmpty_iff, Bool.not_eq_true', beq_iff_eq, Bool.or_eq_true]
    refine ⟨⟨⟨⟨⟨⟨⟨h.line, h.statuses⟩, h.ready⟩, h.owed⟩, h.messages⟩, ?_⟩, ?_⟩, ?_⟩
    · cases he : s.emit with
      | none => simpa using h.emits he
      | some e => simpa using h.units e he
    · cases he : s.solving with
      | none => simpa using h.solves he
      | some e => simp
    · cases he : s.combining with
      | none => simpa using h.combines he
      | some e => simp

theorem State.atRest_iff (s : State) (n : Nat) :
    s.atRest n = true ↔ Calm s ∧ s.walker.ready = none ∧ s.port.writeQueue.length + n ≤ 64 := by
  simp only [State.atRest, Bool.and_eq_true, State.calm_iff, Option.isNone_iff_eq_none, decide_eq_true_eq, and_assoc]
  rfl

/-- With no queue but the Control Interface's, the writers but the Walker have nothing new. -/
theorem newWriters_control (s : State) (h1 : s.port.claimLine = []) (h2 : s.statusQueue = []) (h3 : s.ready.rows = [])
    (h4 : ∀ e, s.emit = some e → e.targetsLeft = []) :
    s.newWriters = if (s.nextWrite .control).isSome then [.control] else [] := by
  have h5 : (s.nextWrite .registry).isSome = false := by simp [State.nextWrite, h2]
  have h6 : (s.nextWrite .emit).isSome = false := by
    simp only [State.nextWrite]
    split
    · next e he => simp [h4 e he]
    · rfl
  simp only [State.newWriters, Table.keys, h3, List.map_nil, List.append_nil, List.filter_cons, h1, h5, h6]
  simp

theorem nextWrite_control_none (s : State) (h1 : s.ctl.reportOwed = false) (h2 : s.ctl.messages = 0) :
    s.nextWrite .control = none := by
  simp [State.nextWrite, State.reportReady, h1, h2]

/-- A writer that no rule sends behind the Walker places whatever it has ready. -/
theorem placeable_free (s : State) (w : Writer) (h : s.mustWait w = false) : s.placeable w = s.nextWrite w := by
  simp [State.placeable, h]

/-- A writer with nothing ready has nothing to place. -/
theorem placeable_none (s : State) (w : Writer) (h : s.nextWrite w = none) : s.placeable w = none := by
  simp [State.placeable, h]

/-- A writer with nothing ready does nothing. -/
theorem offer_none (s : State) (w : Writer) (h : s.nextWrite w = none) : s.offer w = s := by
  have hp : ∀ n, State.placeReady w n s = s := by
    intro n; cases n <;> simp [State.placeReady, placeable_none s w h]
  simp [State.offer, State.joinLine, hp, h]

/-- The Walker's one write is placed when there is room. -/
theorem offer_walker (s : State) (q : QWrite) (h1 : s.port.claimLine = []) (h2 : s.walker.ready = some q)
    (h3 : s.port.writeQueue.length + 1 ≤ 64) :
    s.offer .walker = State.enqueue { s with walker := { s.walker with ready := none, dropped := none } } q := by
  have hf : ∃ n, s.freePlaces = n + 1 := ⟨s.freePlaces - 1, by simp [State.freePlaces, Config.writePlaces]; omega⟩
  obtain ⟨n, hn⟩ := hf
  have hp : State.placeReady .walker s.freePlaces s = State.enqueue { s with walker := { s.walker with ready := none, dropped := none } } q := by
    rw [hn, State.placeReady]
    simp only [placeable_free s .walker rfl, State.nextWrite, h2, State.placed]
    cases n <;> simp [State.placeReady, placeable_free _ .walker rfl, State.nextWrite, State.enqueue]
  simp [State.offer, State.joinLine, h1, hp, State.nextWrite, State.enqueue]

/-- The Control Interface's report and at most one message, placed when there is room. -/
def State.controlPlaced (s : State) : State :=
  { s with
    ctl := { s.ctl with reportOwed := if s.reportReady then false else s.ctl.reportOwed,
                        lastReport := if s.reportReady then some s.reportValues else s.ctl.lastReport, messages := 0 },
    port := { s.port with writeQueue := s.port.writeQueue ++ (if s.reportReady then [s.reportWrite] else []) ++
                                        (if s.ctl.messages = 1 then [s.messageWrite] else []) },
    draws := s.draws + s.ctl.messages }

/-- With neither readied, nothing is placed. -/
theorem controlPlaced_none (s : State) (h1 : s.reportReady = false) (h2 : s.ctl.messages = 0) : s.controlPlaced = s := by
  have : s.ctl = { s.ctl with messages := 0 } := by rw [← h2]
  simp only [State.controlPlaced, h1, h2, Bool.false_eq_true, if_false, Nat.zero_ne_one, List.append_nil, Nat.add_zero]
  rw [← this]

theorem controlPlaced_rest (s : State) (h1 : s.ctl.reportOwed = false) (h2 : s.ctl.messages = 0) : s.controlPlaced = s :=
  controlPlaced_none s (by simp [State.reportReady, h1]) h2

theorem placeReady_message (s : State) (n : Nat) (h2 : s.reportReady = false) (h3 : s.ctl.messages = 1) :
    State.placeReady .control (n + 1) s =
      State.enqueue { s with ctl := { s.ctl with messages := 0 }, draws := s.draws + 1 } s.messageWrite := by
  have hq : s.nextWrite .control = some s.messageWrite := by simp [State.nextWrite, h2, h3]
  have hp : s.placed .control = { s with ctl := { s.ctl with messages := 0 }, draws := s.draws + 1 } := by
    simp [State.placed, h2, h3]
  have hn : (State.enqueue { s with ctl := { s.ctl with messages := 0 }, draws := s.draws + 1 } s.messageWrite).nextWrite
      .control = none := by
    have : (State.enqueue { s with ctl := { s.ctl with messages := 0 }, draws := s.draws + 1 } s.messageWrite).reportReady
        = false := h2
    simp only [State.nextWrite, this]
    simp [State.enqueue]
  rw [State.placeReady, placeable_free s .control rfl, hq, hp]
  cases n
  · rfl
  · simp only [State.placeReady, placeable_none _ .control hn]

theorem placeReady_control (s : State) (n : Nat) (h1 : s.ctl.messages ≤ 1) :
    State.placeReady .control (n + 2) s = s.controlPlaced := by
  cases hr : s.reportReady with
  | false =>
    rcases Nat.le_one_iff_eq_zero_or_eq_one.mp h1 with hm | hm
    · rw [State.placeReady, controlPlaced_none s hr hm, placeable_free s .control rfl]
      simp [State.nextWrite, hr, hm]
    · rw [placeReady_message s (n + 1) hr hm]
      simp [State.controlPlaced, hr, hm, State.enqueue]
  | true =>
    have hq : s.nextWrite .control = some s.reportWrite := by simp [State.nextWrite, hr]
    have hp : s.placed .control = { s with ctl := { s.ctl with reportOwed := false, lastReport := some s.reportValues } } := by
      simp [State.placed, hr]
    rw [State.placeReady, placeable_free s .control rfl, hq, hp]
    rcases Nat.le_one_iff_eq_zero_or_eq_one.mp h1 with hm | hm
    · have hn : (State.enqueue { s with ctl := { s.ctl with reportOwed := false, lastReport := some s.reportValues } }
          s.reportWrite).nextWrite .control = none := by
        simp [State.nextWrite, State.enqueue, State.reportReady, hm]
      simp only [State.placeReady, placeable_none _ .control hn]
      simp [State.enqueue, State.controlPlaced, hr, hm]
    · simp only []
      rw [placeReady_message _ _ (by simp [State.enqueue, State.reportReady]) (by simpa [State.enqueue] using hm)]
      simp [State.enqueue, State.controlPlaced, hr, hm, State.messageWrite]

/-- What was readied is placed, and nothing is left. -/
theorem controlPlaced_done (s : State) : s.controlPlaced.nextWrite .control = none := by
  have : s.controlPlaced.reportReady = false := by
    cases hr : s.reportReady
    · unfold State.controlPlaced
      simp only [hr, Bool.false_eq_true, if_false]
      exact hr
    · unfold State.controlPlaced
      simp only [hr, if_true]
      rfl
  simp only [State.nextWrite, this]
  simp [State.controlPlaced]

theorem offer_control (s : State) (h1 : s.port.claimLine = []) (h2 : s.port.writeQueue.length + 2 ≤ 64)
    (h3 : s.ctl.messages ≤ 1) : s.offer .control = s.controlPlaced := by
  have hf : ∃ n, s.freePlaces = n + 2 := ⟨s.freePlaces - 2, by simp [State.freePlaces, Config.writePlaces]; omega⟩
  obtain ⟨n, hn⟩ := hf
  simp only [State.offer, State.joinLine, h1, List.not_mem_nil, if_false, if_true, hn, placeReady_control s n h3,
    controlPlaced_done]
  simp

/-- With nothing for the idle units, an event's end places writes alone. -/
theorem settle_offerReady (s : State) (h1 : s.solving = none → s.solveQueue = []) (h2 : s.combining = none → s.combineQueue = [])
    (h3 : s.emit = none → s.emitQueue = []) : s.settle = s.offerReady := by
  have a1 : s.startSolve = s := by
    unfold State.startSolve
    split
    · next i rest ha hb => rw [h1 ha] at hb; cases hb
    · rfl
  have a2 : s.takeCombine = s := by
    unfold State.takeCombine
    split
    · next i rest ha hb => rw [h2 ha] at hb; cases hb
    · rfl
  have a3 : s.takeEmit = s := by
    unfold State.takeEmit
    split
    · next i rest ha hb => rw [h3 ha] at hb; cases hb
    · rfl
  rw [State.settle, a1, a2, a3]

/-- The end of an event in which only the Walker and the Control Interface can have writes to place. -/
theorem offerReady_control (s : State) (h1 : s.port.claimLine = []) (h2 : s.statusQueue = []) (h3 : s.ready.rows = [])
    (h4 : ∀ e, s.emit = some e → e.targetsLeft = []) (h5 : s.ctl.messages ≤ 1) (h6 : s.walker.ready = none)
    (h7 : s.port.writeQueue.length + 2 ≤ 64) : s.offerReady = s.controlPlaced := by
  have hw : s.offer .walker = s := offer_none s .walker h6
  unfold State.offerReady
  simp only [hw, newWriters_control s h1 h2 h3 h4]
  split
  · simp [orderWriters, insertWriter, State.offerEach, offer_control s h1 h7 h5]
  · next h =>
    simp only [orderWriters, List.foldr_nil, State.offerEach, List.length_nil]
    have hn : s.nextWrite .control = none := by simpa using h
    have : s.reportReady = false ∧ s.ctl.messages = 0 := by
      simp only [State.nextWrite] at hn
      split at hn
      · cases hn
      · next hr =>
        split at hn
        · cases hn
        · exact ⟨by simpa using hr, by omega⟩
    simp [controlPlaced_none s this.1 this.2]

theorem settle_calm (s : State) (h : Calm s) (h1 : s.walker.ready = none) : s.settle = s := by
  rw [settle_offerReady s h.solves h.combines h.emits]
  unfold State.offerReady
  simp [offer_none s .walker h1, newWriters_control s h.line h.statuses h.ready h.units,
    nextWrite_control_none s h.owed h.messages, orderWriters, State.offerEach]

theorem offerReady_calm (s : State) (h : Calm s) (h1 : s.walker.ready = none) : s.offerReady = s := by
  rw [← settle_offerReady s h.solves h.combines h.emits, settle_calm s h h1]

/-- The end of an event that readied the Walker's disposition write alone. -/
theorem settle_walker (s : State) (h : Calm s) (q : QWrite) (h1 : s.walker.ready = some q)
    (h2 : s.port.writeQueue.length + 1 ≤ 64) :
    s.settle = State.enqueue { s with walker := { s.walker with ready := none, dropped := none } } q := by
  rw [settle_offerReady s h.solves h.combines h.emits]
  unfold State.offerReady
  rw [offer_walker s q h.line h1 h2]
  have hn := newWriters_control (State.enqueue { s with walker := { s.walker with ready := none, dropped := none } } q) h.line h.statuses
    h.ready h.units
  have hc := nextWrite_control_none (State.enqueue { s with walker := { s.walker with ready := none, dropped := none } } q) h.owed h.messages
  simp [hn, hc, orderWriters, State.offerEach]

end Sys2Proof.Machine
end

