-- ==== Sys2Proof/Laws/Placing.lean ====
section
/-! SUPPORT. Placing writes leaves everything else alone: said once for every operation that places. -/

namespace Sys2Proof.Machine

/-- `t` is `s` after some writes have been placed or claimed. -/
structure Placing (s t : State) : Prop where
  steady : t.steady = s.steady
  ctxs : s.ctxsSteady t
  queue : s.queueExtends t
  stays : ∀ i, s.holds i → t.holds i

theorem Placing.refl (s : State) : Placing s s := ⟨rfl, fun _ => .inl rfl, ⟨[], by simp⟩, fun _ h => h⟩

theorem Placing.trans {s t u : State} (h1 : Placing s t) (h2 : Placing t u) : Placing s u where
  steady := h2.steady.trans h1.steady
  ctxs i := by
    rcases h2.ctxs i with e2 | ⟨n2, d2⟩
    · rcases h1.ctxs i with e1 | ⟨n1, d1⟩
      · exact .inl (e2.trans e1)
      · refine .inr ⟨?_, d1⟩
        rw [n1] at e2
        cases hu : u.ctxs.get i with
        | none => rfl
        | some c => rw [hu] at e2; cases e2
    · exact .inr ⟨n2, fun h => d2 (h1.stays i h)⟩
  queue := by
    obtain ⟨m1, e1⟩ := h1.queue
    obtain ⟨m2, e2⟩ := h2.queue
    exact ⟨m1 ++ m2, by rw [e2, e1, List.append_assoc]⟩
  stays i h := h2.stays i (h1.stays i h)

/-- A context that holds its slot is there after placing, the same but for its last progress write. -/
theorem Placing.ctx {s t : State} (h : Placing s t) {i : Nat} {c : Ctx} (hc : s.ctxs.get i = some c) (hh : s.holds i) :
    ∃ c', t.ctxs.get i = some c' ∧ c'.steady = c.steady := by
  rcases h.ctxs i with e | ⟨_, d⟩
  · rw [hc] at e
    cases ht : t.ctxs.get i with
    | none => rw [ht] at e; cases e
    | some c' => rw [ht] at e; exact ⟨c', rfl, Option.some.inj e⟩
  · exact absurd hh d

theorem Placing.same {s t : State} (h1 : t.steady = s.steady) (h2 : t.ctxs = s.ctxs) (h3 : t.port.writeQueue = s.port.writeQueue)
    (h4 : t.ready = s.ready) : Placing s t :=
  ⟨h1, fun i => .inl (by rw [h2]), ⟨[], by simp [h3]⟩, fun i h => ⟨by rw [h2]; exact h.1, by
    have := h.2; unfold State.readyOf at *; rw [h4]; exact this⟩⟩

theorem setReady_placing (s : State) (i : Nat) (ws : List CtxWrite)
    (h : (s.readyOf i).all CtxWrite.notDone = true → ws.all CtxWrite.notDone = true) : Placing s (s.setReady i ws) :=
  ⟨rfl, fun _ => .inl rfl, ⟨[], by simp [State.setReady]⟩, (setReady_frame anyRole_rel s i ws h).stays⟩

theorem modCtx_placing (s : State) (i : Nat) (f : Ctx → Ctx) (hf : ∀ c, (f c).steady = c.steady) :
    Placing s (s.modCtx i f) := by
  unfold State.modCtx
  split
  · next c hc =>
    refine ⟨rfl, fun j => .inl ?_, ⟨[], by simp⟩, fun j h => holds_of h (fun hj => ?_) rfl⟩
    · simp only [Table.get_set]
      split
      · next h => subst h; simp [hc, hf]
      · rfl
    · simp only [Table.get_set]
      split <;> simp_all
  · exact Placing.refl s

theorem slotPlaced_placing (s : State) (i : Nat) : Placing s (s.slotPlaced i) := by
  have hst := (slotPlaced_frame anyRole_rel s i).stays
  unfold State.slotPlaced at *
  split
  · exact Placing.refl s
  · next rest hr =>
    exact (setReady_placing s i rest (fun h => by rw [hr] at h; simp_all)).trans (modCtx_placing _ i _ (fun c => rfl))
  · next rest hr =>
    simp only [hr] at hst
    have h1 : s.steady = (s.setReady i rest).steady := rfl
    unfold State.freeContext at *
    split
    · next hn =>
      simp only [hn] at hst
      exact ⟨rfl, fun _ => .inl rfl, ⟨[], by simp [State.setReady]⟩, hst⟩
    · next c hc =>
      simp only [hc] at hst
      refine ⟨rfl, fun j => ?_, ⟨[], by simp [State.setReady]⟩, hst⟩
      by_cases hj : j = i
      · subst hj
        refine .inr ⟨by simp [State.setReady], fun hh => ?_⟩
        have := hh.2
        rw [hr] at this
        simp [CtxWrite.notDone] at this
      · exact .inl (by simp [State.setReady, Table.get_erase, hj])
  · next rest hr => exact setReady_placing s i rest (fun h => by rw [hr] at h; simp_all)

theorem placed_placing (s : State) (w : Writer) : Placing s (s.placed w) := by
  cases w with
  | walker => exact Placing.same rfl rfl rfl rfl
  | registry =>
    simp only [State.placed]
    split <;> exact Placing.same rfl rfl rfl rfl
  | emit =>
    simp only [State.placed]
    split
    · exact Placing.same rfl rfl rfl rfl
    · exact Placing.refl s
  | control =>
    simp only [State.placed]
    split <;> exact Placing.same rfl rfl rfl rfl
  | slot i => exact slotPlaced_placing s i

theorem enqueue_placing (s : State) (q : QWrite) : Placing s (s.enqueue q) :=
  ⟨rfl, fun _ => .inl rfl, ⟨[q], rfl⟩, fun _ h => holds_of h id rfl⟩

theorem placeReady_placing (w : Writer) (n : Nat) (s : State) : Placing s (State.placeReady w n s) := by
  induction n generalizing s with
  | zero => exact Placing.refl s
  | succ n ih =>
    unfold State.placeReady
    split
    · exact Placing.refl s
    · next q _ => exact ((placed_placing s w).trans (enqueue_placing _ q)).trans (ih _)

theorem setLine_placing (s : State) (line : List Writer) : Placing s (s.setLine line) := Placing.same rfl rfl rfl rfl

theorem joinLine_placing (s : State) (w : Writer) : Placing s (s.joinLine w) := by
  unfold State.joinLine
  split
  · exact setLine_placing s _
  · exact Placing.refl s

theorem leaveLine_placing (s : State) (w : Writer) : Placing s (s.leaveLine w) := by
  unfold State.leaveLine
  split
  · exact Placing.refl s
  · exact setLine_placing s _

theorem offer_placing (s : State) (w : Writer) : Placing s (s.offer w) := by
  unfold State.offer
  split
  · exact Placing.refl s
  · split
    · exact (placeReady_placing w _ s).trans (joinLine_placing _ w)
    · exact joinLine_placing s w

theorem serveLine_placing (n : Nat) (s : State) : Placing s (State.serveLine n s) := by
  induction n generalizing s with
  | zero => exact Placing.refl s
  | succ n ih =>
    unfold State.serveLine
    split
    · exact Placing.refl s
    · split
      · exact Placing.refl s
      · next w _ => exact ((placeReady_placing w _ s).trans (leaveLine_placing _ w)).trans (ih _)

theorem serveClaims_placing (s : State) : Placing s s.serveClaims := serveLine_placing _ s

theorem offerEach_placing (ws : List Writer) (s : State) : Placing s (State.offerEach ws s) := by
  induction ws generalizing s with
  | nil => exact Placing.refl s
  | cons w ws ih => exact (offer_placing s w).trans (ih _)

theorem offerReady_placing (s : State) : Placing s s.offerReady := by
  unfold State.offerReady
  extract_lets s1 ws
  refine (offer_placing s .walker).trans (Placing.trans ?_ (offerEach_placing _ _))
  split
  · exact Placing.same rfl rfl rfl rfl
  · exact Placing.refl _

theorem oweProgress_placing (s : State) (i : Nat) : Placing s (s.oweProgress i) := by
  unfold State.oweProgress
  split
  · split
    · exact Placing.refl s
    · exact setReady_placing s i _ (fun h => by simp [List.all_append, h, CtxWrite.notDone])
  · exact Placing.refl s

theorem oweStale_placing (is : List Nat) (s : State) : Placing s (State.oweStale is s) := by
  induction is generalizing s with
  | nil => exact Placing.refl s
  | cons i is ih =>
    refine Placing.trans ?_ (ih _)
    split
    · split
      · exact oweProgress_placing s i
      · exact Placing.refl s
    · exact Placing.refl s

theorem oweStaleReport_placing (s : State) : Placing s s.oweStaleReport := by
  unfold State.oweStaleReport State.oweReport
  repeat' split
  all_goals first | exact Placing.refl _ | exact Placing.same rfl rfl rfl rfl

end Sys2Proof.Machine
end

