-- ==== Sys2Proof/Laws/WalkerFrame.lean ====
section
/-! SUPPORT. The frame of the Walker's operations and of the records it dispatches (Machine/Walker.lean). -/

namespace Sys2Proof.Machine

variable {P : Role → Role → Prop}

/-- The moves of R25 are moves that `P` allows. -/
structure AllowsMoves (P : Role → Role → Prop) : Prop where
  demote : P .source .spare
  promote : P .spare .source
  failSource : P .source .failed
  failSpare : P .spare .failed

theorem roleMove_allows : AllowsMoves RoleMove := by
  constructor <;> simp [RoleMove]

theorem anyRole_allows : AllowsMoves (fun _ _ => True) := ⟨trivial, trivial, trivial, trivial⟩

theorem oweReport_frame (hP : RoleRel P) (s : State) : Frame P s s.oweReport := by
  unfold State.oweReport
  split
  · exact Frame.same hP
  · exact Frame.refl hP s

theorem fault_frame (hP : RoleRel P) (s : State) (r : WalkerFault) (addr : Word64) : Frame P s (s.fault r addr) :=
  Frame.trans hP (Frame.trans hP (t := { s with walker := s.walker.fault r addr }) (Frame.same hP) (oweReport_frame hP _))
    (cause_frame hP _)

theorem askFetch_frame (hP : RoleRel P) (s : State) (what : FetchKind) (addr : Word64) :
    Frame P s (s.askFetch what addr) := Frame.same hP

theorem takeRecordAt_frame (hP : RoleRel P) (s : State) (addr : Word64) : Frame P s (s.takeRecordAt addr) := Frame.same hP

theorem askLink_frame (hP : RoleRel P) (s : State) : Frame P s s.askLink := Frame.same hP

theorem handle_frame (hP : RoleRel P) (s : State) (d : Disposition) (reason : Nat) (result : List Byte) :
    Frame P s (s.handle d reason result) := Frame.same hP

theorem handleDrop_frame (hP : RoleRel P) (s : State) (i : Nat) : Frame P s (s.handleDrop i) :=
  Frame.same hP

theorem refuseRecord_frame (hP : RoleRel P) (s : State) (r : Reason) : Frame P s (s.refuseRecord r) := Frame.same hP

theorem block_frame (hP : RoleRel P) (s : State) : Frame P s s.block := by
  unfold State.block
  split
  · exact Frame.refl hP s
  · exact Frame.same hP

theorem holdDispatch_frame (hP : RoleRel P) (s : State) : Frame P s s.holdDispatch := Frame.same hP

/-! ### FEED and SINK -/

theorem checkFeed_count {s : State} {b : List Byte} {c : Ctx} {r : Nat} (h : s.checkFeed b = .accept c r) :
    1 ≤ recCount b := by
  unfold State.checkFeed at h
  split at h
  · cases h
  · next hv => simp [runFieldsValid] at hv; omega

theorem checkSink_count {s : State} {b : List Byte} {c : Ctx} {r : Nat} (h : s.checkSink b = .accept c r) :
    1 ≤ recCount b := by
  unfold State.checkSink at h
  split at h
  · cases h
  · next hv => simp [runFieldsValid] at hv; omega

theorem acceptFeed_frame (hP : RoleRel P) (s : State) (b : List Byte) (region e : Nat) (h : 1 ≤ recCount b) :
    Frame P s (s.acceptFeed b region e) := by
  unfold State.acceptFeed
  extract_lets s1 s2 s3
  have h1 : Frame P s s1 := handle_frame hP s _ _ _
  have h2 : Frame P s1 s2 := setFeed_frame hP s1 e _ (fun _ => by
    simp only [FeedEntry.balanced, newFeed, FeedCounts.total, FeedCounts.zero]; omega)
  have h3 : Frame P s2 s3 := Frame.modCtx hP s2 _ _ (fun c _ => CtxKept.of_eq hP rfl rfl rfl rfl rfl rfl)
  exact ((h1.trans hP h2).trans hP h3).trans hP (classifyRun_frame hP _ _ _ _ _ _)

theorem acceptFailedFeed_frame (hP : RoleRel P) (s : State) (b : List Byte) : Frame P s (s.acceptFailedFeed b) :=
  Frame.same hP

theorem dispatchFeed_frame (hP : RoleRel P) (s : State) (b : List Byte) : Frame P s (s.dispatchFeed b) := by
  unfold State.dispatchFeed
  split
  · exact refuseRecord_frame hP s _
  · next c r hv =>
    repeat' split
    · exact block_frame hP s
    · exact acceptFailedFeed_frame hP s b
    · exact block_frame hP s
    · exact acceptFeed_frame hP s b _ _ (checkFeed_count hv)

theorem unwrittenRun_frame (hP : RoleRel P) (e n : Nat) (s : State) : Frame P s (State.unwrittenRun e n s) := by
  induction n generalizing s with
  | zero => exact Frame.refl hP s
  | succ n ih => exact (sinkOutcome_frame hP s e _).trans hP (ih _)

theorem acceptSink_frame (hP : RoleRel P) (s : State) (b : List Byte) (c : Ctx) (region e : Nat) (h : 1 ≤ recCount b) :
    Frame P s (s.acceptSink b c region e) := by
  unfold State.acceptSink
  extract_lets s1 s2 s3 s4
  have h1 : Frame P s s1 := handle_frame hP s _ _ _
  have h2 : Frame P s1 s2 := setSink_frame hP s1 e _ (fun _ => by
    simp only [SinkEntry.balanced, newSink]; omega)
  have h3 : Frame P s2 s3 := Frame.modCtx hP s2 _ _ (fun c _ => CtxKept.of_eq hP rfl rfl rfl rfl rfl rfl)
  have h4 : Frame P s3 s4 := unwrittenRun_frame hP e _ s3
  exact (((h1.trans hP h2).trans hP h3).trans hP h4).trans hP (bindEach_frame hP _ _ _ _ _)

theorem dispatchSink_frame (hP : RoleRel P) (s : State) (b : List Byte) : Frame P s (s.dispatchSink b) := by
  unfold State.dispatchSink
  split
  · exact refuseRecord_frame hP s _
  · next c r hv =>
    repeat' split
    · exact block_frame hP s
    · exact block_frame hP s
    · exact acceptSink_frame hP s b c _ _ (checkSink_count hv)

/-! ### DROP and ABORT -/

/-- A DROP that passes its checks names a context that is there and a fragment that is SOURCE, SPARE or FAILED (R106). -/
theorem checkDrop_accept {s : State} {b : List Byte} {c : Ctx} (h : s.checkDrop b = .accept c) :
    s.ctxs.get (recContext b) = some c ∧
      (c.role (recFragment b) = .source ∨ c.role (recFragment b) = .spare ∨ c.role (recFragment b) = .failed) := by
  unfold State.checkDrop at h
  split at h
  · cases h
  · split at h
    · cases h
    · next d hd =>
      unfold State.namedContext at hd
      split at hd
      · next d' hd' =>
        split at hd
        · cases hd
          split at h
          · cases h
          · split at h
            · cases h
            · next hr =>
              cases h
              refine ⟨hd', ?_⟩
              rw [not_or] at hr
              cases hrole : c.role (recFragment b) <;> simp_all
        · cases hd
      · cases hd

theorem dispatchDrop_frame (hP : RoleRel P) (hA : AllowsMoves P) (s : State) (b : List Byte) :
    Frame P s (s.dispatchDrop b) := by
  unfold State.dispatchDrop
  split
  · exact refuseRecord_frame hP s _
  · next c hv =>
    obtain ⟨hc, hr⟩ := checkDrop_accept hv
    repeat' split
    · exact handle_frame hP s _ _ _
    · exact holdDispatch_frame hP s
    · next hsrc =>
      exact (handleDrop_frame hP s _).trans hP (failSource_frame hP _ _ _ ⟨hA.failSource, hA.promote⟩)
    · next hf _ hsrc =>
      refine (handleDrop_frame hP s _).trans hP (failSpare_frame hP _ _ _ (fun c' hc' => ?_))
      have : c' = c := Option.some.inj (hc'.symm.trans hc)
      subst this
      rcases hr with hr | hr | hr
      · exact absurd hr hsrc
      · rw [hr]; exact hA.failSpare
      · exact absurd hr hf

theorem dispatchAbort_frame (hP : RoleRel P) (s : State) (b : List Byte) : Frame P s (s.dispatchAbort b) := by
  unfold State.dispatchAbort
  repeat' split
  · exact refuseRecord_frame hP s _
  · exact holdDispatch_frame hP s
  · refine Frame.trans hP ?_ (endRequest_frame hP _ _ _)
    refine (handle_frame hP s .taken 0 []).trans hP (Frame.modCtx hP _ _ _ (fun c _ => ?_))
    exact CtxKept.of_eq hP rfl rfl rfl rfl rfl rfl

theorem dispatchHeld_frame (hP : RoleRel P) (hA : AllowsMoves P) (s : State) : Frame P s s.dispatchHeld := by
  unfold State.dispatchHeld
  extract_lets b
  split
  · exact dispatchDrop_frame hP hA s b
  · exact dispatchAbort_frame hP s b
  · exact Frame.refl hP s

theorem recheck_frame (hP : RoleRel P) (s : State) : Frame P s s.recheck := by
  unfold State.recheck
  extract_lets b
  split
  · exact dispatchFeed_frame hP s b
  · exact dispatchSink_frame hP s b
  · exact Frame.refl hP s

/-! ### Fetches, links, starts and stops -/

theorem discardFetch_frame (hP : RoleRel P) (s : State) : Frame P s s.discardFetch := by
  unfold State.discardFetch
  split <;> exact Frame.same hP

theorem clearFetch_frame (hP : RoleRel P) (s : State) : Frame P s s.clearFetch := Frame.same hP

theorem fetchErred_frame (hP : RoleRel P) (s : State) : Frame P s s.fetchErred := by
  unfold State.fetchErred
  repeat' split
  · exact Frame.refl hP s
  · exact Frame.refl hP s
  · exact Frame.same hP
  · exact discardFetch_frame hP s
  · exact ((clearFetch_frame hP s).trans hP (fault_frame hP _ _ _)).trans hP (offer_frame hP _ _)

theorem linkArrived_frame (hP : RoleRel P) (s : State) (link : Word64) : Frame P s (s.linkArrived link) := by
  unfold State.linkArrived
  extract_lets _ s1
  have h1 : Frame P s s1 := Frame.same hP
  repeat' split
  · exact h1.trans hP (Frame.same hP)
  · exact h1.trans hP (Frame.same hP)
  · exact h1.trans hP (Frame.same hP)
  · exact h1.trans hP (fault_frame hP s1 _ _)

theorem linkRead_frame (hP : RoleRel P) (s : State) (link : Word64) : Frame P s (s.linkRead link) := by
  unfold State.linkRead
  repeat' split
  · exact discardFetch_frame hP s
  · exact (linkArrived_frame hP s link).trans hP (offer_frame hP _ _)
  · exact Frame.refl hP s

theorem followLink_frame (hP : RoleRel P) (s : State) : Frame P s s.followLink := by
  unfold State.followLink
  extract_lets link
  repeat' split
  · exact Frame.same hP
  · exact takeRecordAt_frame hP s _
  · exact fault_frame hP s _ _

theorem check_frame (hP : RoleRel P) (s : State) : Frame P s s.check := by
  unfold State.check
  repeat' split
  · exact Frame.same hP
  · exact Frame.same hP
  · exact Frame.refl hP s

theorem start_frame (hP : RoleRel P) (s : State) : Frame P s s.start := by
  unfold State.start
  repeat' split
  · exact Frame.same hP
  · exact Frame.same hP
  · exact takeRecordAt_frame hP s _
  · exact fault_frame hP s _ _

theorem stop_frame (hP : RoleRel P) (s : State) : Frame P s s.stop := by
  unfold State.stop
  repeat' split
  all_goals first
    | exact Frame.refl hP s
    | exact Frame.same hP

end Sys2Proof.Machine
end

