-- ==== Sys2Proof/Laws/Bones.lean ====
section
/-! SUPPORT. The operations that touch, of any context, at most its position table and its feed and sink lists: said once for each. -/

namespace Sys2Proof.Machine

/-- What these operations keep. -/
abbrev BonesKept (s t : State) : Prop := s.ctxsAlike t

theorem BonesKept.refl (s : State) : BonesKept s s := fun _ => rfl

theorem BonesKept.trans {s t u : State} (h1 : BonesKept s t) (h2 : BonesKept t u) : BonesKept s u :=
  fun j => (h2 j).trans (h1 j)

theorem BonesKept.same {s t : State} (h : t.ctxs = s.ctxs) : BonesKept s t := fun j => by rw [h]

/-- What a context is after such an operation. -/
theorem BonesKept.ctx {s t : State} (h : BonesKept s t) {i : Nat} {c : Ctx} (hc : s.ctxs.get i = some c) :
    ∃ c', t.ctxs.get i = some c' ∧ c'.bones = c.bones := by
  have hi := h i
  rw [hc] at hi
  cases ht : t.ctxs.get i with
  | none => rw [ht] at hi; cases hi
  | some c' => rw [ht] at hi; exact ⟨c', rfl, Option.some.inj hi⟩

theorem modCtx_bones (s : State) (i : Nat) (f : Ctx → Ctx) (hf : ∀ c, (f c).bones = c.bones) : BonesKept s (s.modCtx i f) := by
  intro j
  unfold State.modCtx
  split
  · next c hc =>
    simp only [Table.get_set]
    split
    · next h => subst h; simp [hc, hf]
    · rfl
  · rfl

theorem setCtx_bones (s : State) (i : Nat) (c c' : Ctx) (hc : s.ctxs.get i = some c) (h : c'.bones = c.bones) (t : State)
    (ht : t.ctxs = s.ctxs.set i c') : BonesKept s t := by
  intro j
  rw [ht, Table.get_set]
  split
  · next he => subst he; simp [hc, h]
  · rfl

theorem oweProgress_bones (s : State) (i : Nat) : BonesKept s (s.oweProgress i) := by
  unfold State.oweProgress
  repeat' split
  all_goals exact BonesKept.same rfl

theorem reportRoom_bones (s : State) (kind : Nat) : BonesKept s (s.reportRoom kind) := by
  unfold State.reportRoom
  split <;> exact BonesKept.same rfl

theorem finaliseFeed_bones (s : State) (e : Nat) (f : FeedEntry) : BonesKept s (s.finaliseFeed e f) := by
  unfold State.finaliseFeed
  extract_lets s1 s2
  have h1 : BonesKept s s1 := modCtx_bones s f.ctx (fun c => { c with feedList := c.feedList.filter (· ≠ e) }) (fun _ => rfl)
  exact (h1.trans (BonesKept.same (t := s2) rfl)).trans (reportRoom_bones s2 2)

theorem finaliseSink_bones (s : State) (e : Nat) (k : SinkEntry) : BonesKept s (s.finaliseSink e k) := by
  unfold State.finaliseSink
  extract_lets s1 s2
  have h1 : BonesKept s s1 := modCtx_bones s k.ctx (fun c => { c with sinkList := c.sinkList.filter (· ≠ e) }) (fun _ => rfl)
  exact (h1.trans (BonesKept.same (t := s2) rfl)).trans (reportRoom_bones s2 3)

theorem feedOutcome_bones (s : State) (e : Nat) (o : FeedOutcome) : BonesKept s (s.feedOutcome e o) := by
  unfold State.feedOutcome
  split
  · exact BonesKept.refl s
  · extract_lets f
    split
    · exact finaliseFeed_bones s e f
    · exact BonesKept.same rfl

theorem sinkOutcome_bones (s : State) (e : Nat) (o : SinkOutcome) : BonesKept s (s.sinkOutcome e o) := by
  unfold State.sinkOutcome
  split
  · exact BonesKept.refl s
  · extract_lets k
    split
    · exact finaliseSink_bones s e k
    · exact BonesKept.same rfl

theorem putEntry_bones (s : State) (i seg f : Nat) (e : Option LogEntry) : BonesKept s (s.putEntry i seg f e) :=
  modCtx_bones s i _ (fun c => by split <;> rfl)

theorem releaseAt_bones (s : State) (i f seg : Nat) : BonesKept s (s.releaseAt i f seg) := by
  unfold State.releaseAt
  repeat' split
  all_goals first
    | exact BonesKept.refl s
    | exact putEntry_bones s i seg f none
    | exact (putEntry_bones s i seg f none).trans (feedOutcome_bones _ _ _)

theorem releaseEach_bones (i f : Nat) (segs : List Nat) (s : State) : BonesKept s (State.releaseEach i f segs s) := by
  induction segs generalizing s with
  | nil => exact BonesKept.refl s
  | cons seg rest ih => exact (releaseAt_bones s i f seg).trans (ih _)

theorem release_bones (s : State) (i f : Nat) : BonesKept s (s.release i f) := by
  unfold State.release
  split
  · exact BonesKept.refl s
  · exact releaseEach_bones i f _ s

theorem discard_bones (s : State) (i seg f : Nat) : BonesKept s (s.discard i seg f) := by
  unfold State.discard
  repeat' split
  all_goals first
    | exact BonesKept.refl s
    | exact putEntry_bones s i seg f _
    | exact (putEntry_bones s i seg f none).trans (feedOutcome_bones _ _ _)

theorem discardStaging_bones (s : State) (k : Nat) : BonesKept s (s.discardStaging k) := by
  unfold State.discardStaging
  split
  · exact BonesKept.refl s
  · exact (BonesKept.same (t := s.freeStaging k) rfl).trans (discard_bones _ _ _ _)

theorem discardEach_bones (ks : List Nat) (s : State) : BonesKept s (State.discardEach ks s) := by
  induction ks generalizing s with
  | nil => exact BonesKept.refl s
  | cons k rest ih => exact (discardStaging_bones s k).trans (ih _)

theorem markStale_bones (s : State) (i : Nat) : BonesKept s (s.markStale i) :=
  BonesKept.trans (BonesKept.same rfl) (discardEach_bones _ _)

theorem resetContributions_bones (s : State) (i : Nat) : BonesKept s (s.resetContributions i) := by
  unfold State.resetContributions
  split
  · exact BonesKept.refl s
  · next c hc => exact setCtx_bones s i c { c with slots := c.slots.mapValues Position.reset } hc rfl _ rfl

theorem requeueSolve_bones (s : State) (i : Nat) : BonesKept s (s.requeueSolve i) := by
  unfold State.requeueSolve
  split <;> exact BonesKept.same rfl

theorem startSolve_bones (s : State) : BonesKept s s.startSolve := by
  unfold State.startSolve
  repeat' split
  all_goals exact BonesKept.same rfl

theorem takeCombine_bones (s : State) : BonesKept s s.takeCombine := by
  unfold State.takeCombine
  repeat' split
  all_goals exact BonesKept.same rfl

theorem takeEmit_bones (s : State) : BonesKept s s.takeEmit := by
  unfold State.takeEmit
  split
  · next i seg rest _ _ =>
    split
    · exact BonesKept.same rfl
    · next c hc =>
      split
      · exact BonesKept.same rfl
      · next p _ => exact setCtx_bones s i c (c.putPosition seg { p with state := .emitting }) hc rfl _ rfl
  · exact BonesKept.refl s

theorem joinEmit_bones (s : State) (i seg : Nat) : BonesKept s (s.joinEmit i seg) := by
  unfold State.joinEmit
  repeat' split
  all_goals exact BonesKept.same rfl

theorem bindAt_bones (s : State) (i e t seg : Nat) : BonesKept s (s.bindAt i e t seg) :=
  (modCtx_bones s i _ (fun c => by split <;> rfl)).trans (joinEmit_bones _ i seg)

theorem bindEach_bones (i e t : Nat) (segs : List Nat) (s : State) : BonesKept s (State.bindEach i e t segs s) := by
  induction segs generalizing s with
  | nil => exact BonesKept.refl s
  | cons seg rest ih => exact (bindAt_bones s i e t seg).trans (ih _)

theorem unwrittenRun_bones (e n : Nat) (s : State) : BonesKept s (State.unwrittenRun e n s) := by
  induction n generalizing s with
  | zero => exact BonesKept.refl s
  | succ n ih => exact (sinkOutcome_bones s e .unwritten).trans (ih _)

/-- A settled event keeps the bones of a context that holds its slot. -/
theorem settle_ctx (s : State) {i : Nat} {c : Ctx} (hc : s.ctxs.get i = some c) (hh : s.holds i) :
    ∃ c', s.settle.ctxs.get i = some c' ∧ c'.bones = c.bones := by
  obtain ⟨c1, h1, e1⟩ := (((startSolve_bones s).trans (takeCombine_bones _)).trans (takeEmit_bones _)).ctx hc
  have hs : s.startSolve.takeCombine.takeEmit.holds i :=
    (((startSolve_frame anyRole_rel s).trans anyRole_rel (takeCombine_frame anyRole_rel _)).trans anyRole_rel
      (takeEmit_frame anyRole_rel _)).stays i hh
  obtain ⟨c2, h2, e2⟩ := (offerReady_placing _).ctx h1 hs
  refine ⟨c2, h2, ?_⟩
  have : c2.bones = c1.bones := by
    have := congrArg Ctx.bones e2
    simpa [Ctx.bones, Ctx.steady] using this
  rw [this, e1]

/-- With a place free and the claim line empty, the write the Walker has ready is placed first by what settles an event. -/
theorem settle_queue (s : State) (q : QWrite) (h1 : s.port.claimLine = []) (h2 : s.walker.ready = some q) (h3 : s.port.writeQueue.length + 1 ≤ 64) :
    ∃ more, s.settle.port.writeQueue = s.port.writeQueue ++ q :: more := by
  have e : s.startSolve.takeCombine.takeEmit.port.writeQueue = s.port.writeQueue ∧ s.startSolve.takeCombine.takeEmit.port.claimLine = s.port.claimLine ∧ s.startSolve.takeCombine.takeEmit.walker = s.walker := by
    have a : s.startSolve.port = s.port ∧ s.startSolve.walker = s.walker := by
      unfold State.startSolve; repeat' split
      all_goals exact ⟨rfl, rfl⟩
    generalize s.startSolve = u at *
    have b : u.takeCombine.port.writeQueue = u.port.writeQueue ∧ u.takeCombine.port.claimLine = u.port.claimLine ∧ u.takeCombine.walker = u.walker := by
      unfold State.takeCombine; repeat' split
      all_goals exact ⟨rfl, rfl, rfl⟩
    generalize u.takeCombine = v at *
    have d : v.takeEmit.port = v.port ∧ v.takeEmit.walker = v.walker := by
      unfold State.takeEmit; repeat' split
      all_goals exact ⟨rfl, rfl⟩
    rw [d.1, d.2, b.1, b.2.1, b.2.2, a.1, a.2]; exact ⟨rfl, rfl, rfl⟩
  unfold State.settle
  generalize s.startSolve.takeCombine.takeEmit = u at *
  unfold State.offerReady
  extract_lets u1 ws
  have hu1 : u1 = State.enqueue { u with walker := { u.walker with ready := none, dropped := none } } q := offer_walker u q (by rw [e.2.1]; exact h1) (by rw [e.2.2]; exact h2) (by rw [e.1]; exact h3)
  have : ∀ x : State, x.port.writeQueue = u1.port.writeQueue → ∃ more, (State.offerEach (orderWriters u1.draws ws) x).port.writeQueue = s.port.writeQueue ++ q :: more := by
    intro x hx
    obtain ⟨more, hm⟩ := (offerEach_placing (orderWriters u1.draws ws) x).queue
    refine ⟨more, ?_⟩
    rw [hm, hx, hu1]
    simp [State.enqueue, e.1]
  split
  · exact this _ rfl
  · exact this _ rfl

/-- In a calm state every context holds its slot. -/
theorem holds_calm (s : State) (h : Calm s) (i : Nat) (c : Ctx) (hc : s.ctxs.get i = some c) : s.holds i := by
  refine ⟨by simp [hc], ?_⟩
  simp [State.readyOf, Table.get, h.ready, findRow]

/-- The context after a role update. -/
theorem roleUpdate_ctx (s : State) (i : Nat) (c : Ctx) (hc : s.ctxs.get i = some c) (ch) :
    ∃ c', (s.roleUpdate i ch).ctxs.get i = some c' ∧ c' = { c with roles := setRoles ch c.roles, exposed := c'.noSpare } := by
  unfold State.roleUpdate
  have : (s.modCtx i (fun c => let c := { c with roles := setRoles ch c.roles }; { c with exposed := c.noSpare })).ctxs.get i = some { c with roles := setRoles ch c.roles, exposed := ({ c with roles := setRoles ch c.roles } : Ctx).noSpare } := by
    simp [State.modCtx, hc]
  refine ⟨{ c with roles := setRoles ch c.roles, exposed := ({ c with roles := setRoles ch c.roles } : Ctx).noSpare }, ?_, rfl⟩
  unfold State.oweProgress
  repeat' split
  all_goals exact this

end Sys2Proof.Machine
end

