-- ==== Sys2Proof/Laws/Records.lean ====
section
/-! SUPPORT. How a record arrives and what its disposition leaves, when nothing is left over from before. -/

namespace Sys2Proof.Machine

theorem exactBytes_length (bytes : List Byte) (n : Nat) (h : bytes.length = n) : exactBytes n bytes = bytes := by
  simp [exactBytes, ← h]

/-- A well-formed record command carries the record as fetched. -/
theorem withKind_recordBytes (k : Nat) (bytes : List Byte) (h : recordBytes k bytes = true) : withKind k bytes = bytes := by
  simp only [recordBytes, Bool.and_eq_true, beq_iff_eq] at h
  rw [withKind, exactBytes_length bytes 64 h.1]
  apply List.ext_getElem
  · simp
  · intro n h1 h2
    rw [List.getElem_set]
    split
    · next he =>
      subst he
      have h3 := h.2
      simp only [List.getD, List.getElem?_eq_getElem h2, Option.getD_some] at h3
      rw [← h3]
      simp
    · rfl

theorem recKind_recordBytes (k : Nat) (bytes : List Byte) (h : recordBytes k bytes = true) : recKind bytes = k := by
  simp only [recordBytes, Bool.and_eq_true, beq_iff_eq] at h
  have h2 : 8 < bytes.length := by omega
  have h3 := h.2
  simp only [List.getD, List.getElem?_eq_getElem h2, Option.getD_some] at h3
  rw [recKind, fieldAt, List.drop_eq_getElem_cons h2]
  show (bytes[8]).toNat + 256 * 0 = k
  omega

theorem recordArrived_awaits (s : State) (bytes : List Byte) (h : s.awaitsRecord = true) :
    s.recordArrived bytes = (s.firstHalfArrived bytes).settle ∧ s.walker.stopping = false := by
  simp only [State.awaitsRecord, Bool.and_eq_true, Bool.not_eq_true'] at h
  obtain ⟨⟨⟨_, h1⟩, h2⟩, h3⟩ := h
  simp [State.recordArrived, h1, h2, h3]

theorem firstHalf_other (s : State) (bytes : List Byte) (h : recKind bytes ≠ 1) :
    s.firstHalfArrived bytes = (s.fetched bytes).checkRecord := by
  unfold State.firstHalfArrived
  simp only [h, if_false]
  rfl

theorem calm_fetched (s : State) (bytes : List Byte) (h : Calm s) : Calm (s.fetched bytes) :=
  ⟨h.line, h.statuses, h.ready, h.owed, h.messages, h.units, h.emits, h.solves, h.combines⟩

/-- A handled record, settled. -/
theorem settle_handle (s : State) (h : Calm s) (h1 : s.port.writeQueue.length + 1 ≤ 64) (d : Disposition) (reason : Nat)
    (result : List Byte) :
    (s.handle d reason result).settle =
      s.concluded (if d.isFinal then .final (recNotify s.walker.buffer) else .taken)
        (dispositionSpans s.walker.next d reason result) := by
  have hc : Calm (s.handle d reason result) :=
    ⟨h.line, h.statuses, h.ready, h.owed, h.messages, h.units, h.emits, h.solves, h.combines⟩
  rw [settle_walker _ hc (s.walker.dispositionWrite d reason result) rfl h1]
  rfl

theorem offer_handle (s : State) (h : Calm s) (h1 : s.port.writeQueue.length + 1 ≤ 64) (d : Disposition) (reason : Nat)
    (result : List Byte) :
    (s.handle d reason result).offer .walker =
      s.concluded (if d.isFinal then .final (recNotify s.walker.buffer) else .taken)
        (dispositionSpans s.walker.next d reason result) := by
  rw [offer_walker (s.handle d reason result) (s.walker.dispositionWrite d reason result) h.line rfl h1]
  rfl

/-- A fault, its writes placed. -/
theorem controlPlaced_fault (s : State) (h : Calm s) (r : WalkerFault) (addr : Word64) :
    (s.fault r addr).controlPlaced = s.faulted r addr ∧ (s.fault r addr).ctl.messages ≤ 1 := by
  unfold State.fault State.oweReport State.cause Control.cause
  have hm := h.messages
  have ho := h.owed
  cases hv : s.ctl.regionValid <;> cases ha : s.ctl.attention <;> cases he : s.ctl.attnEnable <;>
    simp_all [State.controlPlaced, State.faulted, State.reportReady, Control.regionValid, Walker.fault, State.reportWrite,
      State.reportValues, State.messageWrite]

theorem offer_fault (s : State) (h : Calm s) (h2 : s.port.writeQueue.length + 2 ≤ 64) (r : WalkerFault) (addr : Word64) :
    (s.fault r addr).offer .control = s.faulted r addr := by
  have hc := controlPlaced_fault s h r addr
  have hp : (s.fault r addr).port = s.port := by
    unfold State.fault State.oweReport State.cause; split <;> rfl
  rw [offer_control _ (by rw [hp]; exact h.line) (by rw [hp]; exact h2) hc.2, hc.1]

theorem settle_fault (s : State) (h : Calm s) (h1 : s.walker.ready = none) (h2 : s.port.writeQueue.length + 2 ≤ 64)
    (r : WalkerFault) (addr : Word64) : (s.fault r addr).settle = s.faulted r addr := by
  have hc := controlPlaced_fault s h r addr
  have hp : (s.fault r addr).port = s.port ∧ (s.fault r addr).statusQueue = s.statusQueue ∧
      (s.fault r addr).ready = s.ready ∧ (s.fault r addr).emit = s.emit ∧ (s.fault r addr).emitQueue = s.emitQueue ∧
      (s.fault r addr).solving = s.solving ∧ (s.fault r addr).solveQueue = s.solveQueue ∧
      (s.fault r addr).combining = s.combining ∧ (s.fault r addr).combineQueue = s.combineQueue ∧
      (s.fault r addr).walker.ready = s.walker.ready := by
    unfold State.fault State.oweReport State.cause; split <;> simp [Walker.fault]
  obtain ⟨a1, a2, a3, a4, a5, a6, a7, a8, a9, a10⟩ := hp
  rw [settle_offerReady _ (by rw [a6, a7]; exact h.solves) (by rw [a8, a9]; exact h.combines) (by rw [a4, a5]; exact h.emits),
    offerReady_control _ (by rw [a1]; exact h.line) (by rw [a2]; exact h.statuses) (by rw [a3]; exact h.ready)
      (by rw [a4]; exact h.units) hc.2 (by rw [a10]; exact h1) (by rw [a1]; exact h2), hc.1]

/-- The refusal of a fetched record, settled. -/
theorem settle_refuse (s : State) (bytes : List Byte) (h : s.atRest 1 = true) (r : Reason) :
    ((s.fetched bytes).refuseRecord r).settle = s.refused bytes r := by
  obtain ⟨hc, -, h1⟩ := (s.atRest_iff 1).1 h
  exact settle_handle (s.fetched bytes) (calm_fetched s bytes hc) h1 .refused r.code []

theorem recKind_posted (k : Nat) (b : List Byte) (h : postedRecord k b = true) : recKind b = k := by
  simp only [postedRecord, Bool.and_eq_true, decide_eq_true_eq] at h
  exact recKind_recordBytes k b h.1.1.1

/-- A posted record of kinds 2 to 8 goes to the owner of its kind, and the event is settled (R171, R172). -/
theorem recordArrived_posted (s : State) (b : List Byte) (k : Nat) (ha : s.awaitsRecord = true) (hp : postedRecord k b = true)
    (hk : 2 ≤ k) (hk8 : k ≤ 8) : s.recordArrived (withKind k b) = ((s.fetched b).dispatch).settle := by
  have hkk := recKind_posted k b hp
  simp only [postedRecord, Bool.and_eq_true, decide_eq_true_eq] at hp
  obtain ⟨⟨⟨h1, h2⟩, h3⟩, h4⟩ := hp
  rw [withKind_recordBytes k b h1, (recordArrived_awaits s b ha).1, firstHalf_other s b (by omega)]
  congr 1
  unfold State.checkRecord
  have : (s.fetched b).walker.buffer = b := rfl
  simp only [this]
  rw [if_neg (by simp [h2]), if_neg (by omega), if_neg (by rw [hkk, h3, h4]; simp)]

/-! ### What a judged segment and a source-set change leave, in the model's own operations -/

@[simp] theorem Counters.afterJudging_none (n : Counters) : n.afterJudging none = n := rfl

theorem Counters.afterJudging_some (n : Counters) (r : Refused) : n.afterJudging (some r) = n.countRefusal r := by
  cases r <;> simp [Counters.afterJudging, Counters.countRefusal, bump16]

/-- R61 on one entry: `LogEntry.reset` at an OPEN position, and nothing elsewhere. -/
theorem Position.unread_eq (p : Position) (en : LogEntry) : p.unread en = if p.state = .opened then en.reset else en := by
  by_cases h : p.state = .opened <;> simp [Position.unread, LogEntry.reset, h]

/-- A report of a good segment stores its position as `Ctx.judgedAt` has it, and binds it if that made it FULL. -/
theorem contribute_eq {s : State} {i seg f : Nat} {c : Ctx} {p : Position} {en : LogEntry} (hc : s.ctxs.get i = some c)
    (hp : c.holding seg = some p) (he : p.row.get f = some en) :
    s.contribute i seg f =
      (let t := { s with ctxs := s.ctxs.set i (c.putPosition seg (c.judgedAt p f en none)) }
       if c.allContributed (p.putEntry f (some ⟨.contributed, en.feed, true⟩)) then t.bindFull i seg else t) := by
  by_cases h : c.allContributed (p.putEntry f (some ⟨.contributed, en.feed, true⟩)) = true <;>
    simp [State.contribute, hc, hp, he, Ctx.judgedAt, h]

end Sys2Proof.Machine
end

