-- ==== Sys2Proof/Tests/Slice0.lean ====
section
/-! SUPPORT. Tests: ill-formed commands are refused, the manual's worked cases, and for each statement a state that meets its hypotheses. -/

set_option Elab.async false

namespace Sys2Proof.Tests

open Sys2Proof Sys2Proof.Machine

/-! ### Well-formed commands: one ill-formed term for each check -/

/-- 64 bytes of 00 but for the kind byte. -/
def plainRecord (kind : Nat) : List Byte := (List.replicate 64 0).set 8 (BitVec.ofNat 8 kind)

theorem test_wellFormed_kinds :
    Instr.wellFormed (.openRecord (plainRecord 1)) = true ∧ Instr.wellFormed (.feed (plainRecord 2)) = true ∧
    Instr.wellFormed (.sink (plainRecord 3)) = true ∧ Instr.wellFormed (.drop (plainRecord 4)) = true ∧
    Instr.wellFormed (.abort (plainRecord 5)) = true ∧ Instr.wellFormed (.region (plainRecord 6)) = true ∧
    Instr.wellFormed (.tune (plainRecord 7)) = true ∧ Instr.wellFormed (.level (plainRecord 8)) = true ∧
    Instr.wellFormed (.badKind (plainRecord 9)) = true := by decide +kernel

theorem test_illFormed_lengths :
    Instr.wellFormed (.openRecord ((plainRecord 1).take 63)) = false ∧
    Instr.wellFormed (.feed ((plainRecord 2) ++ [0])) = false ∧ Instr.wellFormed (.badKind []) = false ∧
    Instr.wellFormed (.sourceReadComplete 0 (List.replicate 543 0)) = false := by decide +kernel

theorem test_illFormed_kinds :
    Instr.wellFormed (.feed (plainRecord 3)) = false ∧ Instr.wellFormed (.sink (plainRecord 2)) = false ∧
    Instr.wellFormed (.drop (plainRecord 5)) = false ∧ Instr.wellFormed (.abort (plainRecord 4)) = false ∧
    Instr.wellFormed (.region (plainRecord 7)) = false ∧ Instr.wellFormed (.tune (plainRecord 8)) = false ∧
    Instr.wellFormed (.level (plainRecord 6)) = false ∧ Instr.wellFormed (.badKind (plainRecord 8)) = false := by
  decide +kernel

theorem test_illFormed_register_bits :
    Instr.wellFormed (.runSet 2) = false ∧ Instr.wellFormed (.runSet 3) = false ∧ Instr.wellFormed (.runClear 1) = false ∧
    Instr.wellFormed (.runClear 2) = false ∧ Instr.wellFormed (.attnEnable 6) = false ∧
    Instr.wellFormed (.softReset 5) = false ∧ Instr.wellFormed (.clearAttention 0x100) = false := by decide +kernel

/-- No row of the table gives bits, so no word spells a command and none is put in the queue. -/
theorem test_no_word_spells_a_command : decodeTableWord 32 7 = none ∧ State.reset.withFetchWord 32 7 = State.reset :=
  ⟨rfl, rfl⟩

/-! ### Chapter 1: worked case -/

/-- Source: R2's table of EXP, and R3's examples. -/
theorem test_rom_entries :
    [0, 1, 7, 8, 23, 254].map expAt = [0x01#8, 0x02#8, 0x80#8, 0x1D#8, 0xC9#8, 0x8E#8] ∧ logOf 0x02#8 = 1 ∧
    gfMul 0x8E#8 0x8F#8 = 0xC9#8 := by decide +kernel

/-- Source: the fragments' bytes of the worked case at the end of chapter 1. -/
theorem test_stripe_bytes :
    [0, 1, 2, 3, 4].map (fun i => (List.zipWith gfMul (generatorRow 2 i) [0x01#8, 0x02#8]).foldl gfAdd 0) =
      [0x01#8, 0x02#8, 0x7B#8, 0xF5#8, 0x14#8] := by decide +kernel

/-- Source: the table "Folding in the sources": source 3 first, then source 1, into the cells of targets 0 and 2. -/
theorem test_folding_worked_case :
    foldCell 0x03#8 1 [0xF5#8] [0x00#8] = [0x02#8] ∧ foldCell 0x8F#8 1 [0xF5#8] [0x00#8] = [0x01#8] ∧
    foldCell 0x8F#8 1 [0x02#8] [0x02#8] = [0x01#8] ∧ foldCell 0x3D#8 1 [0x02#8] [0x01#8] = [0x7B#8] := by decide +kernel

/-- Source: "After a substitution", the table for sources 1 and 4, and R13's data lengths of the three-segment rebuild. -/
theorem test_substituted_table_and_lengths :
    solveTable 2 [1, 4] [0, 2] = [[0xA6#8, 0x04#8], [0xA7#8, 0x02#8]] ∧
    [0, 1, 2].map (dataLengthOf 10000 4096) = [4096, 4096, 1808] := by decide +kernel

/-- Source: section 11.4, the trailer of segment 2 for target 2 in chapter 1's worked case. -/
theorem test_trailer_bytes :
    ((trailerBytes { openAddr := 0, notify := false, stripe := 7, epoch := 5, k := 2, m := 3, sizeCode := 3, fragLength := 10000,
                     width := 2, errorLimit := 1, stallLimit := 0 } 2 2 []).drop 12).take 16 =
      [2, 0, 0, 0, 0x10, 0x07, 2, 2, 3, 3, 0, 0, 0, 0, 0, 0] := by decide +kernel

/-- Source: section 11.3, the example of G1's final write. -/
theorem test_feed_result_bytes :
    feedResult { used := 1, refused := 1, readFailed := 1, late := 3, duplicate := 1, unused := 1 } =
      [1, 0, 1, 0, 1, 0, 3, 0, 1, 0, 1, 0, 0, 0, 0, 0] := by decide +kernel

/-! ### Chapter 8: worked example -/

/-- Source: the table of the level-6 tick: 64 grants of 4128 bytes, the next tick, 64 more. -/
theorem test_level_six_tick :
    let g : Governor := { level := 6, credit := 262144, ticks := 0 }
    let charges := fun (n : Nat) (h : Governor) => (List.replicate n 4128).foldl Governor.charge h
    (charges 63 g).credit = 2080 ∧ (charges 64 g).credit = -2048 ∧ (charges 64 g).allows = false ∧
    (charges 64 g).refill.credit = 260096 ∧ (charges 64 (charges 64 g).refill).credit = -4096 := by decide +kernel

/-- Source: the end of the same example: a pair at 2080, LEVEL down by 2, to 15, and to 3. -/
theorem test_level_changes :
    (Governor.charge { level := 6, credit := 2080, ticks := 0 } 8256).credit = -6176 ∧
    (Governor.setLevel { level := 6, credit := 200000, ticks := 0 } 4).credit = 131072 ∧
    (Governor.setLevel { level := 6, credit := -4096, ticks := 0 } 4).refill.credit = 126976 ∧
    (Governor.setLevel { level := 4, credit := 126976, ticks := 0 } 15).credit = 0 ∧
    (Governor.setLevel { level := 15, credit := 0, ticks := 0 } 3).credit = 98304 := by decide +kernel

/-! ### Small states -/

/-- What a command answers, as a state. -/
def after (o : Host.Outcome State Fault Refusal) : State :=
  match o with
  | .next t => t
  | _ => State.reset

/-- The bytes of the first write placed, span by span. -/
def firstWrite (o : Host.Outcome State Fault Refusal) : List (List Byte) :=
  ((after o).port.writeQueue.head?.map (fun q => q.spans.map (·.bytes))).getD []

/-- RUN set, a valid chain region, host region 0 readable and writable from 0x100000 on. -/
def chained : State :=
  { State.reset with
    ctl := { Control.reset with
      run := true, chnBase := 0x10000, chnSize := 0x10000,
      regions := ⟨[(0, { base := 0x100000, length := 0x100000, rights := 3 })]⟩ } }

/-- The Walker waits for the first 64 bytes of the record at 0x10100. -/
def fetching : State :=
  { chained with
    walker := { Walker.reset with state := .fetching, next := 0x10100 }
    port := { Port.reset with
      fetch := some { fetch := { what := .firstHalf, addr := 0x10100, reissues := 1, discard := false }, outstanding := true } } }

/-- 64 bytes of a POSTED record with NOTIFY. -/
def record (kind ctx frag : Nat) (body : List Byte) : List Byte :=
  exactBytes 64 (toLE 8 0 ++ toLE 1 kind ++ [1, 0, 0] ++ toLE 1 ctx ++ toLE 1 frag ++ [0, 0] ++ body)

/-- A FEED or SINK record of stripe 7. -/
def runRecord (kind ctx frag first count buffer : Nat) : List Byte :=
  record kind ctx frag (toLE 8 7 ++ toLE 4 first ++ toLE 1 count ++ [0, 0, 0] ++ toLE 8 buffer)

/-- A DROP or ABORT record of stripe 7. -/
def nameRecord (kind ctx frag : Nat) : List Byte := record kind ctx frag (toLE 8 7)

/-- The stripe of chapter 1's worked case, its segments 512 bytes long and three in number, a spare to hand. -/
def geometry : Geometry :=
  { openAddr := 0x10400, notify := true, stripe := 7, epoch := 5, k := 2, m := 3, sizeCode := 0, fragLength := 1200, width := 2,
    errorLimit := 2, stallLimit := 200 }

/-- A RUNNING rebuild of it: sources 1 and 3, spare 4, targets 0 and 2; segments 0 and 1 OPEN. -/
def rebuild : Ctx :=
  { geo := geometry, state := .running, cells := [0, 1, 2, 3], outcome := none, aborts := [], teardown := .draining,
    counters := Counters.zero, stalled := false, exposed := false, lastProgress := none, timerRuns := true, elapsed := 0,
    roles := ⟨[(0, .target), (1, .source), (2, .target), (3, .source), (4, .spare)]⟩,
    errors := Table.empty, cleanRuns := Table.empty, expiries := 0, base := 0, retired := 0,
    slots := ⟨[(0, { state := .opened, seg := 0, row := Table.empty, binds := Table.empty }),
               (1, { state := .opened, seg := 1, row := Table.empty, binds := Table.empty })]⟩,
    feedList := [], sinkList := [], table := some [[0x8F#8, 0x03#8], [0x3D#8, 0x8F#8]] }

/-- A state with one context, in slot 3, and its four cells lent. -/
def State.with3 (s : State) (c : Ctx) : State := { s with ctxs := ⟨[(3, c)]⟩, freeCells := 508 }

/-- A Feed entry of fragment `f` of the rebuild, segments 0 to 2, `n` of them owed. -/
def feedOf (f n : Nat) : FeedEntry :=
  { addr := 0x10200, notify := false, ctx := 3, frag := f, first := 0, count := 3, buffer := 0x100000, region := 0, pending := n,
    counts := { FeedCounts.zero with late := 3 - n } }

/-- The rebuild with fragment 1's segments logged under Feed entry 0, fragment 3's under entry 1. -/
def logged : Ctx :=
  let row : Table LogEntry := ⟨[(1, { state := .logged, feed := 0, verified := false }),
    (3, { state := .logged, feed := 1, verified := false })]⟩
  { rebuild with
    slots := ⟨[(0, { state := .opened, seg := 0, row := row, binds := Table.empty }),
               (1, { state := .opened, seg := 1, row := row, binds := Table.empty })]⟩
    feedList := [0, 1] }

/-- The same context in a state with the two Feed entries. -/
def feeding (s : State) : State :=
  { State.with3 s logged with feeds := ⟨[(0, feedOf 1 3), (1, feedOf 3 3)]⟩ }

/-! ### The code and the Governor -/

theorem witness_SolvedTables : ∃ s1 s2 t : Nat, s1 < 8 ∧ s2 < 8 ∧ s1 < s2 ∧ t < 8 := ⟨1, 3, 7, by decide⟩

/-- The smallest code and the largest, its sources at the top of the range. -/
theorem witness_EverySourceSetSolves : ∀ k ∈ [2, 20], 2 ≤ k ∧ k ≤ 20 ∧
    let sources := (List.range k).map (· + (24 - k))
    sources.length = k ∧ sources.Pairwise (· < ·) ∧ (∀ s ∈ sources, s < 24) ∧ (0 : Nat) < 24 ∧ (23 : Nat) < 24 := by decide +kernel

theorem witness_FoldingSegments :
    ∃ (d x : Nat) (payload cell : List Byte), d ≤ payload.length ∧ x < cell.length ∧ x < d ∧ d < cell.length :=
  ⟨1, 0, [0xF5#8], [0, 0], by decide⟩

theorem witness_CombineReachesEveryTarget :
    storeCanonical ⟨[(1, List.replicate 4096 1#8)]⟩ ∧ (rebuild.cellsOf 0).Nodup ∧ 1 < rebuild.targetCount ∧
    5 ∉ rebuild.cellsOf 0 := by
  unfold storeCanonical; decide +kernel

theorem witness_SegmentGeometry :
    ∃ code L, code ≤ 3 ∧ 1 ≤ L ∧ L ≤ 2 ^ 28 ∧ 0 + 1 < segCountOf L (segSizeOf code) ∧ 2 + 1 = segCountOf L (segSizeOf code) :=
  ⟨3, 10000, by decide +kernel⟩

theorem witness_RebuiltUnitPassesChecks :
    geometry.sizeCode ≤ 3 ∧ 1 ≤ geometry.fragLength ∧ geometry.fragLength ≤ 2 ^ 28 ∧ geometry.k ≤ 20 ∧ geometry.m ≤ 6 ∧
    (2 : Nat) < 24 ∧ 2 < geometry.segCount ∧ (List.replicate 4096 (0 : Byte)).length = 4096 ∧
    geometry.dataLength 2 < geometry.segSize := by decide +kernel

theorem witness_LevelBudgets : ∃ g : Governor, g.level = 15 ∧ g.credit = 0 := ⟨{ level := 15, credit := 0, ticks := 0 }, rfl, rfl⟩

/-- Each level clause, a context with its timer running. -/
theorem witness_TickRefillsCredit_TickRunsTimers : ∀ level ∈ [0, 6, 15],
    ∃ s : State, s.gov.level = level ∧ (∃ c, s.ctxs.get 3 = some c ∧ c.timerRuns = true) ∧ s.holds 3 := by
  intro level _
  refine ⟨{ State.with3 chained rebuild with gov := { level := level, credit := -1, ticks := 0 } }, rfl, ⟨rebuild, rfl, rfl⟩, ?_⟩
  exact ⟨rfl, rfl⟩

/-- A progress write and a report are owed, with just the room for them; neither is owed. -/
theorem witness_TickRunsTimers :
    (let c := { rebuild with lastProgress := some (0, { Counters.zero with late := 1 }) }
     let s := { State.with3 chained c with
       port := { Port.reset with writeQueue := List.replicate 62 { writer := .emit, kind := .unit, spans := [] } } }
     s.ctxs.wf = true ∧ s.calm = true ∧ s.walker.ready = none ∧ s.port.writeQueue.length + s.ctxs.size + 1 ≤ 64 ∧
       s.ctxs.get 3 = some c ∧ c.lastProgress ≠ some (c.retired, c.counters) ∧ c.state = .running ∧
       chainRegionValid s.ctl.chnBase s.ctl.chnSize = true ∧ s.ctl.lastReport = none) ∧
    (let s := State.with3 State.reset { rebuild with lastProgress := some (0, Counters.zero) }
     s.ctxs.wf = true ∧ s.calm = true ∧ chainRegionValid s.ctl.chnBase s.ctl.chnSize = false) := by decide +kernel

/-- One context: what is asked of it holds of every context. -/
theorem one_context {s : State} {c : Ctx} (h : s.ctxs = ⟨[(3, c)]⟩) (hc : c.sound) : s.contextsSound := by
  intro i c' hg
  simp only [h, Table.get, findRow] at hg
  split at hg
  · cases hg; exact hc
  · cases hg

theorem rebuild_sound : rebuild.sound := by
  unfold Ctx.sound Counters.inRange; decide +kernel

/-- A grant is due: the credit goes below 0, and stays in its bounds. -/
theorem witness_CreditBounds : ∃ s t : State, s.contextsSound ∧ s.gov.bounded ∧ step s = .next t ∧ t.gov.credit < 0 := by
  refine ⟨{ feeding chained with gov := { level := 8, credit := 500, ticks := 0 }, pending := [.issueOpportunity] }, _,
    one_context rfl ?_, ?_, rfl, ?_⟩
  · unfold Ctx.sound Counters.inRange; decide +kernel
  · unfold Governor.bounded; decide +kernel
  · decide +kernel

/-- Chapter 8: the tick after the 64th grant. -/
theorem test_tick : (after (exec .tick { chained with gov := { level := 6, credit := -2048, ticks := 9 } })).gov =
    { level := 6, credit := 260096, ticks := 10 } := by decide +kernel

/-- Source: R35 (cause 4): a counter has changed since the last progress write. -/
theorem test_tick_progress :
    let c := { rebuild with lastProgress := some (0, { Counters.zero with late := 1 }) }
    (after (exec .tick (State.with3 State.reset c))).port.writeQueue =
      [{ writer := .slot 3, kind := .progress, spans := [{ addr := 0x10448, bytes := progressBytes c }] }] := by decide +kernel

/-! ### Registers and resets -/

/-- RUN clear. -/
def stopped : State := { chained with ctl := { chained.ctl with run := false } }

/-- The Walker PARKED on the record at 0x10100. -/
def parked : State := { chained with walker := { Walker.reset with state := .parked, cursor := 0x10100, pollTimer := some 10 } }

/-- A link-word read of a PARKED Walker is on the link. -/
def linkReading : State :=
  { parked with
    walker := { parked.walker with pollTimer := none }
    port := { Port.reset with
      fetch := some { fetch := { what := .linkWord, addr := 0x10100, reissues := 1, discard := false }, outstanding := true } } }

theorem witness_RegisterAccess : chained.ctl.run = true ∧ stopped.ctl.run = false := ⟨rfl, rfl⟩

/-- Source: section 11.6, bit places of ENG_CTRL and ENG_STAT; the write of a taken CHN_HEAD. -/
theorem test_register_bits :
    ({ chained.ctl with attnEnable := true } |> fun k => State.readRegister { chained with ctl := k } .engCtrl) = 5#64 ∧
    ({ chained.ctl with attention := true, resetting := true } |>
      fun k => State.readRegister { parked with ctl := k } .engStat) = 0x302#64 ∧
    (after (exec (.chnHead 0x10140) stopped)).walker.newHead = true ∧
    (after (exec (.registerWrite .size 0x20000) chained)).ctl.chnSize = 0x10000 := by decide +kernel

theorem witness_PollingAndChecking :
    chained.walker.state ≠ .parked ∧ (linkReading.walker.state = .parked ∧ linkReading.linkPending = true) ∧
    (parked.walker.state = .parked ∧ parked.linkPending = false ∧ parked.walker.pollTimer.isSome = true) ∧
    linkReading.walker.pollTimer = none := by decide +kernel

/-- Source: chapter 9's worked chain: a check while a poll's read is outstanding is owed; with none it asks at once. -/
theorem test_chn_check_and_poll :
    (after (exec (.chnCheck 1) linkReading)).walker.checkOwed = true ∧
    (after (exec (.chnCheck 0) parked)).walker.wanted =
      some { what := .linkWord, addr := 0x10100, reissues := 1, discard := false } ∧
    (after (exec .pollTimer parked)).walker.wanted.isSome = true := by decide +kernel

/-- IDLE and clear; not IDLE and clear; set, IDLE or not. -/
theorem witness_RunSetStarts :
    (1#64).getLsbD 0 = true ∧ (1#64).getLsbD 1 = false ∧ (1#64).getLsbD 2 = stopped.ctl.attnEnable ∧
    (stopped.atRest 2 = true ∧ stopped.ctl.resetting = false ∧ stopped.ctl.run = false ∧ stopped.walker.state = .idle) ∧
    (∃ s : State, s.atRest 2 = true ∧ s.ctl.attnEnable = false ∧ s.ctl.resetting = false ∧ s.ctl.run = false ∧
      s.walker.state ≠ .idle) ∧
    (chained.atRest 2 = true ∧ chained.ctl.resetting = false ∧ chained.ctl.run = true ∧ chained.walker.state = .idle ∧
      parked.ctl.run = true ∧ parked.walker.state ≠ .idle) := by
  refine ⟨by decide, by decide, by decide, by decide +kernel, ⟨{ parked with ctl := stopped.ctl }, by decide +kernel⟩, by decide +kernel⟩

/-- A start from CHN_HEAD; a start with no valid address faults BAD_START and sets ATTENTION. -/
theorem test_run_set :
    (after (exec (.runSet 1) (after (exec (.chnHead 0x10140) stopped)))).walker.next = 0x10140 ∧
    (after (exec (.runSet 1) stopped)).walker.state = .faulted ∧
    (after (exec (.runSet 1) stopped)).walker.faultReason = some .badStart ∧
    (after (exec (.runSet 1) stopped)).ctl.attention = true := by decide +kernel

/-- A held start is made once the Walker is IDLE. -/
theorem test_held_start :
    (after (exec .heldStart { chained with walker := { chained.walker with cursor := 0x10100 } })).walker.state = .parked ∧
    after (exec .heldStart parked) = parked := by decide +kernel

/-- Every state of the Walker, and every phase of FETCHING, RUN set; and RUN clear; and a value that changes ATTN_ENABLE. -/
theorem witness_RunClearStops : (0#64).getLsbD 0 = false ∧ (0#64).getLsbD 1 = false ∧ (0#64).getLsbD 2 = chained.ctl.attnEnable ∧
    ((4#64).getLsbD 0 = false ∧ (4#64).getLsbD 1 = false ∧ (4#64).getLsbD 2 ≠ chained.ctl.attnEnable ∧ chained.ctl.resetting = false) ∧
    ∀ w ∈ [WalkerState.idle, .fetching, .parked, .blocked, .faulted], ∀ p ∈ [Phase.fetch, .held, .link], ∀ run ∈ [true, false],
      State.atRest { chained with ctl := { chained.ctl with run := run },
                                  walker := { fetching.walker with state := w, phase := p } } 0 = true := by
  decide +kernel

theorem test_run_clear :
    (after (exec (.runClear 0) parked)).walker.state = .idle ∧ (after (exec (.runClear 0) fetching)).walker.stopping = true ∧
    (after (exec (.runClear 0) fetching)).fetchStale = true := by decide +kernel

/-- Both forms of a write that is taken; a change from clear to set with ATTENTION set, and none. -/
theorem witness_AttentionFlag :
    (stopped.atRest 1 = true ∧ (4#64).getLsbD 1 = false ∧ (4#64).getLsbD 0 = stopped.ctl.run) ∧
    (∃ s : State, s.atRest 1 = true ∧ s.ctl.resetting = true ∧ s.ctl.attention = true ∧ s.ctl.attnEnable = false) :=
  ⟨by decide +kernel, ⟨{ chained with ctl := { chained.ctl with resetting := true, attention := true } }, by decide +kernel⟩⟩

/-- Source: chapter 10's worked sequence: a set flag folds a second cause; clearing it lets the next one in; enabling with the flag set
places a message. -/
theorem test_attention :
    (State.cause { chained with ctl := { chained.ctl with attnEnable := true } }).ctl.messages = 1 ∧
    (State.cause { chained with ctl := { chained.ctl with attnEnable := true, attention := true } }).ctl.messages = 0 ∧
    (after (exec (.clearAttention 0x200) { chained with ctl := { chained.ctl with attention := true } })).ctl.attention = false ∧
    (after (exec (.attnEnable 5) { chained with ctl := { chained.ctl with attention := true } })).port.writeQueue.length = 1 := by
  decide +kernel

/-- A soft reset with a fetch outstanding; one while RESETTING is set; a return of the last read. -/
theorem witness_SoftReset : (2#64).getLsbD 1 = true ∧ (fetching.ctl.resetting = false ∧ fetching.linkReads = 1) ∧
    (∃ s : State, s.ctl.resetting = true ∧ s.port.outstanding = 1) ∧ fetching.port.outstanding = 0 :=
  ⟨by decide, by decide +kernel,
    ⟨{ chained with ctl := { chained.ctl with resetting := true }, port := { Port.reset with outstanding := 1 } }, rfl, rfl⟩, rfl⟩

theorem test_soft_reset :
    (after (exec (.softReset 2) fetching)).ctl.resetting = true ∧ (after (exec (.softReset 2) fetching)).port.outstanding = 1 ∧
    (after (exec .outstandingReturn (after (exec (.softReset 2) fetching)))).ctl.resetting = false ∧
    (after (exec (.softReset 2) fetching)).ctl.chnBase = 0x10000 := by decide +kernel

theorem test_full_reset : after (exec .fullReset (feeding fetching)) = State.reset := by decide +kernel

/-! ### The Walker -/

/-- A stopping Walker whose fetch is to be discarded. -/
def discarding : State := after (exec (.runClear 0) fetching)

/-- A fetch with a reissue left; one with none; one to be discarded, the Walker stopping or IDLE. -/
theorem witness_RecordFetchEnds :
    (∃ f, fetching.port.fetch = some ⟨f, true⟩ ∧ 0 < f.reissues ∧ f.discard = false) ∧
    (∃ (s : State) (f : Fetch), s.port.fetch = some ⟨f, true⟩ ∧ f.reissues = 0 ∧ f.discard = false ∧ s.atRest 2 = true) ∧
    (∃ (s : State) (f : Fetch), s.port.fetch = some ⟨f, true⟩ ∧ f.discard = true ∧ f.reissues = 0 ∧ s.walker.state = .fetching ∧
      s.walker.stopping = true ∧ s.walker.wanted = none) ∧
    (∃ (s : State) (f : Fetch), s.port.fetch = some ⟨f, true⟩ ∧ f.discard = true ∧ s.walker.state ≠ .fetching) ∧
    (∃ (s : State) (f : Fetch), s.port.fetch = some ⟨f, true⟩ ∧ f.discard = true ∧ f.reissues = 0 ∧ s.walker.state = .fetching ∧
      s.walker.wanted ≠ none) := by
  refine ⟨⟨{ what := .firstHalf, addr := 0x10100, reissues := 1, discard := false }, by decide⟩,
    ⟨{ fetching with port := { Port.reset with fetch := some ⟨{ what := .firstHalf, addr := 0x10100, reissues := 0, discard := false }, true⟩ } },
      { what := .firstHalf, addr := 0x10100, reissues := 0, discard := false }, by decide +kernel⟩,
    ⟨{ discarding with port := { Port.reset with fetch := some ⟨{ what := .firstHalf, addr := 0x10100, reissues := 0, discard := true }, true⟩ } },
      { what := .firstHalf, addr := 0x10100, reissues := 0, discard := true }, by decide +kernel⟩,
    ⟨after (exec (.runClear 0) linkReading), { what := .linkWord, addr := 0x10100, reissues := 1, discard := true }, by decide +kernel⟩,
    ⟨{ discarding with
        walker := { discarding.asking .firstHalf 0x10140 with stopping := false }
        port := { Port.reset with fetch := some ⟨{ what := .linkWord, addr := 0x10100, reissues := 0, discard := true }, true⟩ } },
      { what := .linkWord, addr := 0x10100, reissues := 0, discard := true }, by decide +kernel⟩⟩

theorem test_fetch_errors :
    (after (exec .recordFetchError fetching)).port.fetch.map (·.outstanding) = some false ∧
    (after (exec .recordFetchError (after (exec .issueOpportunity (after (exec .recordFetchError fetching)))))).walker.faultReason =
      some .fetchError ∧
    (after (exec .fetchDiscard discarding)).walker.state = .idle := by decide +kernel

/-- The Walker waits for the issue of the disposition it wrote for a record whose link is `link`. -/
def following (link : Nat) (unissued : Bool) : State :=
  { chained with walker := { Walker.reset with
      state := .fetching, phase := .link, cursor := 0x10100, next := 0x10100, unissued := unissued,
      buffer := exactBytes 64 (toLE 8 link) } }

/-- Not issued; issued with no link, a good one, a bad one. -/
theorem witness_WalkerWriteIssued :
    ((following 0 true).walker.state = .fetching ∧ (following 0 true).walker.phase = .link ∧ (following 0 true).walker.unissued = true) ∧
    ∀ link ∈ [0, 0x10140, 0x10040], (following link false).walker.unissued = false ∧ (following link false).atRest 2 = true := by
  decide +kernel

/-- Source: chapter 10's worked sequence: a link outside the chain region; chapter 9's: a link of 0 parks. -/
theorem test_walker_write_issued :
    (after (exec .walkerWriteIssued (following 0x3FFFFFC0 false))).walker.faultReason = some .badLink ∧
    (after (exec .walkerWriteIssued (following 0x3FFFFFC0 false))).walker.faultAddr = 0x3FFFFFC0 ∧
    (after (exec .walkerWriteIssued (following 0 false))).walker.pollTimer = some 10 ∧
    (after (exec .walkerWriteIssued (following 0x1FFC0 false))).walker.next = 0x1FFC0 := by decide +kernel

/-- A read to be discarded; reads that find no link (a check owed, and none), a good link, a bad one. -/
theorem witness_LinkWordRead :
    (∃ f, (after (exec (.runClear 0) linkReading)).port.fetch = some ⟨f, true⟩ ∧ f.what = .linkWord ∧ f.discard = true ∧
      (after (exec (.runClear 0) linkReading)).walker.state ≠ .fetching) ∧
    (∃ f, linkReading.port.fetch = some ⟨f, true⟩ ∧ f.what = .linkWord ∧ f.discard = false ∧ linkReading.atRest 2 = true) :=
  ⟨⟨{ what := .linkWord, addr := 0x10100, reissues := 1, discard := true }, by decide +kernel⟩,
    ⟨{ what := .linkWord, addr := 0x10100, reissues := 1, discard := false }, by decide +kernel⟩⟩

/-- Source: chapter 9's worked chain: the poll read returns 0 with a check owed, then the second read returns a link. -/
theorem test_link_word_read :
    (after (exec (.linkWordRead 0) (after (exec (.chnCheck 0) linkReading)))).walker.wanted.isSome = true ∧
    (after (exec (.linkWordRead 0x10180) linkReading)).walker.state = .fetching ∧
    (after (exec (.linkWordRead 0x10180) linkReading)).walker.next = 0x10180 ∧
    (after (exec (.linkWordRead 0x10180) linkReading)).walker.buffer = [0x80, 0x01, 0x01, 0, 0, 0, 0, 0] ∧
    (after (exec (.linkWordRead 0) linkReading)).walker.pollTimer = some 10 := by decide +kernel

/-- Source: chapter 9's worked chain: records may lie from 0x8000_0100 to 0x8000_FFC0. -/
theorem test_record_addresses :
    [0x800000C0, 0x80000100, 0x80000120, 0x8000FFC0, 0x80010000].map (recordAddressValid 0x80000000 65536) =
      [false, true, false, true, false] := by decide +kernel

/-- A BLOCKED Walker with a FEED in its buffer. -/
def blocked (timer : Option Nat) (room : Bool) (b : List Byte) : State :=
  { feeding chained with walker := { Walker.reset with
      state := .blocked, next := 0x10100, buffer := b, blockedLimit := 20, blockedTimer := timer, room := room } }

/-- The timer at its limit, below it, and stopped. -/
theorem witness_TableFull :
    ((blocked (some 20) false []).walker.state = .blocked ∧ (blocked (some 20) false []).atRest 1 = true) ∧
    (blocked (some 19) false []).walker.blockedTimer = some 19 ∧ (blocked none false []).walker.blockedTimer = none := by
  decide +kernel

/-- Source: chapter 9's worked chain: at tick 20 the FEED is refused TABLE_FULL, not at tick 19. -/
theorem test_table_full :
    (after (exec .tick (blocked (some 19) false (plainRecord 2)))).walker.blockedTimer = some 20 ∧
    firstWrite (exec .tableFull (blocked (some 20) false (plainRecord 2))) = [[3, 11]] ∧
    (after (exec .tableFull (blocked (some 19) false (plainRecord 2)))).walker.state = .blocked := by decide +kernel

/-- A record with a bad kind; each of the others with a disposition, with a reserved flag, with a body byte that is not zero. -/
theorem witness_HeaderChecks :
    (fetching.awaitsRecord = true ∧ fetching.atRest 2 = true) ∧ (recKind (record 9 0 0 []) = 9 ∧ recDisposition (record 9 0 0 []) = 0) ∧
    (∀ k ∈ [2, 3, 4, 5, 6, 7, 8], recDisposition ((record k 0 0 []).set 10 1) ≠ 0 ∧ headerClean ((record k 0 0 []).set 9 2) = false ∧
      recDisposition ((record k 0 0 []).set 9 2) = 0) ∧
    (∀ k ∈ [2, 3, 4, 5, 6, 7, 8], bodyClean k (record k 0 0 (List.replicate 48 1)) = false) := by decide +kernel

theorem test_header_checks :
    firstWrite (exec (.badKind (record 9 0 0 [])) fetching) = [[3, 1]] ∧
    firstWrite (exec (.tune ((record 7 0 0 []).set 9 2)) fetching) = [[3, 2]] ∧
    (after (exec (.level ((record 8 0 0 []).set 10 3)) fetching)).walker.faultReason = some .notPosted ∧
    (after (exec (.level ((record 8 0 0 []).set 10 3)) fetching)).walker.faultAddr = 0x10100 := by decide +kernel

/-! ### Records final at dispatch -/

/-- A TUNE record. -/
def tuneRecord (read pair retry poll limit : Nat) : List Byte :=
  record 7 0 0 (toLE 1 read ++ toLE 1 pair ++ toLE 1 retry ++ toLE 1 poll ++ toLE 2 limit)

/-- A LEVEL record. -/
def levelRecord (mode value : Nat) : List Byte := record 8 0 0 (toLE 1 mode ++ toLE 1 value)

/-- A REGION record. -/
def regionRecord (number base length rights : Nat) : List Byte :=
  record 6 0 0 (toLE 8 base ++ toLE 8 length ++ toLE 1 number ++ toLE 1 rights)

theorem witness_TuneRecord : (fetching.awaitsRecord = true ∧ fetching.atRest 1 = true) ∧
    postedRecord 7 (tuneRecord 0 2 4 0 1001) = true ∧ postedRecord 7 (tuneRecord 4 1 3 255 1000) = true := by decide +kernel

/-- Source: chapter 9's worked chain: read limit 6, pair 1, retries 1, poll 5, blocked limit 20; the mask's read-limit bit is set. -/
theorem test_tune :
    firstWrite (exec (.tune (tuneRecord 6 1 1 5 20)) fetching) = [[2, 0], [1, 0, 0, 0, 0, 0, 0, 0, 0, 0, 0, 0, 0, 0, 0, 0]] ∧
    (after (exec (.tune (tuneRecord 6 1 1 5 20)) fetching)).settings = (4, true, 1, 5, 20) := by decide +kernel

/-- A bad number, bad rights, a bad shape, a region in use, and one that is taken. -/
theorem witness_RegionRecord : ((feeding fetching).awaitsRecord = true ∧ (feeding fetching).atRest 1 = true) ∧
    ∀ b ∈ [regionRecord 8 0 0 0, regionRecord 1 0 0 4, regionRecord 1 0x1000 0 0, regionRecord 1 0x800 0x1000 1,
      regionRecord 0 0x100000 0x100000 1, regionRecord 1 0x200000 0x1000 3], postedRecord 6 b = true := by decide +kernel

theorem witness_LevelRecord : (fetching.awaitsRecord = true ∧ fetching.atRest 1 = true) ∧
    ∀ b ∈ [levelRecord 0 255, levelRecord 1 255, levelRecord 2 255, levelRecord 3 0], postedRecord 8 b = true := by decide +kernel

/-- Source: chapter 9's worked chain (8 up by 2 is 10, the credit stands), chapter 8's example (value 40 is 15, the credit 0). -/
theorem test_level :
    firstWrite (exec (.level (levelRecord 1 2)) fetching) = [[2, 0], [10, 0, 0, 0, 0, 0, 0, 0, 0, 0, 0, 0, 0, 0, 0, 0]] ∧
    (after (exec (.level (levelRecord 1 2)) fetching)).gov = { level := 10, credit := 524288, ticks := 0 } ∧
    (after (exec (.level (levelRecord 0 40)) fetching)).gov = { level := 15, credit := 0, ticks := 0 } ∧
    firstWrite (exec (.level (levelRecord 3 0)) fetching) = [[3, 2]] := by decide +kernel

/-! ### OPEN -/

/-- The first 64 bytes of an OPEN record of the worked case: the first 16 role bytes among them. -/
def openHead (ctx k m code length width : Nat) (roles : List Byte) : List Byte :=
  record 1 ctx 0 (toLE 8 7 ++ toLE 4 5 ++ toLE 4 length ++ toLE 1 k ++ toLE 1 m ++ toLE 1 code ++ toLE 1 width ++ toLE 1 2 ++
    [0, 0, 0] ++ toLE 2 200 ++ [0, 0, 0, 0, 0, 0] ++ roles)

/-- Roles 0 TARGET, 1 SOURCE, 2 TARGET, 3 SOURCE, 4 SPARE. -/
def openRoles : List Byte := [3, 1, 3, 1, 2]

/-- The second 64 bytes: no more roles, and a progress area of 00. -/
def openTail : List Byte := List.replicate 64 0

/-- The first half is in the buffer and the second half's fetch is on the link. -/
def opening (s : State) (head : List Byte) : State :=
  { s with
    walker := { s.walker with state := .fetching, next := 0x10400, buffer := head }
    port := { s.port with
      fetch := some { fetch := { what := .secondHalf, addr := 0x10440, reissues := 1, discard := false }, outstanding := true } } }

/-- The first half of a record that fits, and of one that does not; then both halves, with a disposition, and each refusal's cause. -/
theorem witness_OpenChecked :
    (fetching.awaitsRecord = true ∧ fetching.atRest 2 = true ∧ recordBytes 1 (openHead 3 2 3 0 1200 2 openRoles) = true) ∧
    (let s := opening chained (openHead 3 2 3 0 1200 2 openRoles)
     s.awaitsTail = true ∧ s.atRest 2 = true ∧ openTail.length = 64 ∧ recDisposition (s.walker.buffer ++ openTail) = 0) ∧
    (let s := opening chained ((openHead 3 2 3 0 1200 2 openRoles).set 10 1)
     s.awaitsTail = true ∧ s.atRest 2 = true ∧ recDisposition (s.walker.buffer ++ openTail) ≠ 0) ∧
    [(chained, (openHead 3 2 3 0 1200 2 openRoles).set 9 2), (chained, openHead 64 2 3 0 1200 2 openRoles),
      (State.with3 chained rebuild, openHead 3 2 3 0 1200 2 openRoles), (State.with3 chained rebuild, openHead 4 2 3 0 1200 2 openRoles),
      (chained, openHead 3 1 3 0 1200 2 openRoles)].map (fun p => p.1.openReason (p.2 ++ openTail)) =
      [some .badField, some .badField, some .slotBusy, some .duplicateStripe, some .badField] := by decide +kernel

/-- Source: R21's order, R170's fit, R22's limits on k, m, size code, length, width, roles. -/
theorem test_open_refusals :
    [(chained, openHead 64 2 3 0 1200 2 openRoles), (State.with3 chained rebuild, openHead 3 2 3 0 1200 2 openRoles),
      (State.with3 chained rebuild, openHead 4 2 3 0 1200 2 openRoles), (chained, openHead 3 1 3 0 1200 2 openRoles),
      (chained, openHead 3 2 7 0 1200 2 openRoles), (chained, openHead 3 2 3 4 1200 2 openRoles),
      (chained, openHead 3 2 3 0 0 2 openRoles), (chained, openHead 3 2 3 0 1200 9 openRoles),
      (chained, openHead 3 2 3 0 1200 2 [3, 1, 3, 2, 2]), (chained, openHead 3 2 3 0 1200 2 [1, 1, 0, 0, 2]),
      (chained, openHead 3 2 3 0 1200 2 [3, 1, 3, 1, 4]), (chained, openHead 3 2 3 0 1200 2 [3, 1, 3, 1, 2, 2])].map
        (fun p => firstWrite (exec (.openRecord openTail) (opening p.1 p.2))) =
      [[[3, 2]], [[3, 3]], [[3, 4]], [[3, 2]], [[3, 2]], [[3, 2]], [[3, 2]], [[3, 2]], [[3, 2]], [[3, 2]], [[3, 2]], [[3, 2]]] ∧
    (after (exec (.openRecord (openHead 3 2 3 0 1200 2 openRoles))
      { fetching with walker := { fetching.walker with next := 0x1FFC0 } })).walker.faultReason = some .badLink := by decide +kernel

/-- Cells to spare and the Solver idle or busy; a context waiting already; too few cells. -/
theorem witness_OpenAccepted :
    let ok := fun s : State => s.awaitsTail = true ∧ s.atRest 2 = true ∧ recDisposition (s.walker.buffer ++ openTail) = 0 ∧
      headerClean (s.walker.buffer ++ openTail) = true ∧ s.openRefusal (s.walker.buffer ++ openTail) = none
    let s := opening chained (openHead 3 2 3 0 1200 2 openRoles)
    ok s ∧ ok { s with solving := some { ctx := 5, k := 2, sources := [1, 3], targets := [0], working := [] } } ∧
    ok { s with cellWait := [9] } ∧ ok { s with freeCells := 3 } := by decide +kernel

/-- Source: R27, R31, R51 and chapter 1's table: the accepted OPEN of the worked case. -/
theorem test_open_accepted :
    let t := after (exec (.openRecord openTail) (opening chained (openHead 3 2 3 0 1200 2 openRoles)))
    firstWrite (.next t) = [[1, 0]] ∧ t.freeCells = 508 ∧
    t.solving.map (·.working) = some [[0x8F#8, 0x03#8], [0x3D#8, 0x8F#8]] ∧
    (t.ctxs.get 3).map (fun c => (c.state, c.cells, c.positions.map (·.seg), c.geo.errorLimit)) =
      some (.solving, [0, 1, 2, 3], [0, 1], 2) := by decide +kernel

/-! ### FEED and SINK -/

/-- The rebuild, fragment 3 FAILED, fragment 4 its source. -/
def replaced : Ctx :=
  { rebuild with roles := ⟨[(0, .target), (1, .source), (2, .target), (3, .failed), (4, .source)]⟩, exposed := true }

/-- The rebuild DRAINING. -/
def ending : Ctx := { rebuild with state := .draining, outcome := some .aborted, timerRuns := false, table := none }

/-- The rebuild in PENDING. -/
def waiting : Ctx := { rebuild with state := .pending, cells := [], slots := Table.empty, timerRuns := false, table := none }

/-- A Sink entry of target 0, segments 0 to 2. -/
def sinkOf (n : Nat) : SinkEntry :=
  { addr := 0x10300, notify := false, ctx := 3, target := 0, first := 0, count := 3, buffer := 0x140000, region := 0, pending := n,
    written := 3 - n, unwritten := 0 }

/-- Each reason of a FEED's refusal and of a SINK's, in the order of the checks: the record is posted, and the state shows the cause. -/
theorem witness_FeedAndSinkRefused :
    ((feeding fetching).awaitsRecord = true ∧ (feeding fetching).atRest 1 = true ∧
      State.awaitsRecord { feeding fetching with sinks := ⟨[(0, sinkOf 3)]⟩ } = true ∧
      State.atRest { feeding fetching with sinks := ⟨[(0, sinkOf 3)]⟩ } 1 = true ∧
      (State.with3 fetching ending).awaitsRecord = true ∧ (State.with3 fetching ending).atRest 1 = true) ∧
    (∀ b ∈ [runRecord 2 64 1 0 1 0x100000, runRecord 2 3 24 0 1 0x100000, runRecord 2 3 1 0 0 0x100000,
      runRecord 2 3 1 0 65 0x100000, runRecord 2 4 1 0 1 0x100000, runRecord 2 3 0 0 1 0x100000, runRecord 2 3 5 0 1 0x100000,
      runRecord 2 3 1 2 2 0x100000, runRecord 2 3 1 0 1 0x100001, runRecord 2 3 1 0 1 0x200000], postedRecord 2 b = true) ∧
    (∀ b ∈ [runRecord 3 64 0 0 1 0x100000, runRecord 3 4 0 0 1 0x100000, runRecord 3 3 1 0 1 0x100000,
      runRecord 3 3 0 2 2 0x100000, runRecord 3 3 0 0 1 0xFFFC0, runRecord 3 3 0 2 1 0x100000], postedRecord 3 b = true) ∧
    [runRecord 2 64 1 0 1 0x100000, runRecord 2 3 24 0 1 0x100000, runRecord 2 3 1 0 0 0x100000, runRecord 2 3 1 0 65 0x100000,
      runRecord 2 4 1 0 1 0x100000, runRecord 2 3 0 0 1 0x100000, runRecord 2 3 5 0 1 0x100000, runRecord 2 3 1 2 2 0x100000,
      runRecord 2 3 1 0 1 0x100001, runRecord 2 3 1 0 1 0x200000].map (feeding fetching).feedReason =
      [some .badField, some .badField, some .badField, some .badField, some .noContext, some .role, some .role, some .beyondFragment,
        some .address, some .address] ∧
    [runRecord 3 64 0 0 1 0x100000, runRecord 3 4 0 0 1 0x100000, runRecord 3 3 1 0 1 0x100000, runRecord 3 3 0 2 2 0x100000,
      runRecord 3 3 0 0 1 0xFFFC0, runRecord 3 3 0 2 1 0x100000].map
        (State.sinkReason { feeding fetching with sinks := ⟨[(0, sinkOf 3)]⟩ }) =
      [some .badField, some .noContext, some .role, some .beyondFragment, some .address, some .overlap] ∧
    (State.with3 fetching ending).feedReason (runRecord 2 3 1 0 1 0x100000) = some .ending ∧
    (State.with3 fetching ending).sinkReason (runRecord 3 3 0 0 1 0x100000) = some .ending := by decide +kernel

theorem test_feed_refusals :
    [runRecord 2 64 1 0 1 0x100000, runRecord 2 3 1 0 65 0x100000, runRecord 2 4 1 0 1 0x100000, runRecord 2 3 0 0 1 0x100000,
      runRecord 2 3 1 2 2 0x100000, runRecord 2 3 1 0 1 0x200000].map (fun b => firstWrite (exec (.feed b) (feeding fetching))) =
      [[[3, 2]], [[3, 2]], [[3, 5]], [[3, 7]], [[3, 8]], [[3, 9]]] ∧
    firstWrite (exec (.feed (runRecord 2 3 1 0 1 0x100000)) (State.with3 fetching ending)) = [[3, 6]] := by decide +kernel

theorem test_sink_refusals :
    [runRecord 3 64 0 0 1 0x100000, runRecord 3 4 0 0 1 0x100000, runRecord 3 3 1 0 1 0x100000, runRecord 3 3 0 2 2 0x100000,
      runRecord 3 3 0 0 1 0xFFFC0, runRecord 3 3 0 2 1 0x100000].map
        (fun b => firstWrite (exec (.sink b) { feeding fetching with sinks := ⟨[(0, sinkOf 3)]⟩ })) =
      [[[3, 2]], [[3, 5]], [[3, 7]], [[3, 8]], [[3, 9]], [[3, 10]]] := by decide +kernel

/-- A FEED that passes with an entry free; for a FAILED fragment; with 1280 statuses waiting. -/
theorem witness_FeedAccepted :
    let s := State.with3 fetching replaced
    (s.awaitsRecord = true ∧ s.atRest 2 = true) ∧
    (∀ f ∈ [1, 3, 4], postedRecord 2 (runRecord 2 3 f 0 3 0x100000) = true ∧ s.feedPasses (runRecord 2 3 f 0 3 0x100000) replaced 0) ∧
    s.statusTotal < 1280 ∧ s.feeds.lowestFree 1024 = some 0 ∧ replaced.role 3 = .failed ∧ replaced.role 1 ≠ .failed := by
  unfold State.feedPasses; decide +kernel

/-- 1024 Feed entries and 256 Sink entries in use: no room for another status. -/
theorem witness_FeedAccepted_full :
    let s := { State.with3 fetching rebuild with feeds := ⟨(List.range 1024).map (fun e => (e, feedOf 1 3))⟩
                                                 sinks := ⟨(List.range 256).map (fun e => (e, { sinkOf 3 with ctx := 4 }))⟩ }
    1280 ≤ s.statusTotal ∧ s.awaitsRecord = true ∧ s.atRest 2 = true ∧ s.feedPasses (runRecord 2 3 1 0 3 0x100000) rebuild 0 ∧
    s.sinkPasses (runRecord 3 3 0 0 3 0x100000) rebuild 0 := by
  unfold State.feedPasses State.sinkPasses; decide +kernel

/-- Segments 0 and 1 are logged under the new entry, segment 2 waits. -/
theorem test_feed_accepted :
    let t := after (exec (.feed (runRecord 2 3 1 0 3 0x100000)) (State.with3 fetching rebuild))
    firstWrite (.next t) = [[1, 0]] ∧ (t.feeds.get 0).map (·.pending) = some 3 ∧
    (t.ctxs.get 3).map (fun c => (c.feedList, c.positions.map (fun p => (p.row.get 1).map (·.state)))) =
      some ([0], [some .logged, some .logged]) := by decide +kernel

/-- Source: R81: a FEED for a FAILED fragment is TAKEN and DONE, its segments unused. -/
theorem test_feed_for_failed_fragment :
    ((after (exec (.feed (runRecord 2 3 3 0 3 0x100000)) (State.with3 fetching replaced))).port.writeQueue.map
      (fun q => q.spans.map (·.bytes))) =
      [[[1, 0]], [[2, 0], [0, 0, 0, 0, 0, 0, 0, 0, 0, 0, 3, 0, 0, 0, 0, 0]]] := by decide +kernel

/-- The context of the example in section 4.2: base 6, positions 6 to 9; fragment 1 CONTRIBUTED at 7, NONE at 8, REFUSED at 9. -/
def chapterFour : Ctx :=
  let at1 := fun (e : LogState) => (⟨[(1, { state := e, feed := 9, verified := false })]⟩ : Table LogEntry)
  { rebuild with
    geo := { geometry with k := 3, m := 2, width := 4, fragLength := 10240 }
    roles := ⟨[(0, .source), (1, .source), (2, .source), (3, .target), (4, .spare)]⟩
    base := 6, retired := 6
    slots := ⟨[(0, { state := .opened, seg := 8, row := Table.empty, binds := Table.empty }),
               (1, { state := .opened, seg := 9, row := at1 .refused, binds := Table.empty }),
               (2, { state := .full, seg := 6, row := at1 .contributed, binds := Table.empty }),
               (3, { state := .opened, seg := 7, row := at1 .contributed, binds := Table.empty })]⟩ }

/-- Each place a segment of fragment 1 can fall: ahead, behind, FULL, CONTRIBUTED, NONE, REFUSED; and a FAILED fragment's. -/
theorem witness_FeedClassification :
    let s := State.with3 chained chapterFour
    s.ctxs.get 3 = some chapterFour ∧ chapterFour.state ≠ .pending ∧ chapterFour.base + chapterFour.geo.width ≤ 10 ∧
    5 < chapterFour.base ∧
    (∃ p, chapterFour.holding 6 = some p ∧ p.state ≠ .opened) ∧
    (∃ p en, chapterFour.holding 7 = some p ∧ p.state = .opened ∧ chapterFour.role 1 ≠ .failed ∧ p.row.get 1 = some en ∧
      en.state = .contributed) ∧
    (∃ p, chapterFour.holding 8 = some p ∧ p.state = .opened ∧ p.row.get 1 = none) ∧
    (∃ p en, chapterFour.holding 9 = some p ∧ p.state = .opened ∧ p.row.get 1 = some en ∧ en.state = .refused) ∧
    (∃ p, replaced.holding 0 = some p ∧ p.state = .opened ∧ replaced.role 3 = .failed) := by
  refine ⟨rfl, by decide, by decide, by decide, ⟨_, rfl, by decide⟩, ⟨_, _, rfl, rfl, by decide, rfl, rfl⟩, ⟨_, rfl, rfl, rfl⟩,
    ⟨_, _, rfl, rfl, rfl, rfl⟩, ⟨_, rfl, rfl, rfl⟩⟩

/-- Source: the example of section 4.2: FEED G1, fragment 1, segments 4 to 11: late 3, duplicate 1, four owed. -/
theorem test_classification_example :
    let g1 : FeedEntry := { feedOf 1 8 with first := 4, count := 8, counts := FeedCounts.zero }
    let t := State.classifyRun 3 0 1 8 4 { State.with3 chained { chapterFour with feedList := [0] } with feeds := ⟨[(0, g1)]⟩ }
    (t.feeds.get 0).map (fun f => (f.counts.late, f.counts.duplicate, f.pending)) = some (3, 1, 4) ∧
    (t.ctxs.get 3).map (fun c => (c.counters.late, c.counters.duplicate)) = some (3, 1) ∧
    (t.ctxs.get 3).map (fun c => c.positions.map (fun p => (p.row.get 1).map (fun e => (e.state, e.feed)))) =
      some [some (.contributed, 9), some (.contributed, 9), some (.logged, 0), some (.logged, 0)] := by decide +kernel

/-- Source: R77: two FEEDs and a SINK in region 0, none in region 1. -/
theorem witness_RegionRecord_count :
    let s := { feeding fetching with sinks := ⟨[(0, sinkOf 3)]⟩ }
    s.feeds.wf = true ∧ s.sinks.wf = true ∧ [0, 1].map s.refCount = [3, 0] := by decide +kernel

/-- An entry that owes three segments, and one that owes one, of each table. -/
theorem witness_SegmentOutcomes :
    (∃ s : State, ∃ f, s.feeds.get 0 = some f ∧ 1 < f.pending ∧ ∃ c, s.ctxs.get f.ctx = some c) ∧
    (∃ s : State, ∃ f, s.feeds.get 0 = some f ∧ f.pending = 1) ∧
    (∃ s : State, ∃ k, s.sinks.get 0 = some k ∧ 1 < k.pending) ∧ (∃ s : State, ∃ k, s.sinks.get 0 = some k ∧ k.pending = 1) :=
  ⟨⟨feeding chained, _, rfl, by decide, _, rfl⟩, ⟨{ chained with feeds := ⟨[(0, feedOf 1 1)]⟩ }, _, rfl, rfl⟩,
    ⟨{ chained with sinks := ⟨[(0, sinkOf 3)]⟩ }, _, rfl, by decide⟩, ⟨{ chained with sinks := ⟨[(0, sinkOf 1)]⟩ }, _, rfl, rfl⟩⟩

/-- A status waits, the Walker BLOCKED, and the queue has one place left. -/
def telling : State :=
  { blocked (some 3) false (runRecord 2 3 1 2 1 0x100000) with
    statusQueue := [{ addr := 0x10200, notify := true, ctx := 3, result := feedResult FeedCounts.zero }]
    port := { Port.reset with writeQueue := List.replicate 63 { writer := .emit, kind := .unit, spans := [] } } }

theorem witness_SegmentOutcomes_statuses :
    telling.port.claimLine = [] ∧ telling.walker.ready = none ∧ telling.port.writeQueue.length + telling.statusQueue.length ≤ 64 ∧
    (∀ x ∈ telling.statusQueue, x.result ≠ []) ∧ telling.walker.state = .blocked ∧ telling.walker.room = false := by decide +kernel

/-- Source: R85: the last outcome of a FEED frees its entry and tells a Walker BLOCKED on a FEED, not one BLOCKED on a SINK; a status that
leaves the status queue tells it too. -/
theorem test_room_reported :
    [2, 3].map (fun k => (State.feedOutcome { blocked (some 3) false (runRecord k 3 1 2 1 0x100000) with
      feeds := ⟨[(0, feedOf 1 1)]⟩ } 0 .used).walker.room) = [true, false] ∧
    (telling.offer .registry).walker.room = true ∧ (telling.offer .registry).statusQueue = [] := by decide +kernel

/-- The context of "a SINK that lands behind the window": W 4, N 12, base 6, positions 6 and 7 FULL, 8 and 9 OPEN, target 5. -/
def behindWindow : Ctx :=
  let pos := fun (st : PosState) (n : Nat) => ({ state := st, seg := n, row := Table.empty, binds := Table.empty } : Position)
  { rebuild with
    geo := { geometry with k := 3, m := 3, width := 4, fragLength := 6144 }
    roles := ⟨[(0, .source), (1, .source), (2, .source), (5, .target)]⟩, exposed := true
    base := 6, retired := 6
    slots := ⟨[(0, pos .opened 8), (1, pos .opened 9), (2, pos .full 6), (3, pos .full 7)]⟩ }

/-- A SINK partly behind the base, and one wholly behind it. -/
theorem witness_SinkAccepted :
    let s := State.with3 fetching behindWindow
    (s.awaitsRecord = true ∧ s.atRest 2 = true ∧ s.statusTotal < 1280 ∧ s.sinks.lowestFree 256 = some 0) ∧
    (postedRecord 3 (runRecord 3 3 5 4 8 0x100000) = true ∧ s.sinkPasses (runRecord 3 3 5 4 8 0x100000) behindWindow 0) ∧
    (postedRecord 3 (runRecord 3 3 5 4 2 0x100000) = true ∧ s.sinkPasses (runRecord 3 3 5 4 2 0x100000) behindWindow 0 ∧
      min (recCount (runRecord 3 3 5 4 2 0x100000)) (behindWindow.base - recFirst (runRecord 3 3 5 4 2 0x100000)) =
        recCount (runRecord 3 3 5 4 2 0x100000)) := by
  unfold State.sinkPasses; decide +kernel

/-- The rebuild with segment 0 FULL, target 0 bound to Sink entry 0 there, target 2 unbound. -/
def halfBound : State :=
  let full : Position := { state := .full, seg := 0, row := Table.empty, binds := ⟨[(0, 0)]⟩ }
  { State.with3 fetching { rebuild with
      slots := ⟨[(0, full), (1, { full with seg := 1, binds := Table.empty })]⟩, sinkList := [0] } with
    sinks := ⟨[(0, { sinkOf 1 with count := 1 })]⟩ }

/-- A context's windows, shown by its rows. -/
theorem seated_of_rows {c : Ctx} (h : c.slots.wf = true) (hs : ∀ r ∈ c.slots.rows, r.2.seg % c.geo.width = r.1) : c.seated :=
  ⟨h, fun n p hg => hs (n, p) (Table.mem_of_get hg)⟩

/-- A SINK of target 2 over both: at segment 0 it is the last target to be bound, at segment 1 target 0 is still missing; one for segment 1
alone leaves segment 0 as it is; and one with the Emit Unit busy. -/
theorem witness_SinkAccepted_full :
    ∃ c, halfBound.ctxs.get 3 = some c ∧ c.seated ∧
    (∀ s ∈ [halfBound, { halfBound with emit := some { ctx := 9, seg := 0, targetsLeft := [] } }],
      s.awaitsRecord = true ∧ s.atRest 2 = true ∧ s.statusTotal < 1280 ∧ s.sinks.lowestFree 256 = some 1) ∧
    (∀ b ∈ [runRecord 3 3 2 0 2 0x180000, runRecord 3 3 2 1 1 0x180000], postedRecord 3 b = true ∧ halfBound.sinkPasses b c 0) := by
  refine ⟨_, rfl, seated_of_rows (by decide +kernel) (by decide +kernel), by decide +kernel, ?_⟩
  unfold State.sinkPasses; decide +kernel

/-- Source: that example: K2, segments 4 to 11: unwritten 2, six owed, positions 6 and 7 bound and queued, 6 first; and R63 to R66:
that SINK binds target 2 at both segments; segment 0 is emitted at once, both its units placed. -/
theorem test_sink_accepted :
    (let t := (State.with3 fetching behindWindow).clearFetch
    let t := State.dispatchSink { t with walker := { t.walker with buffer := runRecord 3 3 5 4 8 0x100000 } } (runRecord 3 3 5 4 8 0x100000)
    (t.sinks.get 0).map (fun k => (k.unwritten, k.pending)) = some (2, 6) ∧ t.emitQueue = [(3, 6), (3, 7)]) ∧
    (let t := after (exec (.sink (runRecord 3 3 2 0 2 0x180000)) halfBound)
    (t.ctxs.get 3).map (fun c => c.positions.map (fun p => (p.state, p.binds.rows))) =
      some [(.emitting, [(0, 0), (2, 1)]), (.full, [(2, 1)])] ∧
    t.emit = some { ctx := 3, seg := 0, targetsLeft := [] } ∧ t.emitQueue = [] ∧
    t.port.writeQueue.map (fun q => q.spans.map (·.addr)) = [[0x1010A], [0x140000], [0x180000]]) := by decide +kernel

/-- No room; a FEED and a SINK that now find an entry; a FEED whose fragment has FAILED; a FEED and a SINK whose context is ending. -/
theorem witness_BlockedRecheck :
    (blocked (some 3) false []).walker.room = false ∧
    (let s := blocked (some 3) true (runRecord 2 3 1 2 1 0x100000)
     s.walker.state = .blocked ∧ s.walker.room = true ∧ s.atRest 2 = true ∧ recKind s.walker.buffer = 2 ∧
       s.feedPasses s.walker.buffer logged 0 ∧ s.statusTotal < 1280 ∧ logged.role (recFragment s.walker.buffer) ≠ .failed ∧
       s.feeds.lowestFree 1024 = some 2) ∧
    (let s := { blocked (some 3) true (runRecord 2 3 3 0 3 0x100000) with ctxs := ⟨[(3, replaced)]⟩ }
     s.atRest 2 = true ∧ s.feedPasses s.walker.buffer replaced 0 ∧ s.statusTotal < 1280 ∧
       replaced.role (recFragment s.walker.buffer) = .failed) ∧
    (let s := blocked (some 3) true (runRecord 3 3 0 0 3 0x140000)
     s.atRest 2 = true ∧ recKind s.walker.buffer = 3 ∧ s.sinkPasses s.walker.buffer logged 0 ∧ s.statusTotal < 1280 ∧
       s.sinks.lowestFree 256 = some 0) ∧
    (let s := { blocked (some 3) true (runRecord 2 3 1 0 3 0x100000) with ctxs := ⟨[(3, ending)]⟩ }
     s.atRest 2 = true ∧ s.feedReason s.walker.buffer = some .ending) ∧
    (let s := { blocked (some 3) true (runRecord 3 3 0 0 3 0x140000) with ctxs := ⟨[(3, ending)]⟩ }
     s.atRest 2 = true ∧ s.sinkReason s.walker.buffer = some .ending) := by
  unfold State.feedPasses State.sinkPasses; decide +kernel

/-- A Walker BLOCKED on the record, every entry of both tables in use. -/
def crowded (b : List Byte) : State :=
  { blocked (some 3) true b with
    feeds := ⟨(List.range 1024).map (fun e => (e, feedOf 1 3))⟩
    sinks := ⟨(List.range 256).map (fun e => (e, { sinkOf 3 with ctx := 4 }))⟩ }

theorem witness_BlockedRecheck_full :
    (crowded (runRecord 2 3 1 2 1 0x100000)).atRest 2 = true ∧ (crowded (runRecord 2 3 1 2 1 0x100000)).walker.room = true ∧
    (crowded (runRecord 2 3 1 2 1 0x100000)).feedPasses (runRecord 2 3 1 2 1 0x100000) logged 0 ∧
    1280 ≤ (crowded (runRecord 2 3 1 2 1 0x100000)).statusTotal ∧
    (crowded (runRecord 3 3 0 0 3 0x140000)).sinkPasses (runRecord 3 3 0 0 3 0x140000) logged 0 := by
  unfold State.feedPasses State.sinkPasses; decide +kernel

theorem test_blocked_recheck :
    firstWrite (exec .blockedRecheck (blocked (some 3) true (runRecord 2 3 1 2 1 0x100000))) = [[1, 0]] ∧
    firstWrite (exec .blockedRecheck (blocked (some 3) true (runRecord 2 3 1 3 1 0x100000))) = [[3, 8]] ∧
    firstWrite (exec .blockedRecheck { blocked (some 3) true (runRecord 3 3 0 0 3 0x140000) with ctxs := ⟨[(3, ending)]⟩ }) = [[3, 6]] ∧
    (after (exec .blockedRecheck (blocked (some 3) true (runRecord 3 3 0 0 3 0x140000)))).sinks.rows.length = 1 := by decide +kernel

/-! ### DROP and ABORT -/

/-- Four ABORTs taken and not final. -/
def manyAborts : Ctx := { ending with aborts := [(0x10500, false), (0x10540, true), (0x10580, false), (0x105C0, false)] }

/-- Each reason of a DROP's refusal and of an ABORT's. -/
theorem witness_DropAndAbortRefused :
    ((State.with3 fetching rebuild).awaitsRecord = true ∧ (State.with3 fetching rebuild).atRest 1 = true ∧
      (State.with3 fetching manyAborts).awaitsRecord = true ∧ (State.with3 fetching manyAborts).atRest 1 = true) ∧
    (∀ b ∈ [nameRecord 4 64 1, nameRecord 4 3 24, nameRecord 4 4 1, nameRecord 4 3 1, nameRecord 4 3 0, nameRecord 4 3 5],
      postedRecord 4 b = true) ∧
    (∀ b ∈ [nameRecord 5 64 0, nameRecord 5 4 0, nameRecord 5 3 0], postedRecord 5 b = true) ∧
    [nameRecord 4 64 1, nameRecord 4 3 24, nameRecord 4 4 1, nameRecord 4 3 0, nameRecord 4 3 5].map
      (State.with3 fetching rebuild).dropReason = [some .badField, some .badField, some .noContext, some .role, some .role] ∧
    (State.with3 fetching manyAborts).dropReason (nameRecord 4 3 1) = some .ending ∧
    [nameRecord 5 64 0, nameRecord 5 4 0, nameRecord 5 3 0].map (State.with3 fetching manyAborts).abortReason =
      [some .badField, some .noContext, some .ending] := by decide +kernel

theorem test_drop_and_abort_refusals :
    [nameRecord 4 64 1, nameRecord 4 4 1, nameRecord 4 3 0].map (fun b => firstWrite (exec (.drop b) (State.with3 fetching rebuild))) =
      [[[3, 2]], [[3, 5]], [[3, 7]]] ∧
    firstWrite (exec (.drop (nameRecord 4 3 1)) (State.with3 fetching ending)) = [[3, 6]] ∧
    [nameRecord 5 64 0, nameRecord 5 4 0, nameRecord 5 3 0].map (fun b => firstWrite (exec (.abort b) (State.with3 fetching manyAborts))) =
      [[[3, 2]], [[3, 5]], [[3, 6]]] := by decide +kernel

/-- The Combine Unit holds a staged segment of fragment `f`, segment 0. -/
def combining (s : State) (f : Nat) (judged : Bool) (data : List Byte) : State :=
  { s with
    combining := some { slot := 7, judged := judged }
    port := { s.port with staging := ⟨[(7,
      { ctx := 3, seg := 0, frag := f, feed := 0, addr := 0x100000, length := 544, phase := .combining, reissues := 1,
        stale := !judged, partner := none, data := data })]⟩ } }

/-- A FAILED fragment; a SOURCE with a spare and with none; a SPARE; and a context whose segment is being combined. -/
theorem witness_DropTaken :
    (let s := State.with3 fetching replaced
     s.awaitsRecord = true ∧ s.atRest 1 = true ∧ s.names (nameRecord 4 3 3) replaced ∧ replaced.state ≠ .draining ∧
       replaced.role 3 = .failed ∧ s.judging 3 = false ∧ replaced.role 1 = .source ∧ replaced.fragmentsIn .spare = []) ∧
    (let s := State.with3 fetching rebuild
     postedRecord 4 (nameRecord 4 3 1) = true ∧ s.names (nameRecord 4 3 1) rebuild ∧ s.judging 3 = false ∧ rebuild.role 1 = .source ∧
       (rebuild.fragmentsIn .spare).head? = some 4 ∧ rebuild.role 4 = .spare ∧ recFragment (nameRecord 4 3 1) < 24) ∧
    (let s := combining (State.with3 fetching rebuild) 1 true []
     s.awaitsRecord = true ∧ s.atRest 1 = true ∧ s.judging 3 = true) := by
  unfold State.names; decide +kernel

/-- Segment 0 of fragments 1, 3 and the spare 4 LOGGED, segment 1 FULL; fragment 1's read of segment 0 waits for its reissue in slot 5. -/
def dropping (state : CtxState) (spare : Bool) (solving : Option Nat) (queue : List Nat) : State :=
  let en := fun (f : Nat) (st : LogState) => (f, ({ state := st, feed := f, verified := false } : LogEntry))
  let c := { rebuild with
    state := state, roles := if spare then rebuild.roles else ⟨[(0, .target), (1, .source), (2, .target), (3, .source)]⟩
    exposed := !spare, feedList := [1, 3, 4]
    slots := ⟨[(0, { state := .opened, seg := 0, row := ⟨[en 1 .inflight, en 3 .logged, en 4 .logged]⟩, binds := Table.empty }),
               (1, { state := .full, seg := 1, row := ⟨[en 1 .contributed, en 3 .contributed, en 4 .logged]⟩, binds := Table.empty })]⟩ }
  let s := State.with3 fetching c
  { s with
    ctxs := ⟨[(3, c), (9, { rebuild with state := .solving })]⟩
    feeds := ⟨[(1, feedOf 1 2), (3, feedOf 3 3), (4, feedOf 4 2)]⟩
    solving := solving.map (fun j => solveOf j c), solveQueue := queue
    port := { s.port with
      reissueLine := [5]
      staging := ⟨[(5, { ctx := 3, seg := 0, frag := 1, feed := 1, addr := 0x100000, length := 544, phase := .retrying, reissues := 0,
                         stale := false, partner := none, data := [] })]⟩ } }

/-- RUNNING with the Solver idle and busy; SOLVING, queued and being solved, with a context behind it and none; with no spare. -/
def dropStates : List State :=
  [dropping .running true none [], dropping .running true (some 9) [], dropping .solving true (some 9) [3],
    dropping .solving true (some 3) [], dropping .solving true (some 3) [9], dropping .running false none []]

theorem witness_DropTaken_release :
    (∀ s ∈ dropStates, s.awaitsRecord = true ∧ s.atRest 1 = true ∧ s.judging 3 = false ∧ s.port.staging.wf = true ∧
      (s.ctxs.get 3).any (fun c => [1, 3].map c.role == [.source, .source] && c.slots.wf &&
        c.slots.rows.all (fun r => r.2.seg % c.geo.width == r.1) && c.geo.stripe == recStripe (nameRecord 4 3 3) &&
        s.port.staging.rows.all (fun r => r.2.phase == .retrying && c.role r.2.frag == .source))) ∧
    dropStates.map (fun s => (s.solvingFor 3, s.solveQueue)) =
      [(false, []), (false, []), (false, [3]), (true, []), (true, [9]), (false, [])] ∧
    ((dropping .running true none []).ctxs.get 3).map (fun c => [1, 4].map (fun f => c.releasedUnused f (fun _ => false) f)) =
      some [0, 1] ∧ (feedOf 4 1).pending = 1 ∧ (feedOf 4 2).pending = 2 := by decide +kernel

/-- Source: R57, R62, R109, R113: the spare's LOGGED entry at the OPEN position is gone and counts unused, at the FULL one it stays; a failed
source's too, its waiting read's at once. -/
theorem test_drop_release :
    ([4, 3, 1].map (fun f =>
      let t := after (exec (.drop (nameRecord 4 3 f)) (dropping .running true none []))
      ([0, 1].map (fun g => (((t.ctxs.get 3).bind (fun c => c.holding g)).map (fun p => p.row.keys)).getD []),
        t.feeds.rows.map (fun r => (r.1, r.2.counts.unused, r.2.pending)))) =
      [([[1, 3], [1, 3, 4]], [(1, 0, 2), (3, 0, 3), (4, 1, 1)]),
       ([[1, 4], [1, 3, 4]], [(1, 0, 2), (3, 1, 2), (4, 0, 2)]),
       ([[3, 4], [1, 3, 4]], [(1, 1, 1), (3, 0, 3), (4, 0, 2)])]) := by decide +kernel

/-- Source: R128: the solve in progress goes behind the context that waits, or starts again with the new sources; a queued one keeps its place. -/
theorem test_drop_solver :
    dropStates.map (fun s =>
      let t := after (exec (.drop (nameRecord 4 3 3)) s)
      (t.solving.map (fun j => (j.ctx, j.sources)), t.solveQueue)) =
      [(some (3, [1, 4]), []), (some (9, [1, 3]), [3]), (some (9, [1, 3]), [3]), (some (3, [1, 4]), []),
        (some (9, [1, 3]), [3]), (none, [])] := by decide +kernel

/-- Source: R106, R136: the slot's progress, first in the claim line, is served first behind a DROP for a fragment already FAILED, which brings
no role update; behind one that brings one the DONE goes first. -/
theorem test_drop_and_progress :
    [3, 1].map (fun f =>
      let s := { State.with3 fetching replaced with
        ready := ⟨[(3, [.progress])]⟩
        port := { fetching.port with writeQueue := List.replicate 64 { writer := .emit, kind := .unit, spans := [] }, claimLine := [.slot 3] } }
      let t := after (exec (.drop (nameRecord 4 3 f)) s)
      ((after (exec .claimLineServe { t with port := { t.port with writeQueue := [] } })).port.writeQueue.map (·.writer))) =
      [[.slot 3, .walker], [.walker, .slot 3]] := by decide +kernel

/-- Source: chapter 5's worked substitution, by a DROP: fragment 3 FAILED, 4 its source, one substitution, SOLVING, exposed; and
R108: with no spare left the context ends SHORT. -/
theorem test_drop_source :
    (let t := after (exec (.drop (nameRecord 4 3 3)) (feeding fetching))
    firstWrite (.next t) = [[2, 0]] ∧
    (t.ctxs.get 3).map (fun c => (c.roles.rows.map (·.2), c.state, c.counters.substitutions, c.exposed, c.timerRuns)) =
      some ([.target, .source, .target, .failed, .source], .solving, 1, true, false) ∧
    (t.feeds.get 1).map (fun f => (f.counts.unused, f.pending)) = some (2, 1) ∧
    (t.ctxs.get 3).map (fun c => c.positions.map (fun p => (p.row.get 3, (p.row.get 1).map (·.state)))) =
      some [(none, some .logged), (none, some .logged)]) ∧
    (((after (exec (.drop (nameRecord 4 3 1)) (State.with3 fetching replaced))).ctxs.get 3).map
    (fun c => (c.state, c.outcome)) = some (.draining, some .short)) := by decide +kernel

/-- DRAINING with room in the list; RUNNING and PENDING; and a context whose segment is being combined. -/
theorem witness_AbortTaken :
    (∀ c ∈ [ending, rebuild, waiting],
      let s := State.with3 fetching c
      s.awaitsRecord = true ∧ s.atRest 1 = true ∧ postedRecord 5 (nameRecord 5 3 0) = true ∧ s.names (nameRecord 5 3 0) c ∧
        s.judging 3 = false ∧ c.aborts.length < 4) ∧
    ending.state = .draining ∧ rebuild.state ≠ .draining ∧ waiting.state = .pending ∧
    (let s := combining (State.with3 fetching rebuild) 1 true []
     s.awaitsRecord = true ∧ s.atRest 1 = true ∧ s.judging 3 = true) := by
  unfold State.names; decide +kernel

theorem test_abort :
    let t := after (exec (.abort (nameRecord 5 3 0)) (State.with3 fetching rebuild))
    firstWrite (.next t) = [[1, 0]] ∧
    (t.ctxs.get 3).map (fun c => (c.state, c.outcome, c.aborts)) =
      some (.draining, some .aborted, [(0x10100, true)]) := by decide +kernel

/-! ### The Memory Port -/

/-- A final disposition write of the Walker's, with NOTIFY. -/
def finalWrite : QWrite := { writer := .walker, kind := .final true, spans := [outcomeBytes 0x10100 2 0] }

/-- A staging slot that reads segment `seg` of fragment `f` for the rebuild. -/
def readOf (seg f reissues : Nat) (phase : SlotPhase) (stale : Bool) (partner : Option Nat) : Staging :=
  { ctx := 3, seg := seg, frag := f, feed := if f = 1 then 0 else 1, addr := 0x100000 + seg * 544, length := 544, phase := phase,
    reissues := reissues, stale := stale, partner := partner, data := [] }

/-- The rebuild with its fragments logged, fragment `f`'s segments being read in slots 5 and, of a pair, 9. -/
def reading (f reissues : Nat) (stale pair : Bool) : State :=
  let c := (logged.inflight 0 f)
  { feeding chained with
    ctxs := ⟨[(3, if pair then c.inflight 1 f else c)]⟩
    port := { Port.reset with
      staging := ⟨(5, readOf 0 f reissues .reading stale (if pair then some 9 else none)) ::
        (if pair then [(9, readOf 1 f reissues .reading stale (some 5))] else [])⟩ } }

/-- Fragment 1's segment 0 waits for its reissue when a record arrives. -/
def retrying (c : Ctx) : State :=
  { feeding fetching with
    ctxs := ⟨[(3, c.inflight 0 1)]⟩
    port := { fetching.port with staging := ⟨[(5, readOf 0 1 0 .retrying false none)]⟩, reissueLine := [5] } }

/-- Source: R153: a pair on the link is one read, of two slots; stale or not; a read that waits for its reissue is none; the fetch is one more. -/
theorem witness_SoftReset_pair :
    (reading 3 1 false true).port.staging.wf = true ∧
    (reading 3 1 false true).readPair 5 9 (readOf 0 3 1 .reading false (some 9)) (readOf 1 3 1 .reading false (some 5)) ∧
    (reading 3 1 false true).linkReads = 1 ∧ (reading 1 1 true false).linkReads = 1 ∧ (retrying logged).linkReads = 1 ∧
    ({ reading 3 1 false true with port := { (reading 3 1 false true).port with fetch := fetching.port.fetch } } : State).linkReads = 2 :=
  ⟨by decide +kernel, ⟨⟨by decide, rfl, rfl⟩, ⟨rfl, rfl⟩, ⟨Nat.zero_lt_one, rfl, rfl⟩, ⟨rfl, rfl⟩, ⟨rfl, rfl⟩⟩, by decide +kernel,
    by decide +kernel, by decide +kernel, by decide +kernel⟩

/-- The logged context with no spare. -/
def lastSources : Ctx := { logged with roles := ⟨[(0, .target), (1, .source), (2, .target), (3, .source)]⟩, exposed := true }

/-- A DROP of another source and of the one whose read waits, a spare to hand; with none left; a PENDING context's; and an ABORT. -/
theorem witness_DropTaken_AbortTaken_stale :
    (∀ c ∈ [logged, lastSources],
      let s := retrying c
      s.awaitsRecord = true ∧ s.atRest 1 = true ∧ s.judging 3 = false ∧ s.port.staging.wf = true ∧
        s.port.staging.get 5 = some (readOf 0 1 0 .retrying false none) ∧
        ((s.ctxs.get 3).bind (fun d => (d.holding 0).bind (fun p => p.row.get 1))).map (·.state) = some .inflight) ∧
    (∀ f ∈ [1, 3], postedRecord 4 (nameRecord 4 3 f) = true ∧ (retrying logged).names (nameRecord 4 3 f) (logged.inflight 0 1) ∧
      (logged.inflight 0 1).role f = .source ∧ (logged.inflight 0 1).state = .running) ∧
    (logged.inflight 0 1).fragmentsIn .spare = [4] ∧ (lastSources.inflight 0 1).fragmentsIn .spare = [] ∧
    (retrying lastSources).names (nameRecord 4 3 1) (lastSources.inflight 0 1) ∧
    (State.with3 fetching waiting).names (nameRecord 4 3 1) waiting ∧ waiting.role 1 = .source ∧
    postedRecord 5 (nameRecord 5 3 0) = true ∧ (retrying logged).names (nameRecord 5 3 0) (logged.inflight 0 1) := by
  unfold State.names; decide +kernel

/-- Source: R57, R140, R150: the waiting read is discarded: LOGGED again for a source that stays, NONE and unused for the one that
failed, INFLIGHT in a context that ends. -/
theorem test_stale_marks :
    ([(Instr.drop (nameRecord 4 3 3), logged), (.drop (nameRecord 4 3 1), logged), (.drop (nameRecord 4 3 1), lastSources),
      (.abort (nameRecord 5 3 0), logged)].map (fun p =>
        let t := after (exec p.1 (retrying p.2))
        (t.port.staging.rows.length, t.port.reissueLine,
          (t.ctxs.get 3).bind (fun d => (d.holding 0).bind (fun q => (q.row.get 1).map (·.state))),
          (t.feeds.get 0).map (fun f => f.counts.unused)))) =
      [(0, [], some .logged, some 0), (0, [], none, some 2), (0, [], some .inflight, some 1), (0, [], some .inflight, some 0)] := by
  decide +kernel

/-- A pair that waits for its reissue. -/
theorem witness_IssuePreference_pair :
    let s := after (exec (.sourceReadError 5) (reading 3 1 false true))
    s.port.outstanding = 0 ∧ s.port.fetch = none ∧ s.walker.wanted = none ∧ s.port.writeQueue = [] ∧ s.port.reissueLine = [5] ∧
    s.port.staging.get 5 = some (readOf 0 3 0 .retrying false (some 9)) ∧
    s.port.staging.get 9 = some (readOf 1 3 0 .retrying false (some 5)) := by decide +kernel

/-- A fetch that waits for its reissue; one asked for; each kind of write at the head; a reissue. -/
theorem witness_IssuePreference :
    (∃ s : State, ∃ f, s.port.outstanding = 0 ∧ s.port.fetch = some ⟨f, false⟩) ∧
    (∃ s : State, ∃ f, s.port.outstanding = 0 ∧ s.port.fetch = none ∧ s.walker.unissued = false ∧ s.walker.wanted = some f) ∧
    (∀ k ∈ [WriteKind.taken, .final true, .final false, .progress, .report, .unit, .message],
      let s := { chained with port := { Port.reset with writeQueue := [{ finalWrite with kind := k }] } }
      s.port.outstanding = 0 ∧ s.noFetchDue ∧ s.atRest 0 = true) ∧
    (∃ s : State, s.port.outstanding = 0 ∧ s.noFetchDue ∧ s.port.writeQueue = [] ∧ s.port.reissueLine = [5] ∧
      ∃ t, s.port.staging.get 5 = some t ∧ t.partner = none) := by
  refine ⟨⟨after (exec .recordFetchError fetching), _, rfl, rfl⟩, ⟨after (exec .pollTimer parked), _, rfl, rfl, rfl, rfl⟩, ?_,
    ⟨after (exec (.sourceReadError 5) (reading 1 1 false false)), rfl, .inr ⟨rfl, .inr rfl⟩, rfl, rfl, _, rfl, rfl⟩⟩
  intro k hk
  refine ⟨rfl, .inr ⟨rfl, .inr rfl⟩, ?_⟩
  revert k; decide +kernel

/-- Source: R132's order: the write before the reissue; R180, R182: a final disposition counts and raises attention. -/
theorem test_issue_opportunity :
    (let s := after (exec (.sourceReadError 5) (reading 1 1 false false))
     let t := after (exec .issueOpportunity { s with port := { s.port with writeQueue := [finalWrite] } })
     t.ctl.finalised = 1 ∧ t.ctl.attention = true ∧ t.port.reissueLine = [5] ∧
     (after (exec .issueOpportunity t)).issued = [.write finalWrite, .read 0x100000 544]) ∧
    (after (exec .issueOpportunity (after (exec (.sourceReadError 9) (reading 3 1 false true))))).issued = [.read 0x100000 1088] := by
  decide +kernel

/-- A state with a candidate, and one without; an offer, and none. -/
theorem witness_ArbiterChoice :
    (feeding chained).choose = some 3 ∧ chained.choose = none ∧ logged.offered = some (0, 1, 0) ∧ rebuild.offered = none := by
  decide +kernel

/-- Source: R142: slot 5 is exposed and goes before slot 3; with the pointer past slot 3, slot 40 goes before slot 3. -/
theorem test_rotation :
    (let s := { feeding chained with ctxs := ⟨[(3, logged), (5, { logged with exposed := true })]⟩ }
     s.choose = some 5) ∧
    (let s := { feeding chained with ctxs := ⟨[(3, logged), (40, logged)]⟩ }
     s.choose = some 3 ∧ State.choose { s with port := { s.port with otherPointer := 4 } } = some 40 ∧
     State.choose { s with port := { s.port with otherPointer := 41 } } = some 3) := by decide +kernel

/-- The fragment's segments 0 and 1 alone are logged, under one entry: a pair can form. -/
def pairable : State :=
  let row : Table LogEntry := ⟨[(3, { state := .logged, feed := 1, verified := false })]⟩
  let c := { logged with slots := ⟨[(0, { state := .opened, seg := 0, row := row, binds := Table.empty }),
                                    (1, { state := .opened, seg := 1, row := row, binds := Table.empty })]⟩ }
  { feeding chained with ctxs := ⟨[(3, c)]⟩, port := { Port.reset with pairMode := true } }

/-- Level 0, no credit, no candidate, no slot; a single grant; a pair grant; an offer that is INFLIGHT. -/
theorem witness_GrantTaken :
    (∀ s ∈ [feeding chained, pairable], s.port.outstanding = 0 ∧ s.port.fetch = none ∧ s.walker.wanted = none ∧
      s.port.writeQueue = [] ∧ s.port.reissueLine = [] ∧ 1 ≤ s.gov.level ∧ 0 < s.gov.credit ∧ s.choose = some 3 ∧
      s.port.staging.lowestFree 32 = some 0) ∧
    ((feeding chained).noFetchDue ∧ pairable.noFetchDue) ∧
    (logged.offered = some (0, 1, 0) ∧ ((feeding chained).feeds.get 0).isSome = true ∧ (feeding chained).port.pairMode = false) ∧
    (∃ c, pairable.ctxs.get 3 = some c ∧ c.offered = some (0, 3, 1) ∧ (c.inflight 0 3).offered = some (1, 3, 1) ∧
      (pairable.feeds.get 1).isSome = true ∧ pairable.slotsInUse 3 + 1 < pairable.port.readLimit) ∧
    (∃ p en, logged.holding 0 = some p ∧ p.row.get 1 = some en) ∧
    (∃ s : State, s.gov.level = 0 ∧ s.port.outstanding = 0 ∧ s.noFetchDue ∧ s.port.writeQueue = [] ∧ s.port.reissueLine = []) :=
  ⟨by decide +kernel, ⟨.inr ⟨rfl, .inr rfl⟩, .inr ⟨rfl, .inr rfl⟩⟩, by decide +kernel,
    ⟨_, rfl, by decide +kernel, by decide +kernel, by decide +kernel, by decide +kernel⟩, ⟨_, _, rfl, rfl⟩,
    ⟨{ feeding chained with gov := { level := 0, credit := 0, ticks := 0 } }, rfl, rfl, .inr ⟨rfl, .inr rfl⟩, rfl, rfl⟩⟩

/-- The feeding context at a level and a credit, `n` staging slots taken by another's reads. -/
def granting (level : Nat) (credit : Int) (n : Nat) : State :=
  { feeding chained with
    gov := { level := level, credit := credit, ticks := 0 }
    port := { Port.reset with staging := ⟨(List.range n).map (fun k => (k, { readOf 0 1 1 .reading true none with ctx := 9 }))⟩ } }

/-- Level 15; a credit of exactly 0, of 1, below it; every staging slot taken, and all but the last. -/
theorem witness_GrantTaken_bounds :
    (∀ s ∈ [granting 15 0 0, granting 14 0 0, granting 1 1 0, granting 5 (-3) 0, granting 8 9 32, granting 8 9 31],
      s.port.outstanding = 0 ∧ s.port.fetch = none ∧ s.walker.wanted = none ∧ s.port.writeQueue = [] ∧ s.port.reissueLine = [] ∧
        s.choose = some 3) ∧
    (granting 8 9 32).port.staging.lowestFree 32 = none ∧ (granting 8 9 31).port.staging.lowestFree 32 = some 31 ∧
    (granting 15 0 0).port.staging.lowestFree 32 = some 0 := by decide +kernel

/-- Source: R144, R145 and chapter 7's worked example: a single grant charges one unit, a pair two, with one read on the link; and
R160: level 15 always grants and charges nothing; a credit of 0 grants nothing; one of 1 grants. -/
theorem test_grants :
    ((after (exec .issueOpportunity (feeding chained))).gov.credit = 524288 - 544 ∧
    (after (exec .issueOpportunity pairable)).gov.credit = 524288 - 1088 ∧
    (after (exec .issueOpportunity pairable)).issued = [.read 0x100000 1088] ∧
    (after (exec .issueOpportunity pairable)).port.staging.rows.map (fun r => (r.1, r.2.seg, r.2.partner)) =
      [(0, 0, some 1), (1, 1, some 0)]) ∧
    ([granting 15 0 0, granting 14 0 0, granting 1 1 0, granting 8 9 32].map
      (fun s => ((after (exec .issueOpportunity s)).issued.length, (after (exec .issueOpportunity s)).gov.credit)) =
      [(1, 0), (0, 0), (1, -543), (0, 9)]) := by decide +kernel

/-- The write queue full, and the Walker's write ready; a line with the Walker in it and a place in the queue. -/
def claiming (places : Nat) (line : List Writer) : State :=
  { chained with
    walker := { Walker.reset with ready := some finalWrite }
    port := { Port.reset with writeQueue := List.replicate places { finalWrite with kind := .unit }, claimLine := line } }

theorem witness_ClaimLineServe :
    ((claiming 64 []).port.claimLine = [] ∧ (claiming 64 []).port.writeQueue.length = 64 ∧ (claiming 64 []).nextWrite .walker ≠ none) ∧
    ((claiming 63 []).port.writeQueue.length < 64 ∧ (claiming 63 []).nextWrite .walker = some finalWrite ∧
      (claiming 63 []).mustWait .walker = false) ∧
    ((claiming 0 []).nextWrite .registry = none ∧ Writer.walker ∈ (claiming 3 [.walker]).port.claimLine ∧
      (claiming 3 [.registry]).port.claimLine ≠ []) := by decide +kernel

/-- The last segment of the worked case, two bytes long, FULL, and bound for both targets. -/
def lastSegment (st : PosState) : Ctx :=
  { rebuild with
    geo := { geometry with fragLength := 1026 }, base := 2, retired := 2
    slots := ⟨[(0, { state := st, seg := 2, row := Table.empty, binds := ⟨[(0, 0), (2, 1)]⟩ })]⟩ }

/-- Section 7.2's example: the queue full, the Emit Unit in the claim line with two unit writes, a DROP just taken. -/
def crossing : State :=
  after (exec (.drop (nameRecord 4 3 1))
    { State.with3 fetching (lastSegment .emitting) with
      sinks := ⟨[(0, sinkOf 3), (1, { sinkOf 3 with target := 2, buffer := 0x160000 })]⟩
      emit := some { ctx := 3, seg := 2, targetsLeft := [0, 2] }
      port := { fetching.port with writeQueue := List.replicate 64 { finalWrite with kind := .unit }, claimLine := [.emit] } })

/-- The same, its queue holding `n` writes. -/
def crossingAt (n : Nat) : State := { crossing with port := { crossing.port with writeQueue := crossing.port.writeQueue.take n } }

/-- Full; a place for one write of three writers; the Walker's write still to come, so that the slot behind it waits when it stands first. -/
theorem witness_ClaimLineServe_line :
    (crossing.port.claimLine = [.emit, .walker, .slot 3] ∧ crossing.port.writeQueue.length = 64) ∧
    ((crossingAt 63).port.writeQueue.length < 64 ∧ (crossingAt 63).port.claimLine.Nodup ∧ (crossingAt 63).mustWait .emit = false ∧
      ((crossingAt 63).nextWrite .emit).isSome = true) ∧
    ((crossingAt 63).setLine [.slot 3, .emit]).mustWait (.slot 3) = true ∧
    (((crossingAt 63).setLine [.slot 3]).port.claimLine.all (crossingAt 63).mustWait = true) ∧
    ((crossingAt 63).setLine [.registry]).nextWrite .registry = none := by decide +kernel

/-- Source: section 7.2's example: one place frees four times: a unit, the other unit, the DONE, the progress; all at once, in that order. -/
theorem test_crossing :
    (after (exec .claimLineServe (crossingAt 63))).port.claimLine = [.emit, .walker, .slot 3] ∧
    (after (exec .claimLineServe (crossingAt 62))).port.claimLine = [.walker, .slot 3] ∧
    (after (exec .claimLineServe (crossingAt 61))).port.claimLine = [.slot 3] ∧
    ((after (exec .claimLineServe (crossingAt 0))).port.writeQueue.map (·.writer)) = [.emit, .emit, .walker, .slot 3] := by
  decide +kernel

theorem test_claim_line_serve :
    (after (exec .claimLineServe (claiming 63 [.walker]))).port.writeQueue.length = 64 ∧
    (after (exec .claimLineServe (claiming 63 [.walker]))).port.claimLine = [] ∧
    (after (exec .claimLineServe (claiming 64 [.walker]))).port.claimLine = [.walker] := by decide +kernel

/-- A slot of its own with the Combine Unit idle and busy; a pair, both ways; a stale slot; a slot with no read. -/
theorem witness_SourceReadComplete :
    (let s := reading 1 1 false false
     s.atRest 0 = true ∧ s.combining = none ∧ s.port.staging.get 5 = some (readOf 0 1 1 .reading false none)) ∧
    (∀ s ∈ [reading 3 1 false true, { reading 3 1 false true with combining := some { slot := 20, judged := true } }],
     s.atRest 0 = true ∧ s.port.staging.get 5 = some (readOf 0 3 1 .reading false (some 9)) ∧
       s.port.staging.get 9 = some (readOf 1 3 1 .reading false (some 5))) ∧
    (let s := reading 1 1 true false
     s.atRest 0 = true ∧ s.port.staging.get 5 = some (readOf 0 1 1 .reading true none)) ∧
    (reading 1 1 false false).port.staging.get 6 = none := by decide +kernel

/-- A stale read of fragment 1's, its context as `c`. -/
def staleReading (c : Ctx) : State := { reading 1 0 true false with ctxs := ⟨[(3, c.inflight 0 1)]⟩ }

/-- The stale slot's entry INFLIGHT in a RUNNING context, in a DRAINING one, for a FAILED fragment, and not INFLIGHT. -/
theorem witness_SourceRead_stale :
    (∀ c ∈ [logged, { logged with state := .draining }, { logged with roles := logged.roles.set 1 .failed }],
      (staleReading c).atRest 0 = true ∧ (staleReading c).ctxs.get 3 = some (c.inflight 0 1) ∧
        ((c.inflight 0 1).holding 0).bind (fun p => p.row.get 1) = some { state := .inflight, feed := 0, verified := false }) ∧
    (logged.holding 0).bind (fun p => (p.row.get 1).map (·.state)) = some .logged ∧
    ((staleReading logged).port.staging.get 5).map (fun u => (u.ctx, u.phase, u.stale, u.partner)) =
      some (3, .reading, true, none) := by decide +kernel

/-- Source: R57: LOGGED again; left INFLIGHT; NONE and unused; with data or with an error. -/
theorem test_stale_reads :
    [Instr.sourceReadComplete 5 [], .sourceReadError 5].map (fun i =>
      [logged, { logged with state := .draining }, { logged with roles := logged.roles.set 1 .failed }].map (fun c =>
        let t := after (exec i (staleReading c))
        ((t.ctxs.get 3).bind (fun d => (d.holding 0).bind (fun q => (q.row.get 1).map (·.state))),
          (t.feeds.get 0).map (fun f => f.counts.unused)))) =
      List.replicate 2 [(some .logged, some 0), (some .inflight, some 0), (none, some 1)] := by decide +kernel

/-- Source: chapter 7's worked example: of a pair, the lower segment's slot joins the combine queue first; and a stale slot's discard. -/
theorem test_source_read_complete :
    (let t := after (exec (.sourceReadComplete 9 (List.replicate 544 1 ++ List.replicate 544 2)) (reading 3 1 false true))
     t.combining.map (·.slot) = some 5 ∧ t.combineQueue = [9] ∧
       (t.port.staging.get 9).map (fun u => u.data.head?) = some (some 2)) ∧
    (let t := after (exec (.sourceReadComplete 5 []) (reading 1 1 true false))
     t.port.staging.rows = [] ∧ (t.ctxs.get 3).map (fun c => (c.holding 0).map (fun p => (p.row.get 1).map (·.state))) =
       some (some (some .logged))) := by decide +kernel

/-- A read with a reissue left; one with none, its entry INFLIGHT; a stale one. -/
theorem witness_SourceReadError :
    (let s := reading 1 1 false false
     s.atRest 0 = true ∧ s.port.staging.get 5 = some (readOf 0 1 1 .reading false none)) ∧
    (let s := reading 1 0 false false
     s.atRest 0 = true ∧ s.port.staging.get 5 = some (readOf 0 1 0 .reading false none) ∧
       (s.ctxs.get 3).isSome = true ∧ ((logged.inflight 0 1).holding 0).bind (fun p => p.row.get 1) =
         some { state := .inflight, feed := 0, verified := false }) ∧
    (let s := reading 1 0 true false
     s.atRest 0 = true ∧ s.port.staging.get 5 = some (readOf 0 1 0 .reading true none)) := by decide +kernel

/-- A pair, the lower segment's slot with the higher number; with a reissue left and none, stale or not; RUNNING, DRAINING, its fragment FAILED. -/
theorem witness_SourceRead_pair :
    (∀ r ∈ [0, 1], ∀ st ∈ [true, false], (reading 3 r st true).atRest 0 = true ∧
      (reading 3 r st true).readPair 5 9 (readOf 0 3 r .reading st (some 9)) (readOf 1 3 r .reading st (some 5))) ∧
    (let c := (logged.inflight 0 3).inflight 1 3
     (reading 3 0 false true).ctxs.get 3 = some c ∧
       [0, 1].map (fun g => (c.holding g).bind (fun p => (p.row.get 3).map (·.state))) = [some .inflight, some .inflight]) := by
  refine ⟨fun r hr st hst => ⟨?_, ⟨⟨by decide, rfl, rfl⟩, ⟨rfl, rfl⟩, ⟨Nat.zero_lt_one, rfl, rfl⟩, ⟨rfl, rfl⟩, ⟨rfl, rfl⟩⟩⟩, by decide +kernel⟩
  revert r st; decide +kernel

/-- Source: R57, R147, R148: both entries of a stale pair are LOGGED again, left INFLIGHT in DRAINING, NONE and unused for a FAILED fragment. -/
theorem test_stale_pair :
    [Instr.sourceReadComplete 9 [], .sourceReadError 5].map (fun i =>
      [fun (c : Ctx) => c, fun c => { c with state := .draining }, fun c => { c with roles := c.roles.set 3 .failed }].map (fun m =>
        let s := reading 3 0 true true
        let t := after (exec i { s with ctxs := s.ctxs.mapValues m })
        (t.port.staging.rows.length, (t.ctxs.get 3).map (fun c => [0, 1].filterMap (fun g => (c.holding g).bind (fun p =>
          (p.row.get 3).map (·.state)))), (t.feeds.get 1).map (fun f => (f.counts.unused, f.pending))))) =
      List.replicate 2 [(0, some [.logged, .logged], some (0, 3)), (0, some [.inflight, .inflight], some (0, 3)),
        (0, some [], some (2, 1))] := by decide +kernel

/-- Source: R148, R149, R103, and the pair of chapter 7's worked example. -/
theorem test_source_read_error :
    (after (exec (.sourceReadError 5) (reading 3 1 false true))).port.reissueLine = [5] ∧
    (let t := after (exec (.sourceReadError 5) (reading 3 0 false true))
     t.port.staging.rows = [] ∧ (t.feeds.get 1).map (fun f => (f.counts.readFailed, f.pending)) = some (2, 1) ∧
       (t.ctxs.get 3).map (fun c => c.counters.readFailures) = some 2) := by decide +kernel

/-! ### The engine's own completions -/

/-- The stripe with a last segment, segment 2, of two bytes. -/
def shortGeometry : Geometry := { geometry with fragLength := 1026 }

/-- A good unit of fragment 3, segment 2, both payload bytes F5. -/
def goodUnit : List Byte := rebuiltUnit shortGeometry 2 3 [0xF5, 0xF5]

/-- Source: R99: a good unit, then with a reserved byte set, another fragment's, an older epoch, a shorter length, a changed payload byte;
and with every one of these at once. -/
theorem test_trailer_checks :
    [goodUnit, goodUnit.set 534 1, goodUnit.set 530 2, goodUnit.set 520 4, goodUnit.set 528 1, goodUnit.set 1 1,
      ((((goodUnit.set 534 1).set 530 2).set 520 4).set 528 1).set 1 1].map (trailerRefusal shortGeometry 2 3) =
      [none, some .malformed, some .misplaced, some .epoch, some .length, some .corrupt, some .malformed] := by decide +kernel

/-- The rebuild at segment 2, fragment 3's unit in the Combine Unit, verified before or not, its fragment's error count `errors`. -/
def judgedWith (roles : Table Role) (verified : Bool) (errors : Nat) (judged : Bool) (data : List Byte) : State :=
  let row : Table LogEntry := ⟨[(3, { state := .inflight, feed := 1, verified := verified })]⟩
  let c := { logged with
    geo := shortGeometry, roles := roles, errors := Table.empty.setCount 3 errors, base := 2, retired := 2
    slots := ⟨[(0, { state := .opened, seg := 2, row := row, binds := Table.empty })]⟩ }
  let s := combining (feeding chained) 3 judged data
  let t := { s with ctxs := ⟨[(3, c)]⟩ }
  { t with port := { t.port with staging := t.port.staging.mapValues (fun u => { u with seg := 2 }) } }

/-- Taken stale; good; bad, below the limit; bad at the limit, with a spare and without; bad where it was good before. -/
theorem witness_CombineComplete :
    (∀ s ∈ [judgedWith rebuild.roles false 0 false [], judgedWith rebuild.roles false 0 true goodUnit,
        judgedWith rebuild.roles false 0 true [],
        judgedWith rebuild.roles false 1 true [], judgedWith ⟨[(0, .target), (1, .source), (3, .source)]⟩ true 1 true []],
      s.combining.isSome = true ∧ s.held = [] ∧ s.calm = true ∧ s.walker.ready = none ∧ (s.port.staging.get 7).isSome = true ∧
        (s.ctxs.get 3).isSome = true ∧
        ((s.ctxs.get 3).bind (fun c => (c.holding 2).bind (fun p => p.row.get 3))).isSome = true) ∧
    trailerRefusal shortGeometry 2 3 goodUnit = none ∧ trailerRefusal shortGeometry 2 3 [] = some .malformed := by decide +kernel

/-- The last contribution of segment 2 is being combined; the sinks in use, and what the Emit Unit has. -/
def completing (sinks : Table SinkEntry) (emit : Option Emit) : State :=
  let s := judgedWith rebuild.roles false 0 true goodUnit
  { s with
    ctxs := s.ctxs.mapValues (fun c => { c with slots := c.slots.mapValues (fun p =>
      { p with row := p.row.set 1 { state := .contributed, feed := 0, verified := true } }) })
    sinks := sinks, emit := emit }

/-- Both targets' sinks, target 0's alone, one that ends before the segment. -/
def sinkTables : List (Table SinkEntry) :=
  [⟨[(0, sinkOf 3), (1, { sinkOf 3 with target := 2, buffer := 0x160000 })]⟩, ⟨[(0, sinkOf 3)]⟩, ⟨[(0, { sinkOf 2 with count := 2 })]⟩]

/-- The position becomes FULL with both targets bound, one, none; the Emit Unit idle and busy. -/
theorem witness_CombineComplete_full : ∀ k ∈ sinkTables, ∀ e ∈ [none, some ({ ctx := 9, seg := 0, targetsLeft := [] } : Emit)],
    let s := completing k e
    s.combining = some { slot := 7, judged := true } ∧ s.held = [] ∧ s.calm = true ∧ s.walker.ready = none ∧ s.sinks.wf = true ∧
    s.port.staging.wf = true ∧ (3, 2) ∉ s.emitQueue ∧
    (s.port.staging.get 7).map (fun u => (u.ctx, u.seg, u.frag)) = some (3, 2, 3) ∧
    (s.ctxs.get 3).any (fun c => c.state == .running && (c.holding 2).any (fun p =>
      c.allContributed (p.putEntry 3 (some { state := .contributed, feed := 1, verified := true })))) = true := by decide +kernel

/-- Source: R63, R65, R66: what is bound, and where the FULL position goes; and chapter 1's folding table at both offsets of the
segment: F5 under column 2 leaves 02 in target 0's cell, 01 in target 2's. -/
theorem test_combine_good :
    ((sinkTables.map (fun k => ((after (exec .combineComplete (completing k none))).ctxs.get 3).bind (fun c =>
      (c.holding 2).map (fun p => (p.state, p.binds.rows))))) =
      [some (.emitting, [(0, 0), (2, 1)]), some (.full, [(0, 0)]), some (.full, [])] ∧
    (sinkTables.map (fun k => (after (exec .combineComplete (completing k (some { ctx := 9, seg := 0, targetsLeft := [] })))).emitQueue)) =
      [[(3, 2)], [], []]) ∧
    (let t := after (exec .combineComplete (judgedWith rebuild.roles false 0 true goodUnit))
    [0, 1, 2].map (byteAt (cellBytesOf t.store 0)) = [2, 2, 0] ∧ byteAt (cellBytesOf t.store 1) 0 = 1 ∧
    (t.ctxs.get 3).map (fun c => (c.holding 2).map (fun p => p.row.get 3)) =
      some (some (some { state := .contributed, feed := 1, verified := true }))) := by decide +kernel

/-- The refusal at the error limit finds every position in its slot and no read that waits for a reissue but a source's. -/
theorem witness_CombineComplete_release :
    let s := judgedWith rebuild.roles false 1 true []
    s.port.staging.wf = true ∧ (s.ctxs.get 3).any (fun c => c.slots.wf && c.slots.rows.all (fun r => r.2.seg % c.geo.width == r.1) &&
      c.state == .running && c.role 3 == .source && c.errors.count 3 + 1 == c.geo.errorLimit) = true ∧
    s.port.staging.rows.all (fun r => r.2.phase != .retrying) = true := by decide +kernel

/-- Source: chapter 5's worked substitution: the second refusal of fragment 3 fails it, 4 its source; and R102. -/
theorem test_combine_bad :
    ((after (exec .combineComplete (judgedWith rebuild.roles false 1 true []))).ctxs.get 3).map
      (fun c => (c.role 3, c.role 4, c.state, c.counters.refusals, c.counters.substitutions)) =
      some (.failed, .source, .solving, 1, 1) ∧
    ((after (exec .combineComplete (judgedWith rebuild.roles false 1 true []))).ctxs.get 3).map
      (fun c => c.positions.map (fun p => p.row.keys)) = some [[]] ∧
    ((after (exec .combineComplete (judgedWith rebuild.roles false 1 true []))).feeds.get 1).map (fun f =>
      (f.counts.refused, f.counts.unused, f.pending)) = some (1, 0, 2) ∧
    ((after (exec .combineComplete (judgedWith rebuild.roles true 0 true []))).ctxs.get 3).map
      (fun c => (c.outcome, c.errors)) = some (some .bufferReused, Table.empty) := by decide +kernel

/-- A contribution and an entry that is none, at an OPEN position; every position in its segment's slot. -/
theorem witness_ContributionsReset :
    (State.with3 chained chapterFour).ctxs.get 3 = some chapterFour ∧ chapterFour.seated ∧
    (∃ p en, chapterFour.slots.get 3 = some p ∧ p.row.get 1 = some en ∧ p.state = .opened ∧ en.state = .contributed ∧
      chapterFour.holding 7 = some p) ∧ 0 < chapterFour.targetCount :=
  ⟨rfl, seated_of_rows (by decide +kernel) (by decide +kernel), ⟨_, _, rfl, rfl, rfl, rfl, rfl⟩, by decide +kernel⟩

/-- The rebuild with segment 0 emitted, or segment 1; or at its last segment. -/
def emitting (base seg : Nat) : State :=
  let pos := fun (n : Nat) => ({ state := if n = seg then .emitting else .opened, seg := n, row := Table.empty, binds := Table.empty } : Position)
  let c := { rebuild with
    base := base, retired := base, elapsed := 150
    slots := ⟨if base = 2 then [(0, pos 2)] else [(0, pos 0), (1, pos 1)]⟩ }
  { State.with3 chained c with emit := some { ctx := 3, seg := seg, targetsLeft := [] } }

/-- The window of R49, shown by the rows of the position table. -/
theorem windowed_of_rows {c : Ctx} (hw : 1 ≤ c.geo.width) (h : c.slots.wf = true)
    (hr : ∀ r ∈ c.slots.rows, r.2.seg % c.geo.width = r.1 ∧ c.base ≤ r.2.seg ∧ r.2.seg < c.base + c.geo.width ∧ r.2.seg < c.geo.segCount)
    (hh : ∀ j < c.geo.width, c.base + j < c.geo.segCount → (c.holding (c.base + j)).isSome = true) : c.windowed :=
  { width := hw
    seated := seated_of_rows h (fun r m => (hr r m).1)
    inside := fun n p hg => (hr (n, p) (Table.mem_of_get hg)).2
    held := fun _ seg h1 h2 h3 => by
      have hs : c.base + (seg - c.base) = seg := by omega
      have h4 := hh (seg - c.base) (by omega)
      rw [hs] at h4
      exact h4 h3 }

/-- A context with segment 0 emitted and segment 1 DONE already. -/
def bursting : Ctx :=
  let pos := fun (st : PosState) (n : Nat) => ({ state := st, seg := n, row := Table.empty, binds := Table.empty } : Position)
  { rebuild with slots := ⟨[(0, pos .emitting 0), (1, pos .done 1)]⟩ }

/-- The emit of context 9's segment 1 is finished; context 3's last segment waits, bound; `n` writes are queued. -/
def handing (n : Nat) : State :=
  { emitting 0 1 with
    ctxs := ⟨[(3, lastSegment .full), (9, ((emitting 0 1).ctxs.get 3).getD rebuild)]⟩
    sinks := ⟨[(0, sinkOf 3), (1, { sinkOf 3 with target := 2, buffer := 0x160000 })]⟩
    emit := some { ctx := 9, seg := 1, targetsLeft := [] }, emitQueue := [(3, 2)]
    port := { Port.reset with writeQueue := List.replicate n { finalWrite with kind := .unit } } }

/-- Nothing to do: no emit, and targets still to write. Nothing retires: above the base, with no more work, with work and room for all its
units or for one; DRAINING. -/
theorem witness_EmitComplete :
    ((∀ e, chained.emit = some e → e.targetsLeft ≠ []) ∧ ∃ s : State, ∃ e, s.emit = some e ∧ e.targetsLeft ≠ []) ∧
    (∃ c, (emitting 0 1).ctxs.get 3 = some c ∧ c.windowed ∧ (emitting 0 1).emit = some { ctx := 3, seg := 1, targetsLeft := [] } ∧
      (emitting 0 1).calm = true ∧ (c.holding 1).map (·.state) = some .emitting ∧ 1 ≠ c.base ∧
      (c.holding c.base).map (·.state) = some .opened ∧ (emitting 0 1).emitQueue = []) ∧
    (∃ c, (handing 63).ctxs.get 9 = some c ∧ c.windowed ∧ (c.holding 1).map (·.state) = some .emitting ∧
      (c.holding c.base).map (·.state) = some .opened) ∧
    (∀ n ∈ [62, 63, 64], (handing n).calm = true ∧ (handing n).walker.ready = none ∧ (handing n).port.writeQueue.length ≤ 64 ∧
      (handing n).ctxs.get 3 = some (lastSegment .full)) ∧
    ((lastSegment .full).holding 2).map (fun x => (x.state, x.binds.rows)) = some (.full, [(0, 0), (2, 1)]) ∧
    (lastSegment .full).targets = [0, 2] := by
  refine ⟨⟨(by intro e h; cases h), ⟨{ chained with emit := some { ctx := 3, seg := 0, targetsLeft := [2] } }, _, rfl, by decide⟩⟩,
    ⟨_, rfl, windowed_of_rows (by decide +kernel) (by decide +kernel) (by decide +kernel) (by decide +kernel), by decide +kernel⟩,
    ⟨_, rfl, windowed_of_rows (by decide +kernel) (by decide +kernel) (by decide +kernel) (by decide +kernel), by decide +kernel⟩,
    by decide +kernel⟩

/-- One retire; a burst of as many as the window is wide; the last segment's; each with its segment at the base of a RUNNING context. -/
theorem witness_EmitComplete_retires :
    (∀ c ∈ [((emitting 0 0).ctxs.get 3).getD rebuild, bursting, ((emitting 2 2).ctxs.get 3).getD rebuild],
      c.windowed ∧ c.state = .running ∧ (c.holding c.base).map (·.state) = some .emitting) ∧
    ((((emitting 0 0).ctxs.get 3).getD rebuild).holding 1).map (·.state) = some .opened ∧
    ((bursting.holding 1).map (·.state) = some .done ∧ bursting.geo.width = 2 ∧ bursting.holding 2 = none ∧
      bursting.base + 2 ≤ bursting.geo.segCount) ∧
    ((((emitting 2 2).ctxs.get 3).getD rebuild).base + 1 = geometry.segCount) ∧
    (∀ s ∈ [emitting 0 0, emitting 2 2, { emitting 0 0 with ctxs := ⟨[(3, bursting)]⟩ }],
      s.emit.isSome = true ∧ s.calm = true ∧ s.walker.ready = none ∧ s.emitQueue = []) := by
  refine ⟨?_, by decide +kernel⟩
  intro c hc
  refine ⟨?_, ?_⟩
  · simp only [List.mem_cons, List.not_mem_nil, or_false] at hc
    rcases hc with rfl | rfl | rfl <;>
      exact windowed_of_rows (by decide +kernel) (by decide +kernel) (by decide +kernel) (by decide +kernel)
  · revert c; decide +kernel

/-- A position that holds every kind of entry: CONTRIBUTED, LOGGED and INFLIGHT count; and one bound sink. -/
def mixed : Position :=
  let en := fun (st : LogState) (e : Nat) => ({ state := st, feed := e, verified := false } : LogEntry)
  { state := .done, seg := 0, row := ⟨[(1, en .contributed 0), (3, en .logged 1), (4, en .inflight 1), (5, en .refused 1)]⟩,
    binds := ⟨[(0, 0)]⟩ }

/-- Source: R69: at a retire the INFLIGHT entry counts unused too; the sink's last segment frees it. -/
theorem test_account :
    let t := State.accountPosition { feeding chained with sinks := ⟨[(0, sinkOf 1)]⟩ } mixed
    (t.feeds.get 0).map (fun f => (f.counts.used, f.pending)) = some (1, 2) ∧
    (t.feeds.get 1).map (fun f => (f.counts.unused, f.pending)) = some (2, 1) ∧
    t.sinks.rows.length = 0 ∧ t.statusQueue.map (·.result.take 2) = [[3, 0]] := by decide +kernel

/-- The rebuild with both fragments' segments fed twice, entries 0 and 2 fragment 1's, entry 1 fragment 3's; fragment `f` FAILED. -/
def scanning (f : Nat) : State :=
  let c := { rebuild with roles := rebuild.roles.set f .failed, base := 1, slots := Table.empty, feedList := [2, 1, 0] }
  { State.with3 chained c with feeds := ⟨[(0, feedOf 1 3), (1, feedOf 3 1), (2, { feedOf 1 3 with count := 2 })]⟩ }

/-- A segment that two entries cover, a segment that one does, a FAILED fragment's. -/
theorem witness_EmitComplete_scan : ∀ f ∈ [3, 4], ∀ seg ∈ [1, 2], ((scanning f).ctxs.get 3).any (fun c =>
    c.state == .running && c.base ≤ seg && seg < c.base + c.geo.width && c.feedList == [2, 1, 0]) = true ∧ [2, 1, 0].Nodup := by
  decide +kernel

/-- Source: R53, R54: the oldest entry's segment is LOGGED and the other's a duplicate; a FAILED fragment's counts unused. -/
theorem test_scan :
    [(3, 1), (4, 1), (4, 2)].map (fun p =>
      let t := (scanning p.1).openPosition 3 p.2
      ((t.ctxs.get 3).bind (fun c => (c.holding p.2).map (fun q => q.row.rows.map (fun r => (r.1, r.2.feed)))),
        t.feeds.rows.map (fun r => (r.1, r.2.counts.duplicate, r.2.counts.unused)), t.statusQueue.map (·.result.take 12))) =
      [(some [(1, 2)], [(0, 1, 0), (2, 0, 0)], [[0, 0, 0, 0, 0, 0, 2, 0, 0, 0, 1, 0]]),
       (some [(1, 2), (3, 1)], [(0, 1, 0), (1, 0, 0), (2, 0, 0)], []),
       (some [(1, 0), (3, 1)], [(0, 0, 0), (1, 0, 0), (2, 0, 0)], [])] := by decide +kernel

/-- Source: R66: the head of the emit queue, its units at buffer + 2 × 544, target 0's first, as many as there is room for. -/
theorem test_emit_takes_head :
    [62, 63, 64].map (fun n =>
      let t := after (exec .emitComplete (handing n))
      ((t.port.writeQueue.drop n).map (fun q => q.spans.map (·.addr)), t.emit.map (·.targetsLeft), t.port.claimLine)) =
      [([[0x140440], [0x160440]], some [], []), ([[0x140440]], some [2], [.emit]), ([], some [0, 2], [.emit])] := by decide +kernel

/-- Source: R68 to R71: segment 0 retires, segment 2 opens, the timer restarts; the last segment's retire ends the context COMPLETE. -/
theorem test_emit_complete :
    ((after (exec .emitComplete (emitting 0 0))).ctxs.get 3).map
      (fun c => (c.base, c.retired, c.elapsed, c.positions.map (·.seg))) = some (1, 1, 0, [1, 2]) ∧
    ((after (exec .emitComplete (emitting 2 2))).ctxs.get 3).map (fun c => (c.base, c.state, c.outcome)) =
      some (3, .draining, some .complete) ∧
    ((after (exec .emitComplete { emitting 0 0 with ctxs := ⟨[(3, { bursting with cleanRuns := ⟨[(1, 15)]⟩ })]⟩ })).ctxs.get 3).map
      (fun c => (c.base, c.retired, c.positions.map (·.seg))) = some (2, 2, [2]) := by decide +kernel

/-- The rebuild being solved, another context behind it or none. -/
def solvingState (queue : List Nat) : State :=
  { chained with
    ctxs := ⟨[(3, { rebuild with state := .solving, table := none }), (9, { rebuild with state := .solving })]⟩
    solveQueue := queue
    solving := some { ctx := 3, k := 2, sources := [1, 3], targets := [0, 2], working := [[0x8F#8, 0x03#8], [0x3D#8, 0x8F#8]] } }

theorem witness_SolveComplete : ∀ q ∈ [[], [9]],
    (solvingState q).solving.isSome = true ∧ (solvingState q).atRest 1 = true ∧
    ((solvingState q).ctxs.get 3).map (·.state) = some .solving ∧ ((solvingState q).ctxs.get 9).isSome = true := by decide +kernel

theorem test_solve_complete :
    let t := after (exec .solveComplete (solvingState [9]))
    (t.ctxs.get 3).map (fun c => (c.state, c.table)) = some (.running, some [[0x8F#8, 0x03#8], [0x3D#8, 0x8F#8]]) ∧
    t.solving.map (·.ctx) = some 9 ∧ t.solveQueue = [] := by decide +kernel

/-- The rebuild ending with both its feeds and a sink in use. -/
def draining : State :=
  { feeding chained with
    ctxs := ⟨[(3, { ending with feedList := [0, 1], sinkList := [0] })]⟩, sinks := ⟨[(0, sinkOf 2)]⟩ }

/-- Drained; not DRAINING; a staging slot in use; lists of entries in the tables. -/
theorem witness_Drained :
    (draining.calm = true ∧ draining.walker.ready = none ∧ draining.slotsInUse 3 = 0 ∧ draining.emitting 3 = false ∧
      (draining.ctxs.get 3).map (fun c => (c.state, c.teardown)) = some (.draining, .draining)) ∧
    rebuild.state ≠ .draining ∧ (reading 1 1 true false).slotsInUse 3 ≠ 0 ∧
    ([0, 1].Nodup ∧ [0].Nodup ∧ draining.feeds.get 0 = some (feedOf 1 3) ∧
      draining.feeds.get 1 = some (feedOf 3 3) ∧ draining.sinks.get 0 = some (sinkOf 2)) := by decide +kernel

/-- The same with segment 0 DONE: both sources' entries CONTRIBUTED, target 0 bound. -/
def drainingDone : State :=
  let en := fun (e : Nat) => ({ state := .contributed, feed := e, verified := true } : LogEntry)
  { draining with
    ctxs := draining.ctxs.mapValues (fun c => { c with
      slots := ⟨[(0, { state := .done, seg := 0, row := ⟨[(1, en 0), (3, en 1)]⟩, binds := ⟨[(0, 0)]⟩ })]⟩ }) }

theorem witness_Drained_done :
    drainingDone.calm = true ∧ drainingDone.walker.ready = none ∧ drainingDone.slotsInUse 3 = 0 ∧
    (drainingDone.ctxs.get 3).any (fun c => c.state == .draining && c.teardown == .draining && c.feedList == [0, 1] &&
      c.sinkList == [0] && (c.positions.map (·.state)) == [.done]) = true ∧
    drainingDone.feeds.get 0 = some (feedOf 1 3) ∧ (feedOf 1 3).ctx = 3 ∧ drainingDone.sinks.get 0 = some (sinkOf 2) := by
  decide +kernel

/-- Source: R43, steps 1 to 3: one segment of each feed used and two unused; of the sink, one more written and one unwritten. R92: feeds before
sinks, though step 1 leaves the sink with nothing owed. -/
theorem test_drained_done :
    (after (exec (.drained 3) { drainingDone with sinks := ⟨[(0, sinkOf 1)]⟩ })).port.writeQueue.map (fun q => q.spans.map (·.addr)) =
      [[0x1020A, 0x10230], [0x1020A, 0x10230], [0x1030A, 0x10330]] ∧
    (after (exec (.drained 3) drainingDone)).port.writeQueue.map (fun q => (q.spans.map (·.bytes)).map (·.take 12)) =
      [[[2, 0], [1, 0, 0, 0, 0, 0, 0, 0, 0, 0, 2, 0]], [[2, 0], [1, 0, 0, 0, 0, 0, 0, 0, 0, 0, 2, 0]],
        [[2, 0], [2, 0, 1, 0, 0, 0, 0, 0, 0, 0, 0, 0]]] := by decide +kernel

/-- Source: R43, R92: what the entries owe counts unused and unwritten; feeds first, then sinks. -/
theorem test_drained :
    (State.teardownSinks ending [0] (State.teardownFeeds ending [0, 1] draining)).statusQueue.map (fun t => (t.addr, (t.result.drop 2).head?, (t.result.drop 10).head?)) =
      [(0x10200, some 0, some 3), (0x10200, some 0, some 3), (0x10300, some 2, some 0)] ∧
    (after (exec (.drained 3) draining)).feeds.rows = [] ∧
    ((after (exec (.drained 3) draining)).ctxs.get 3).map (·.teardown) = some .statuses := by decide +kernel

/-- A context whose statuses are out; one whose statuses are not; the head of the cell wait queue served, and not. -/
theorem witness_TeardownResume :
    (let c := { manyAborts with teardown := .statuses }
     let s := State.with3 chained c
     s.ctxs.get 3 = some c ∧ c.state = .draining ∧ c.outcome = some .aborted ∧ s.atRest (2 + c.aborts.length) = true ∧ s.cellWait = []) ∧
    (ending.state = .draining ∧ ending.teardown ≠ .statuses) ∧
    (let s := { State.with3 chained waiting with cellWait := [3, 9] }
     s.ctxs.get 3 = some waiting ∧ waiting.cellNeed ≤ s.freeCells ∧ 3 ∉ [9] ∧ s.ctxs.get 9 = none) ∧
    (3 : Nat) < waiting.cellNeed := by decide +kernel

/-- No cell free, two contexts waiting for four each: the four that return serve the first. -/
def returning : State :=
  { chained with
    ctxs := ⟨[(3, { manyAborts with teardown := .statuses }), (9, waiting), (12, waiting)]⟩, freeCells := 0, cellWait := [9, 12] }

theorem witness_TeardownResume_waiting :
    returning.ctxs.get 3 = some { manyAborts with teardown := .statuses } ∧ returning.calm = true ∧ returning.walker.ready = none ∧
    3 ∉ returning.cellWait ∧ returning.atRest (2 + manyAborts.aborts.length + returning.cellWait.length) = true ∧
    (∀ j ∈ returning.cellWait, returning.ctxs.get j = some waiting) ∧ waiting.feedList = [] := by decide +kernel

/-- A context fed while it waited is served: its entries have had no outcome yet. -/
theorem witness_TeardownResume_scan :
    let c := { waiting with feedList := [0, 1] }
    let s := { feeding chained with ctxs := ⟨[(3, c)]⟩, cellWait := [3] }
    s.ctxs.get 3 = some c ∧ c.cellNeed ≤ s.freeCells ∧ c.base = 0 ∧ c.feedList.Nodup ∧
    (∀ e ∈ c.feedList, (s.feeds.get e).any (fun g => g.pending == g.count) = true) ∧ c.scanned s.feeds 1 3 ≠ none := by decide +kernel

/-- Source: R32, R43: the context served enters SOLVING, its progress first; the one behind it waits on. -/
theorem test_teardown_serves :
    let t := after (exec (.teardownResume 3) returning)
    t.freeCells = 0 ∧ t.cellWait = [12] ∧ (t.ctxs.get 9).map (fun c => (c.state, c.cells.length)) = some (.solving, 4) ∧
    t.port.writeQueue.map (·.writer) = [.slot 9, .slot 3, .slot 3, .slot 3, .slot 3, .slot 3, .slot 3] := by decide +kernel

/-- Source: R43, R44: four cells return; the final progress, the OPEN's DONE with ABORTED, then the ABORTs' DONEs. -/
theorem test_teardown_resume :
    let t := after (exec (.teardownResume 3) (State.with3 chained { manyAborts with teardown := .statuses }))
    t.freeCells = 512 ∧ t.ctxs.rows = [] ∧ t.port.writeQueue.map (fun q => q.spans.map (fun p => (p.addr, p.bytes.length))) =
      [[(0x10448, 56)], [(0x1040A, 2)], [(0x1050A, 2)], [(0x1054A, 2)], [(0x1058A, 2)], [(0x105CA, 2)]] := by decide +kernel

/-- The context of "a swap": fragment 1 NONE at the oldest OPEN position, fragment 5 LOGGED there, the timer at its limit. -/
def stalled (expiries : Nat) (spare : Bool) : Ctx :=
  let c := fun f => (f, { state := .contributed, feed := 0, verified := true : LogEntry })
  { rebuild with
    geo := { geometry with k := 3, m := 3, fragLength := 51200 }
    roles := ⟨[(0, .source), (1, .source), (2, .source), (3, .target), (5, if spare then .spare else .failed)]⟩
    exposed := !spare, base := 40, retired := 40, elapsed := 200, expiries := expiries
    slots := ⟨[(0, { state := .opened, seg := 40, binds := Table.empty,
                     row := ⟨[c 0, c 2, (5, { state := .logged, feed := 0, verified := false })]⟩ }),
               (1, { state := .opened, seg := 41, row := Table.empty, binds := Table.empty })]⟩ }

/-- The same context up to its last segment, 41, of two bytes, which is being combined for source 0; and what is held behind that. -/
def stalledCombining (expiries : Nat) (spare : Bool) (held : List Held) : State :=
  let geo := { (stalled 0 true).geo with fragLength := 41 * 512 + 2 }
  let c := { stalled expiries spare with
    geo := geo
    slots := (stalled expiries spare).slots.mapValues (fun p =>
      if p.seg = 41 then { p with row := ⟨[(0, { state := .inflight, feed := 0, verified := false })]⟩ } else p) }
  let s := combining (State.with3 chained c) 0 true (rebuiltUnit geo 41 0 [1, 2])
  { s with held := held, port := { s.port with staging := s.port.staging.mapValues (fun u => { u with seg := 41 }) } }

/-- Not expired; a swap, no spare to swap for, and the fourth expiry, a segment being combined or not. -/
theorem witness_StallExpiry :
    (∀ p ∈ [(0, true), (2, false), (3, true)],
      let s := State.with3 chained (stalled p.1 p.2)
      let u := stalledCombining p.1 p.2 []
      s.ctxs.get 3 = some (stalled p.1 p.2) ∧ (stalled p.1 p.2).expired = true ∧ s.judging 3 = false ∧ s.calm = true ∧
        s.walker.ready = none ∧ u.judging 3 = true ∧ u.calm = true ∧ (u.ctxs.get 3).any (·.expired) = true) ∧
    rebuild.expired = false ∧ (stalled 2 true).expiries < 3 ∧
    ((stalled 0 true).holding 40).map (fun p => (p.state, p.row.get 1, (p.row.get 5).map (·.state))) =
      some (.opened, none, some .logged) ∧
    [1, 5].map (stalled 0 true).role = [.source, .spare] ∧ (stalled 2 false).fragmentsIn .spare = [] := by decide +kernel

theorem witness_StallExpiry_seated : (stalled 0 true).seated ∧ (stalled 2 false).seated ∧ (stalled 3 true).seated ∧ rebuild.seated := by
  refine ⟨?_, ?_, ?_, ?_⟩ <;> exact seated_of_rows (by decide +kernel) (by decide +kernel)

/-- What a held swap and a held end wait for: a good segment of the RUNNING context, its entry INFLIGHT. -/
theorem witness_StallExpiry_held : ∀ h ∈ [Held.swap 3, .timeOut 3],
    let s := stalledCombining 1 true [h]
    s.held = [h] ∧ s.combining = some { slot := 7, judged := true } ∧ s.calm = true ∧ s.walker.ready = none ∧
    (s.port.staging.get 7).map (fun u => (u.ctx, u.seg, u.frag)) = some (3, 41, 0) ∧
    (s.ctxs.get 3).any (fun c => c.state == .running && c.slots.wf && c.slots.rows.all (fun r => r.2.seg % c.geo.width == r.1) &&
      (c.holding 41).any (fun p => (p.row.get 0).any (fun e => e.state == .inflight)) &&
      (s.port.staging.get 7).any (fun u => trailerRefusal c.geo 41 0 u.data == none)) = true := by decide +kernel

/-- A DROP of source 1, of the spare 5, of source 1 of another context, and an ABORT, held behind the combine. -/
def stalledBehind (record : List Byte) : State :=
  let s := stalledCombining 0 true [.dispatch]
  { s with walker := { fetching.walker with buffer := record, phase := .held } }

/-- The same with the segment bad, having been good before or not, its fragment's error count `errors`. -/
def badBehind (record : List Byte) (verified : Bool) (errors : Nat) : State :=
  let s := stalledBehind record
  { s with
    ctxs := s.ctxs.mapValues (fun c => { c with
      errors := Table.empty.setCount 0 errors
      slots := c.slots.mapValues (fun p => { p with row := p.row.mapValues (fun e =>
        if e.state = .inflight then { e with verified := verified } else e) }) })
    port := { s.port with staging := s.port.staging.mapValues (fun u => { u with data := [] }) } }

/-- A DROP of a source and of a spare, and an ABORT, behind a good segment; a bad one below the limit, at it, and one that was good before. -/
theorem witness_CombineComplete_held :
    (∀ b ∈ [nameRecord 4 3 1, nameRecord 4 3 5, nameRecord 4 3 0, nameRecord 5 3 0],
      ∀ s ∈ [stalledBehind b, badBehind b false 0, badBehind b false 1, badBehind b true 0],
      s.combining = some { slot := 7, judged := true } ∧ s.held = [.dispatch] ∧ s.atRest 1 = true ∧ s.port.staging.wf = true ∧
      (s.port.staging.get 7).map (fun u => (u.ctx, u.seg, u.frag)) = some (3, 41, 0) ∧ recContext s.walker.buffer = 3 ∧
      (s.ctxs.get 3).any (fun c => c.state == .running && c.slots.wf && c.slots.rows.all (fun r => r.2.seg % c.geo.width == r.1) &&
        c.geo.stripe == recStripe s.walker.buffer && c.geo.errorLimit == 2 && decide (c.aborts.length < 4) &&
        ([0, 1, 5].map c.role == [.source, .source, .spare]) && (c.holding 41).any (fun p => (p.row.get 0).isSome)) = true) ∧
    (∀ u ∈ [stalledBehind (nameRecord 4 3 1), badBehind (nameRecord 4 3 1) false 1],
      let s := { u with ctxs := u.ctxs.mapValues (fun c => { c with roles := c.roles.set 5 .failed }) }
      s.atRest 1 = true ∧ (s.ctxs.get 3).any (fun c => c.role 1 == .source && c.fragmentsIn .spare == []) = true) ∧
    (∀ f ∈ [0, 1, 5], postedRecord 4 (nameRecord 4 3 f) = true) ∧ postedRecord 5 (nameRecord 5 3 0) = true := by decide +kernel

/-- Source: R106, R114: a DROP or an ABORT held behind the combine is handled when it has been reported, whatever the report; the DROP is refused
ENDING behind an end BUFFER_REUSED. -/
theorem test_combine_held :
    let behind := fun b => [stalledBehind b, badBehind b false 0, badBehind b false 1, badBehind b true 0].map (fun s =>
      after (exec .combineComplete s))
    let ended := fun (t : State) => (t.ctxs.get 3).map (fun c => (c.state, c.outcome))
    ((behind (nameRecord 4 3 1)).map (fun t => firstWrite (.next t)) = [[[2, 0]], [[2, 0]], [[2, 0]], [[3, 6]]] ∧
      (behind (nameRecord 4 3 1)).map ended =
        [some (.solving, none), some (.solving, none), some (.draining, some .short), some (.draining, some .bufferReused)]) ∧
    ((behind (nameRecord 5 3 0)).map (fun t => firstWrite (.next t)) = [[[1, 0]], [[1, 0]], [[1, 0]], [[1, 0]]] ∧
      (behind (nameRecord 5 3 0)).map ended = [some (.draining, some .aborted), some (.draining, some .aborted),
        some (.draining, some .aborted), some (.draining, some .bufferReused)]) ∧
    ∀ t ∈ behind (nameRecord 4 3 1) ++ behind (nameRecord 5 3 0), t.held = [] := by decide +kernel

/-- Source: R61, R114: what the swap leaves at both OPEN positions, and what a DROP leaves that followed a contribution: LOGGED, verified kept, the
cells 00; a cell of no OPEN position stays. -/
theorem test_sources_changed :
    let cells : Table (List Byte) := ⟨[0, 1, 2].map (fun n => (n, List.replicate 4096 0x5A#8))⟩
    let ts := [exec (.stallExpiry 3) { State.with3 chained (stalled 0 true) with store := cells },
      exec .combineComplete { stalledBehind (nameRecord 4 3 1) with store := cells }].map after
    let rows := fun (c : Ctx) => c.positions.map (fun p => p.row.rows.map (fun r => (r.1, r.2.verified)))
    ts.map (fun t => t.store.keys) = [[2], [2]] ∧
    ts.map (fun t => (t.ctxs.get 3).map rows) =
      [some [[(0, true), (2, true), (5, false)], []], some [[(0, true), (2, true), (5, false)], [(0, true)]]] ∧
    ∀ t ∈ ts, (t.ctxs.get 3).all (fun c => c.positions.all (fun p => p.row.rows.all (fun r => r.2.state == .logged))) = true := by
  decide +kernel

/-- The expiry is due; the record was taken first and brings a change, or brings none. -/
theorem witness_StallExpiry_changeFirst :
    [nameRecord 4 3 1, nameRecord 5 3 0, nameRecord 4 3 5, nameRecord 4 4 1].map (fun b =>
      let s := stalledBehind b
      (s.calm, s.held, (s.ctxs.get 3).map (fun c => (c.expired, s.changeHeld 3 c)))) =
      [(true, [.dispatch], some (true, true)), (true, [.dispatch], some (true, true)), (true, [.dispatch], some (true, false)),
        (true, [.dispatch], some (true, false))] := by decide +kernel

/-- Source: R120: with the DROP of a source taken first the expiry does not happen, and its change alone follows the combine; with the fourth
expiry first the context ends TIMED_OUT and the DROP is refused ENDING. -/
theorem test_stall_expiry_and_drop :
    (let s := after (exec (.stallExpiry 3) (stalledBehind (nameRecord 4 3 1)))
     s.held = [.dispatch] ∧ s.ctl.attention = false ∧
     ((after (exec .combineComplete s)).ctxs.get 3).map (fun c => (c.role 1, c.role 5, c.state, c.expiries, c.stalled)) =
       some (.failed, .source, .solving, 0, false)) ∧
    (let s := stalledBehind (nameRecord 4 3 1)
     let t := after (exec .combineComplete { s with held := [.timeOut 3, .dispatch] })
     (t.ctxs.get 3).map (fun c => c.outcome) = some (some .timedOut) ∧ firstWrite (.next t) = [[3, 6]]) := by decide +kernel

/-- Source: R117, R120: behind a combine the expiry counts at once, and its swap follows the combine; so does a fourth expiry's end. -/
theorem test_stall_expiry_held :
    (let t := after (exec (.stallExpiry 3) (stalledCombining 0 true []))
     t.ctl.attention = true ∧ t.held = [.swap 3] ∧
       (t.ctxs.get 3).map (fun c => (c.expiries, c.stalled, c.counters.stallExpiries, c.role 1, c.state)) =
         some (1, true, 1, .source, .running)) ∧
    ((after (exec .combineComplete (stalledCombining 1 true [.swap 3]))).ctxs.get 3).map (fun c => (c.role 1, c.role 5, c.state)) =
      some (.spare, .source, .solving) ∧
    ((after (exec .combineComplete (stalledCombining 4 true [.timeOut 3]))).ctxs.get 3).map (fun c => (c.outcome, c.state)) =
      some (some .timedOut, .draining) := by decide +kernel

/-- Source: chapter 5's worked stall: expiry 1 swaps fragments 1 and 5, the context is SOLVING; R118: the fourth ends it. -/
theorem test_stall_expiry :
    ((after (exec (.stallExpiry 3) (State.with3 chained (stalled 0 true)))).ctxs.get 3).map
      (fun c => ([0, 1, 2, 5].map c.role, c.state, c.expiries, c.stalled)) =
      some ([.source, .spare, .source, .source], .solving, 1, true) ∧
    ((after (exec (.stallExpiry 3) (State.with3 chained (stalled 3 true)))).ctxs.get 3).map (fun c => (c.state, c.outcome)) =
      some (.draining, some .timedOut) := by decide +kernel

/-! ### Over every step -/

/-- A state with entries in use, and a command that is not a reset. -/
def invariantState : State := { feeding fetching with sinks := ⟨[(0, sinkOf 3)]⟩, pending := [.drop (nameRecord 4 3 3), .tick] }

theorem witness_ContextsKeep :
    (∀ c rest, invariantState.pending = c :: rest → ¬ invariantState.resetsBy c) ∧ (∃ t, step invariantState = .next t) ∧
    invariantState.ctxs.get 3 = some logged ∧ invariantState.holds 3 ∧
    (∀ n : Fin 64, invariantState.pending.head? = some (.teardownResume n) → n.val ≠ 3) := by
  refine ⟨?_, ⟨_, rfl⟩, rfl, ⟨rfl, rfl⟩, ?_⟩
  · intro c rest h
    cases h
    simp [State.resetsBy, engCtrlValue]
  · intro n h
    simp [invariantState] at h

theorem witness_SoundContexts : invariantState.contextsSound ∧ ∃ t, step invariantState = .next t :=
  ⟨one_context rfl (by unfold Ctx.sound Counters.inRange; decide +kernel), _, rfl⟩

theorem witness_EntriesBalance :
    invariantState.feedsBalanced ∧ invariantState.sinksBalanced ∧ (∃ t, step invariantState = .next t) ∧
    (invariantState.feeds.get 1).isSome = true := by
  refine ⟨?_, ?_, ⟨_, rfl⟩, rfl⟩
  · intro e f h
    simp only [invariantState, feeding, Table.get, findRow] at h
    split at h
    · cases h; unfold FeedEntry.balanced; decide
    · split at h
      · cases h; unfold FeedEntry.balanced; decide
      · cases h
  · intro e k h
    simp only [invariantState, Table.get, findRow] at h
    split at h
    · cases h; unfold SinkEntry.balanced; decide
    · cases h

/-- One context: what is asked of it holds of the one listed. -/
theorem of_get_one {s : State} {c c' : Ctx} {i : Nat} (h : s.ctxs = ⟨[(3, c)]⟩) (hg : s.ctxs.get i = some c') : i = 3 ∧ c' = c := by
  simp only [h, Table.get, findRow] at hg
  split at hg
  · rename_i hi; cases hg; exact ⟨hi.symm, rfl⟩
  · cases hg

/-- The feeding context RUNNING in slot 3, its cells lent, a grant due. -/
def agreeing : State := { feeding chained with pending := [.issueOpportunity] }

/-- In it contexts, cells, windows and queues agree. -/
theorem witness_StoreQueuesAndSettings_agrees : agreeing.agrees ∧ agreeing.tablesListed ∧ ∃ t, step agreeing = .next t := by
  have idle : ∀ st, CtxState.running ≠ st → ∀ i, ¬ ∃ c, agreeing.ctxs.get i = some c ∧ c.state = st := by
    rintro st hst i ⟨c, h, hp⟩
    obtain ⟨-, rfl⟩ := of_get_one rfl h
    exact hst hp
  refine ⟨{ listed := rfl, cells := by decide +kernel, lent := ?_, window := ?_, waits := ?_, solver := ?_, closing := ?_ },
    ⟨rfl, rfl, rfl⟩, _, rfl⟩
  · intro i c h
    obtain ⟨-, rfl⟩ := of_get_one rfl h
    exact ⟨by decide, (fun h => nomatch h), .inr rfl, fun _ => by decide⟩
  · intro i c h
    obtain ⟨-, rfl⟩ := of_get_one rfl h
    exact windowed_of_rows (by decide) (by decide +kernel) (by decide +kernel) (by decide +kernel)
  · exact ⟨.nil, fun i => ⟨(nomatch ·), fun h => (idle _ (by decide) i h).elim⟩⟩
  · exact ⟨.nil, fun i => ⟨(nomatch ·), fun h => (idle _ (by decide) i h).elim⟩⟩
  · exact fun i => ⟨Nat.zero_le 1, fun h => nomatch h⟩

theorem witness_StoreQueuesAndSettings :
    let s := { judgedWith rebuild.roles false 0 true goodUnit with
      store := ⟨[(1, List.replicate 4096 1#8)]⟩, pending := [.combineComplete] }
    storeCanonical s.store ∧ s.port.queuesBounded ∧ s.settingsInRange ∧ ∃ t, step s = .next t := by
  refine ⟨?_, ?_, ?_, _, rfl⟩
  · unfold storeCanonical; decide +kernel
  · unfold Port.queuesBounded; decide +kernel
  · unfold State.settingsInRange; decide +kernel

/-- A read of the RUNNING context's source 1 is on the link in slot 5. -/
theorem witness_StoreQueuesAndSettings_staging : ∃ s : State, s.stagingSound ∧ (s.port.staging.get 5).isSome = true ∧
    s.ctxs = agreeing.ctxs ∧ ∃ t, step s = .next t := by
  refine ⟨{ agreeing with port := { Port.reset with staging := ⟨[(5, readOf 0 1 1 .reading false none)]⟩ } },
    ⟨?_, ?_, ?_⟩, rfl, rfl, _, rfl⟩
  all_goals intro k
  · intro u h _
    simp only [Table.get, findRow] at h
    split at h
    · cases h; exact ⟨logged, rfl, rfl, rfl⟩
    · cases h
  · intro u h hp
    simp only [Table.get, findRow] at h
    split at h
    · cases h; rfl
    · cases h
  · intro j u h _ hj
    simp only [Table.get, findRow] at h
    split at h
    · cases h; cases hj
    · cases h

/-- The command at the front is taken, the rest stay, in order. -/
theorem test_step_takes_the_front :
    (after (step { stopped with pending := [.chnHead 0x10100, .tick] })).pending = [.tick] ∧
    (after (step { stopped with pending := [.chnHead 0x10100, .tick] })).ctl.chnHead = 0x10100 ∧
    after (step stopped) = stopped := by decide +kernel

end Sys2Proof.Tests
end

section
/-! PROOFS. The field of the rebuild code (R1 to R4): the coefficient ROM, products, inverses and generator rows. -/

namespace Sys2Proof.Machine

/-! ### Doubling and the coefficient ROM -/

@[simp] theorem gfAdd_zero (a : Byte) : gfAdd a 0#8 = a := BitVec.xor_zero

@[simp] theorem gfAdd_self (a : Byte) : gfAdd a a = 0#8 := BitVec.xor_self

theorem gfAdd_comm (a b : Byte) : gfAdd a b = gfAdd b a := BitVec.xor_comm a b

theorem gfAdd_assoc (a b c : Byte) : gfAdd (gfAdd a b) c = gfAdd a (gfAdd b c) := BitVec.xor_assoc a b c

/-- Doubling is linear: the reduction is added exactly when one of the two summands calls for it. -/
theorem gfDouble_gfAdd (a b : Byte) : gfDouble (gfAdd a b) = gfAdd (gfDouble a) (gfDouble b) := by
  simp only [gfDouble, gfAdd, BitVec.getLsbD_xor, BitVec.shiftLeft_xor_distrib]
  cases a.getLsbD 7 <;> cases b.getLsbD 7
  · simp
  · simp [BitVec.xor_assoc]
  · simp [BitVec.xor_assoc, BitVec.xor_comm 0x1D#8]
  · simp [BitVec.xor_assoc, BitVec.xor_comm 0x1D#8]

theorem iterate_gfDouble_gfAdd (n : Nat) (a b : Byte) :
    gfDouble^[n] (gfAdd a b) = gfAdd (gfDouble^[n] a) (gfDouble^[n] b) :=
  Function.Semiconj₂.iterate gfDouble_gfAdd n a b

@[simp] theorem iterate_gfDouble_zero (n : Nat) : gfDouble^[n] 0#8 = 0#8 := Function.iterate_fixed (by decide) n

theorem doublings_length (n : Nat) (a : Byte) : (doublings n a).length = n := by
  induction n generalizing a with
  | zero => rfl
  | succ n ih => simp [doublings, ih]

theorem doublings_getD {n i : Nat} (h : i < n) (a : Byte) : (doublings n a).getD i 0 = gfDouble^[i] a := by
  induction n generalizing a i with
  | zero => omega
  | succ n ih =>
    cases i with
    | zero => rfl
    | succ i => simpa [doublings] using ih (by omega) (gfDouble a)

theorem expTable_length : expTable.length = 255 := doublings_length 255 1#8

theorem expAt_of_lt {i : Nat} (h : i < 255) : expAt i = gfDouble^[i] 1#8 := doublings_getD h 1#8

theorem gfDouble_period : gfDouble^[255] 1#8 = 1#8 := by decide +kernel

/-- The ROM, read modulo 255, holds the powers of 02 for every exponent. -/
theorem expAt_mod (n : Nat) : expAt (n % 255) = gfDouble^[n] 1#8 := by
  rw [expAt_of_lt (Nat.mod_lt n (by decide)), Function.IsPeriodicPt.iterate_mod_apply gfDouble_period]

theorem one_notMem_expTable_tail : 1#8 ∉ expTable.tail := by decide +kernel

theorem expAt_succ_ne_one {i : Nat} (h : i + 1 < 255) : expAt (i + 1) ≠ 1#8 := by
  have hi : i + 1 < expTable.length := by rwa [expTable_length]
  have htail : i < expTable.tail.length := by rw [List.length_tail]; omega
  rw [expAt, List.getD_eq_getElem _ _ hi, ← List.getElem_tail htail]
  exact fun hone => one_notMem_expTable_tail (hone ▸ List.getElem_mem htail)

/-- The doublings of 01 come back to it after 255 and not before. -/
theorem minimalPeriod_gfDouble : Function.minimalPeriod gfDouble 1#8 = 255 := by
  have hpos := Function.IsPeriodicPt.minimalPeriod_pos (by decide) gfDouble_period
  refine le_antisymm (Function.IsPeriodicPt.minimalPeriod_le (by decide) gfDouble_period) (not_lt.mp fun hlt => ?_)
  have hone := (expAt_of_lt hlt).trans Function.iterate_minimalPeriod
  obtain ⟨n, hn⟩ := Nat.exists_eq_add_one_of_ne_zero hpos.ne'
  rw [hn] at hlt hone
  exact expAt_succ_ne_one hlt hone

theorem expTable_nodup : expTable.Nodup := by
  refine List.nodup_iff_injective_getElem.mpr fun i j hij => Fin.ext ?_
  have hi : i.1 < 255 := expTable_length ▸ i.2
  have hj : j.1 < 255 := expTable_length ▸ j.2
  have hexp : expAt i = expAt j := by
    rwa [expAt, expAt, List.getD_eq_getElem _ _ i.2, List.getD_eq_getElem _ _ j.2]
  rw [expAt_of_lt hi, expAt_of_lt hj] at hexp
  rw [← minimalPeriod_gfDouble] at hi hj
  exact Function.iterate_injOn_Iio_minimalPeriod hi hj hexp

theorem zero_notMem_expTable : 0#8 ∉ expTable := by decide +kernel

/-- The ROM's 255 different entries leave no nonzero byte out. -/
theorem mem_expTable (a : Byte) (h : a ≠ 0) : a ∈ expTable := by
  by_contra ha
  have hnodup : (0#8 :: a :: expTable).Nodup :=
    List.nodup_cons.mpr ⟨List.not_mem_cons_of_ne_of_not_mem h.symm zero_notMem_expTable, List.nodup_cons.mpr ⟨ha, expTable_nodup⟩⟩
  have hcard := hnodup.length_le_card
  simp only [List.length_cons, expTable_length] at hcard
  exact absurd hcard (by decide +kernel)

theorem logOf_lt {a : Byte} (h : a ≠ 0) : logOf a < 255 := by
  simpa [logOf, expTable_length] using List.idxOf_lt_length_of_mem (mem_expTable a h)

theorem expAt_logOf {a : Byte} (h : a ≠ 0) : expAt (logOf a) = a := by
  have hi : expTable.idxOf a < expTable.length := List.idxOf_lt_length_of_mem (mem_expTable a h)
  rw [expAt, logOf, List.getD_eq_getElem _ _ hi, List.getElem_idxOf]

theorem iterate_gfDouble_logOf {a : Byte} (h : a ≠ 0) : gfDouble^[logOf a] 1#8 = a := by
  rw [← expAt_of_lt (logOf_lt h), expAt_logOf h]

/-- Settles O1: the ROM's entries are the iterated doublings of 01, and the finite facts are evaluated. -/
theorem coefficientRom : Obligations.CoefficientRom := by
  refine ⟨expTable_length, rfl, fun i hi => ?_, by decide +kernel, expTable_nodup, by decide +kernel,
    fun a ha => ⟨logOf_lt ha, expAt_logOf ha⟩, by decide +kernel⟩
  rw [expAt_of_lt (by omega), expAt_of_lt (by omega), Function.iterate_succ_apply']

/-! ### Products -/

@[simp] theorem gfMul_zero_left (b : Byte) : gfMul 0#8 b = 0#8 := by simp [gfMul]

@[simp] theorem gfMul_zero_right (a : Byte) : gfMul a 0#8 = 0#8 := by simp [gfMul]

theorem gfMul_of_ne_zero {a b : Byte} (ha : a ≠ 0) (hb : b ≠ 0) : gfMul a b = expAt ((logOf a + logOf b) % 255) := by
  rw [gfMul, if_neg (not_or.mpr ⟨ha, hb⟩)]

/-- A product with a nonzero element is its logarithm's number of doublings: what makes every product linear. -/
theorem gfMul_eq_iterate {a : Byte} (ha : a ≠ 0) (b : Byte) : gfMul a b = gfDouble^[logOf a] b := by
  by_cases hb : b = 0
  · subst hb; simp
  · rw [gfMul_of_ne_zero ha hb, expAt_mod, Function.iterate_add_apply, iterate_gfDouble_logOf hb]

theorem gfMul_comm (a b : Byte) : gfMul a b = gfMul b a := by
  simp only [gfMul, or_comm, Nat.add_comm (logOf a)]

theorem gfMul_left_comm (a b c : Byte) : gfMul a (gfMul b c) = gfMul b (gfMul a c) := by
  by_cases ha : a = 0
  · subst ha; simp
  by_cases hb : b = 0
  · subst hb; simp
  simp only [gfMul_eq_iterate ha, gfMul_eq_iterate hb, ← Function.iterate_add_apply, Nat.add_comm]

theorem gfMul_assoc (a b c : Byte) : gfMul (gfMul a b) c = gfMul a (gfMul b c) := by
  rw [gfMul_comm, gfMul_left_comm, gfMul_comm c b]

theorem gfMul_gfAdd (a b c : Byte) : gfMul a (gfAdd b c) = gfAdd (gfMul a b) (gfMul a c) := by
  by_cases ha : a = 0
  · subst ha; simp
  · simp only [gfMul_eq_iterate ha, iterate_gfDouble_gfAdd]

theorem logOf_one : logOf 1#8 = 0 := by decide +kernel

@[simp] theorem gfMul_one (a : Byte) : gfMul a 1#8 = a := by
  rw [gfMul_comm, gfMul_eq_iterate (by decide), logOf_one, Function.iterate_zero_apply]

/-- Settles O2: a product is a number of doublings, which commute and are linear. -/
theorem fieldMultiplication : Obligations.FieldMultiplication := by
  refine ⟨fun a b => ⟨fun h => if_pos h, fun ha hb => ⟨?_, gfMul_of_ne_zero ha hb⟩⟩, gfMul_comm, gfMul_assoc,
    gfMul_gfAdd, gfMul_one, by decide +kernel, by decide +kernel⟩
  have hla := logOf_lt ha
  have hlb := logOf_lt hb
  omega

/-! ### Inverses and generator rows -/

theorem gfMul_gfInv {a : Byte} (h : a ≠ 0) : gfMul a (gfInv a) = 1#8 := by
  have hlog := logOf_lt h
  rw [gfMul_eq_iterate h, gfInv, expAt_mod, ← Function.iterate_add_apply, Nat.add_sub_cancel' (by omega), gfDouble_period]

theorem generatorRow_length (k i : Nat) : (generatorRow k i).length = k := by simp [generatorRow]

theorem generatorRow_getElem? {k d : Nat} (i : Nat) (h : d < k) : (generatorRow k i)[d]? =
    some (if i < k then (if d = i then 0x01#8 else 0x00#8) else gfInv (BitVec.ofNat 8 i ^^^ BitVec.ofNat 8 d)) := by
  simp [generatorRow, h]

theorem ofNat_byte_inj {i j : Nat} (hi : i < 256) (hj : j < 256) (h : BitVec.ofNat 8 i = BitVec.ofNat 8 j) : i = j := by
  simpa [Nat.mod_eq_of_lt hi, Nat.mod_eq_of_lt hj] using congrArg BitVec.toNat h

/-- Different fragment numbers have a nonzero sum, so a generator row never inverts 00. -/
theorem ofNat_xor_ne_zero {i j : Nat} (hi : i < 256) (hj : j < 256) (h : i ≠ j) :
    BitVec.ofNat 8 i ^^^ BitVec.ofNat 8 j ≠ (0 : Byte) :=
  fun h0 => h (ofNat_byte_inj hi hj (BitVec.xor_eq_zero_iff.mp h0))

/-- Settles O3: an inverse completes its element's logarithm to the period of the doublings. -/
theorem inversesAndGeneratorRows : Obligations.InversesAndGeneratorRows :=
  ⟨fun _ ha => ⟨rfl, gfMul_gfInv ha⟩, by decide +kernel,
    fun k i _ _ => ⟨generatorRow_length k i, fun _ hd => generatorRow_getElem? i hd⟩,
    fun _ _ _ _ _ _ => ofNat_xor_ne_zero (by omega) (by omega) (by omega), by decide +kernel, by decide +kernel⟩

end Sys2Proof.Machine
end

section
/-! PROOFS. The bytes as a field of Mathlib's, and why no k generator rows have a common zero (R5, R6). -/

namespace Sys2Proof.Machine

open Finset Polynomial

/-! ### The bytes as a field -/

/-- A byte taken as an element of the field, apart from its arithmetic modulo 256. -/
@[ext] structure Element where
  /-- The byte. -/
  byte : Byte

/-- The bytes under the sum of R1, the product of R3 and the inverse of R4 are a field. -/
@[reducible] def elementField : Field Element :=
  letI : Add Element := ⟨fun a b => ⟨gfAdd a.byte b.byte⟩⟩
  letI : Mul Element := ⟨fun a b => ⟨gfMul a.byte b.byte⟩⟩
  letI : Neg Element := ⟨id⟩
  letI : Inv Element := ⟨fun a => if a.byte = 0 then ⟨0x00#8⟩ else ⟨gfInv a.byte⟩⟩
  letI : Zero Element := ⟨⟨0x00#8⟩⟩
  letI : One Element := ⟨⟨0x01#8⟩⟩
  Field.ofMinimalAxioms Element
    (fun a b c => Element.ext (gfAdd_assoc a.byte b.byte c.byte))
    (fun a => Element.ext ((gfAdd_comm _ _).trans (gfAdd_zero a.byte)))
    (fun a => Element.ext (gfAdd_self a.byte))
    (fun a b c => Element.ext (gfMul_assoc a.byte b.byte c.byte))
    (fun a b => Element.ext (gfMul_comm a.byte b.byte))
    (fun a => Element.ext ((gfMul_comm _ _).trans (gfMul_one a.byte)))
    (fun a ha =>
      have hbyte : a.byte ≠ 0 := fun h => ha (Element.ext h)
      (congrArg (a * ·) (if_neg hbyte)).trans (Element.ext (gfMul_gfInv hbyte)))
    (if_pos rfl)
    (fun a b c => Element.ext (gfMul_gfAdd a.byte b.byte c.byte))
    ⟨⟨0x00#8⟩, ⟨0x01#8⟩, fun h => absurd (congrArg Element.byte h) (by decide)⟩

/-- A field in which the bytes are read: sums, products, 00 and 01 are the field's own. Linear algebra is done there. -/
structure ReadsField {F : Type} [Field F] (φ : Byte → F) : Prop where
  injective : Function.Injective φ
  zero : φ 0x00#8 = 0
  one : φ 0x01#8 = 1
  add : ∀ a b, φ (gfAdd a b) = φ a + φ b
  mul : ∀ a b, φ (gfMul a b) = φ a * φ b

theorem exists_readsField : ∃ (F : Type) (_ : Field F) (φ : Byte → F), ReadsField φ :=
  ⟨Element, elementField, Element.mk,
    @ReadsField.mk _ elementField _ (fun _ _ h => congrArg Element.byte h) rfl rfl (fun _ _ => rfl) (fun _ _ => rfl)⟩

section Reading

variable {F : Type} [Field F] {φ : Byte → F}

/-- Every element is its own negative: a sum is a difference. -/
theorem ReadsField.add_self (hφ : ReadsField φ) (a : Byte) : φ a + φ a = 0 := by
  rw [← hφ.add, gfAdd_self, hφ.zero]

theorem ReadsField.add_eq_sub (hφ : ReadsField φ) (x : F) (a : Byte) : x + φ a = x - φ a := by
  rw [eq_sub_iff_add_eq, add_assoc, hφ.add_self, add_zero]

theorem ReadsField.inv (hφ : ReadsField φ) {a : Byte} (ha : a ≠ 0) : φ (gfInv a) = (φ a)⁻¹ :=
  eq_inv_of_mul_eq_one_right (by rw [← hφ.mul, gfMul_gfInv ha, hφ.one])

theorem ReadsField.ne_zero (hφ : ReadsField φ) {a : Byte} (ha : a ≠ 0) : φ a ≠ 0 :=
  fun h => ha (hφ.injective (h.trans hφ.zero.symm))

/-! ### Parity rows have no common zero -/

/-- The numerator of a sum of simple fractions `v d / (X - x d)` over their common denominator. -/
noncomputable def fractionNumerator (x v : ℕ → F) (U : Finset ℕ) : F[X] :=
  ∑ d ∈ U, v d • Lagrange.nodal (U.erase d) x

theorem fractionNumerator_degree_lt (x v : ℕ → F) (U : Finset ℕ) : (fractionNumerator x v U).degree < #U := by
  refine mem_degreeLT.mp (Submodule.sum_mem _ fun d hd => Submodule.smul_mem _ _ (mem_degreeLT.mpr ?_))
  rw [Lagrange.degree_nodal]
  exact_mod_cast card_erase_lt_of_mem hd

/-- Away from the poles, the numerator is the sum of the fractions times the denominator. -/
theorem fractionNumerator_eval (x v : ℕ → F) (U : Finset ℕ) {y : F} (hy : ∀ d ∈ U, y ≠ x d) :
    (fractionNumerator x v U).eval y = (∏ d ∈ U, (y - x d)) * ∑ d ∈ U, (y - x d)⁻¹ * v d := by
  rw [fractionNumerator, eval_finsetSum, mul_sum]
  refine sum_congr rfl fun d hd => ?_
  rw [eval_smul, smul_eq_mul, Lagrange.eval_nodal, ← mul_prod_erase U _ hd]
  field_simp [sub_ne_zero.mpr (hy d hd)]

/-- At a pole only that pole's own fraction counts. -/
theorem fractionNumerator_eval_pole (x v : ℕ → F) {U : Finset ℕ} {d : ℕ} (hd : d ∈ U) :
    (fractionNumerator x v U).eval (x d) = v d * ∏ e ∈ U.erase d, (x d - x e) := by
  rw [fractionNumerator, eval_finsetSum, sum_eq_single_of_mem d hd, eval_smul, smul_eq_mul, Lagrange.eval_nodal]
  intro e _ hed
  rw [eval_smul, smul_eq_mul, Lagrange.eval_nodal_at_node (mem_erase.mpr ⟨hed.symm, hd⟩), mul_zero]

/-- A square Cauchy matrix has no kernel: the numerator of the fractions has more zeros than its degree allows. -/
theorem cauchy_kernel (x v : ℕ → F) (U P : Finset ℕ) (hinj : Set.InjOn x (U ∪ P : Finset ℕ)) (hdisj : Disjoint U P)
    (hcard : #U ≤ #P) (hzero : ∀ i ∈ P, ∑ d ∈ U, (x i - x d)⁻¹ * v d = 0) {d : ℕ} (hd : d ∈ U) : v d = 0 := by
  have hQ : fractionNumerator x v U = 0 := by
    refine eq_zero_of_degree_lt_of_eval_index_eq_zero P (hinj.mono (by simp))
      ((fractionNumerator_degree_lt x v U).trans_le (by exact_mod_cast hcard)) fun i hi => ?_
    rw [fractionNumerator_eval x v U, hzero i hi, mul_zero]
    intro e he hie
    exact disjoint_left.mp hdisj he (hinj (by simp [hi]) (by simp [he]) hie ▸ hi)
  have hpole := fractionNumerator_eval_pole x v hd
  rw [hQ, eval_zero] at hpole
  refine (mul_eq_zero.mp hpole.symm).resolve_right (prod_ne_zero_iff.mpr fun e he => sub_ne_zero.mpr fun hde => ?_)
  obtain ⟨hne, heU⟩ := mem_erase.mp he
  exact hne (hinj (by simp [hd]) (by simp [heU]) hde).symm

/-! ### Generator rows -/

/-- A row of `k` entries applied to the values of `k` unknowns. -/
def dot (φ : Byte → F) (k : ℕ) (v : ℕ → F) (row : List Byte) : F := ∑ d ∈ range k, φ (row.getD d 0) * v d

theorem generatorRow_getD {k d : ℕ} (i : ℕ) (hd : d < k) : (generatorRow k i).getD d 0 =
    if i < k then (if d = i then 0x01#8 else 0x00#8) else gfInv (BitVec.ofNat 8 i ^^^ BitVec.ofNat 8 d) := by
  rw [List.getD_eq_getElem?_getD, generatorRow_getElem? i hd, Option.getD_some]

/-- A data fragment's row gives the unknown itself. -/
theorem dot_generatorRow_data (hφ : ReadsField φ) {k i : ℕ} (v : ℕ → F) (hi : i < k) : dot φ k v (generatorRow k i) = v i := by
  rw [dot, sum_eq_single_of_mem i (mem_range.mpr hi)]
  · rw [generatorRow_getD i hi, if_pos hi, if_pos rfl, hφ.one, one_mul]
  · intro d hd hdi
    rw [generatorRow_getD i (mem_range.mp hd), if_pos hi, if_neg hdi, hφ.zero, zero_mul]

/-- A parity fragment's row is a row of a Cauchy matrix. -/
theorem dot_generatorRow_parity (hφ : ReadsField φ) {k i : ℕ} (v : ℕ → F) (hk : k ≤ i) (hi : i < 256) :
    dot φ k v (generatorRow k i) = ∑ d ∈ range k, (φ (BitVec.ofNat 8 i) - φ (BitVec.ofNat 8 d))⁻¹ * v d := by
  refine sum_congr rfl fun d hd => ?_
  have hdk := mem_range.mp hd
  rw [generatorRow_getD i hdk, if_neg (by omega), hφ.inv (ofNat_xor_ne_zero hi (by omega) (by omega)),
    ← hφ.add_eq_sub, ← hφ.add]
  rfl

/-- R5: the generator rows of any `k` fragments have no common zero but 0. -/
theorem generatorRows_kernel (hφ : ReadsField φ) {k : ℕ} {sources : Finset ℕ} (hcard : #sources = k)
    (hlt : ∀ s ∈ sources, s < 24) {v : ℕ → F} (hzero : ∀ s ∈ sources, dot φ k v (generatorRow k s) = 0) :
    ∀ d < k, v d = 0 := by
  have hdata : ∀ d ∈ sources, d < k → v d = 0 := fun d hd hdk => by
    rw [← dot_generatorRow_data hφ v hdk, hzero d hd]
  have hk : k ≤ 24 := by
    rw [← hcard, ← card_range 24]
    exact card_le_card fun s hs => mem_range.mpr (hlt s hs)
  intro d hd
  by_cases hds : d ∈ sources
  · exact hdata d hds hd
  refine cauchy_kernel (fun i => φ (BitVec.ofNat 8 i)) v (range k \ sources) (sources \ range k) ?_ disjoint_sdiff_sdiff ?_
    (fun i hi => ?_) (mem_sdiff.mpr ⟨mem_range.mpr hd, hds⟩)
  · intro i hi j hj hij
    have hbound : ∀ n ∈ range k \ sources ∪ sources \ range k, n < 24 := by
      intro n hn
      simp only [mem_union, mem_sdiff, mem_range] at hn
      rcases hn with ⟨hn, -⟩ | ⟨hn, -⟩
      · omega
      · exact hlt n hn
    have := hbound i hi
    have := hbound j hj
    exact ofNat_byte_inj (by omega) (by omega) (hφ.injective hij)
  · exact (card_sdiff_comm (by rw [card_range, hcard])).le
  · obtain ⟨his, hik⟩ := mem_sdiff.mp hi
    have := hlt i his
    rw [← hzero i his, dot_generatorRow_parity hφ v (by simpa using hik) (by omega)]
    refine sum_subset sdiff_subset fun e he hes => ?_
    have hek := mem_range.mp he
    rw [hdata e (by simpa [hek] using hes) hek, mul_zero]

end Reading

end Sys2Proof.Machine
end

section
/-! PROOFS. The elimination of a solve (R8, R9, R126): what each column's step keeps, and that it inverts what has no kernel. -/

namespace Sys2Proof.Machine

open Finset

section Reading

variable {F : Type} [Field F] {φ : Byte → F}

/-! ### Rows entry by entry -/

theorem scaleRow_length (c : Byte) (r : List Byte) : (scaleRow c r).length = r.length := List.length_map _

theorem addRows_length {a b : List Byte} (h : a.length = b.length) : (addRows a b).length = a.length := by
  simp [addRows, h]

theorem scaleRow_getD (c : Byte) (r : List Byte) (d : ℕ) : (scaleRow c r).getD d 0 = gfMul c (r.getD d 0) := by
  by_cases hd : d < r.length
  · simp [scaleRow, List.getD_eq_getElem?_getD, hd]
  · rw [List.getD_eq_default _ _ (by rw [scaleRow_length]; omega), List.getD_eq_default _ _ (by omega)]
    exact (gfMul_zero_right c).symm

theorem addRows_getD {a b : List Byte} (h : a.length = b.length) (d : ℕ) :
    (addRows a b).getD d 0 = gfAdd (a.getD d 0) (b.getD d 0) := by
  by_cases hd : d < a.length
  · simp [addRows, List.getD_eq_getElem?_getD, hd, h ▸ hd]
  · rw [List.getD_eq_default _ _ (by rw [addRows_length h]; omega), List.getD_eq_default _ _ (by omega),
      List.getD_eq_default _ _ (by omega)]
    rfl

theorem rowTimes_length {w : ℕ} {row : List Byte} {m : List (List Byte)} (hm : ∀ r ∈ m, r.length = w) :
    (rowTimes w row m).length = w := by
  induction row generalizing m with
  | nil => simp [rowTimes]
  | cons c cs ih =>
    cases m with
    | nil => simp [rowTimes]
    | cons r rs =>
      have hr : r.length = w := hm r (by simp)
      have hrest : (rowTimes w cs rs).length = w := ih fun r' h => hm r' (by simp [h])
      rw [rowTimes, addRows_length (by rw [scaleRow_length, hr, hrest]), scaleRow_length, hr]

theorem row_ext {a b : List Byte} {k : ℕ} (ha : a.length = k) (hb : b.length = k)
    (h : ∀ d < k, a.getD d 0 = b.getD d 0) : a = b := by
  refine List.ext_getElem (ha.trans hb.symm) fun d hda hdb => ?_
  rw [← List.getD_eq_getElem a 0 hda, ← List.getD_eq_getElem b 0 hdb, h d (ha ▸ hda)]

theorem getD_mem {m : List (List Byte)} {j : ℕ} (hj : j < m.length) : m.getD j [] ∈ m := by
  rw [List.getD_eq_getElem _ _ hj]
  exact List.getElem_mem hj

/-- The `k` entries of the identity's row `j`. -/
def unitRow (k j : ℕ) : List Byte := (List.range k).map (fun d => if d = j then 1#8 else 0#8)

theorem unitRow_length (k j : ℕ) : (unitRow k j).length = k := by simp [unitRow]

theorem unitRow_getD {k d : ℕ} (j : ℕ) (hd : d < k) : (unitRow k j).getD d 0 = if d = j then 1#8 else 0#8 := by
  simp [unitRow, List.getD_eq_getElem?_getD, hd]

theorem dot_scaleRow (hφ : ReadsField φ) (k : ℕ) (v : ℕ → F) (c : Byte) (r : List Byte) :
    dot φ k v (scaleRow c r) = φ c * dot φ k v r := by
  simp only [dot, scaleRow_getD, hφ.mul, mul_sum, mul_assoc]

theorem dot_addRows (hφ : ReadsField φ) (k : ℕ) (v : ℕ → F) {a b : List Byte} (h : a.length = b.length) :
    dot φ k v (addRows a b) = dot φ k v a + dot φ k v b := by
  simp only [dot, addRows_getD h, hφ.add, add_mul, sum_add_distrib]

theorem dot_unitRow (hφ : ReadsField φ) {k j : ℕ} (v : ℕ → F) (hj : j < k) : dot φ k v (unitRow k j) = v j := by
  rw [dot, sum_eq_single_of_mem j (mem_range.mpr hj)]
  · rw [unitRow_getD j hj, if_pos rfl, hφ.one, one_mul]
  · intro d hd hdj
    rw [unitRow_getD j (mem_range.mp hd), if_neg hdj, hφ.zero, zero_mul]

/-- Column `d` of a matrix of bytes, read in the field. -/
def column (φ : Byte → F) (m : List (List Byte)) (d : ℕ) (i : ℕ) : F := φ ((m.getD i []).getD d 0)

/-- An entry of a row times a matrix is the row applied to the matrix's column. -/
theorem rowTimes_entry (hφ : ReadsField φ) {w d : ℕ} {row : List Byte} {m : List (List Byte)} (hlen : row.length = m.length)
    (hm : ∀ r ∈ m, r.length = w) (hd : d < w) :
    φ ((rowTimes w row m).getD d 0) = dot φ m.length (column φ m d) row := by
  induction row generalizing m with
  | nil =>
    obtain rfl : m = [] := List.length_eq_zero_iff.mp hlen.symm
    simp [rowTimes, dot, List.getD_eq_getElem?_getD, hd, hφ.zero]
  | cons c cs ih =>
    cases m with
    | nil => simp at hlen
    | cons r rs =>
      have hrest : ∀ r' ∈ rs, r'.length = w := fun r' h => hm r' (by simp [h])
      have hr : (scaleRow c r).length = (rowTimes w cs rs).length := by
        rw [scaleRow_length, rowTimes_length hrest, hm r (by simp)]
      rw [rowTimes, addRows_getD hr, hφ.add, scaleRow_getD, hφ.mul, ih (by simpa using hlen) hrest, dot, dot,
        List.length_cons, sum_range_succ', add_comm]
      rfl

/-! ### Choosing the pivot -/

/-- Row `j` of an augmented matrix. -/
def rowAt (m : Augmented) (j : ℕ) : List Byte × List Byte := m.getD j ([], [])

theorem pivotFrom_some {c n i : ℕ} {m : Augmented} (h : pivotFrom c n m = some i) :
    c ≤ i ∧ ∃ j < m.length, i = n + j ∧ (rowAt m j).1.getD c 0 ≠ 0 := by
  induction m generalizing n with
  | nil => simp [pivotFrom] at h
  | cons r rest ih =>
    rw [pivotFrom] at h
    split at h
    · next hr =>
      obtain rfl : n = i := Option.some.inj h
      exact ⟨hr.1, 0, by simp, rfl, hr.2⟩
    · obtain ⟨hc, j, hj, rfl, hne⟩ := ih h
      exact ⟨hc, j + 1, by simpa using hj, by omega, hne⟩

theorem pivotFrom_none {c n : ℕ} {m : Augmented} (h : pivotFrom c n m = none) {j : ℕ} (hj : j < m.length)
    (hc : c ≤ n + j) : (rowAt m j).1.getD c 0 = 0 := by
  induction m generalizing n j with
  | nil => simp at hj
  | cons r rest ih =>
    rw [pivotFrom] at h
    split at h
    · cases h
    · next hr =>
      cases j with
      | zero => simpa [rowAt, show c ≤ n from hc] using hr
      | succ j => exact ih h (by simpa using hj) (by omega)

/-! ### One column of the elimination -/

/-- The pivot's row divided by its entry in the pivot's column. -/
def scaledPivot (c : ℕ) (p : List Byte × List Byte) : List Byte × List Byte :=
  (scaleRow (gfInv (p.1.getD c 0)) p.1, scaleRow (gfInv (p.1.getD c 0)) p.2)

theorem eliminateColumn_length (c : ℕ) (m : Augmented) : (eliminateColumn c m).length = m.length := by
  unfold eliminateColumn
  split <;> simp

/-- What a column's step with pivot row `i` makes of each row: the scaled pivot in row `c`, and every other row, after the
exchange, cleared in column `c`. -/
theorem rowAt_eliminateColumn {c i j : ℕ} {m : Augmented} (h : pivotFrom c 0 m = some i) (hj : j < m.length) :
    rowAt (eliminateColumn c m) j = if j = c then scaledPivot c (rowAt m i)
      else clearColumn c (scaledPivot c (rowAt m i)) (rowAt m (if j = i then c else j)) := by
  simp only [rowAt, eliminateColumn, h]
  rw [List.getD_eq_getElem _ _ (by simpa using hj), List.getElem_mapIdx]
  by_cases hjc : j = c
  · subst hjc
    simp [scaledPivot]
  · simp only [hjc, if_false, List.getElem_set_ne (Ne.symm hjc), List.getElem_set, @eq_comm _ i j]
    by_cases hji : j = i
    · simp [hji, scaledPivot]
    · simp [hji, scaledPivot, hj]

/-! ### What the elimination keeps -/

/-- An augmented row with both halves `k` wide, the first of which is the second times the matrix being inverted. -/
structure Combines (φ : Byte → F) (k : ℕ) (M : List (List Byte)) (r : List Byte × List Byte) : Prop where
  left : r.1.length = k
  right : r.2.length = k
  entry : ∀ d < k, φ (r.1.getD d 0) = dot φ k (column φ M d) r.2

theorem Combines.scaled (hφ : ReadsField φ) {k : ℕ} {M : List (List Byte)} {p : List Byte × List Byte}
    (hp : Combines φ k M p) (c : ℕ) : Combines φ k M (scaledPivot c p) where
  left := (scaleRow_length _ _).trans hp.left
  right := (scaleRow_length _ _).trans hp.right
  entry d hd := by rw [scaledPivot, scaleRow_getD, hφ.mul, hp.entry d hd, dot_scaleRow hφ]

theorem Combines.cleared (hφ : ReadsField φ) {k : ℕ} {M : List (List Byte)} {p r : List Byte × List Byte}
    (hp : Combines φ k M p) (hr : Combines φ k M r) (c : ℕ) : Combines φ k M (clearColumn c p r) := by
  have hleft : r.1.length = (scaleRow (r.1.getD c 0) p.1).length := by rw [scaleRow_length, hp.left, hr.left]
  have hright : r.2.length = (scaleRow (r.1.getD c 0) p.2).length := by rw [scaleRow_length, hp.right, hr.right]
  refine ⟨(addRows_length hleft).trans hr.left, (addRows_length hright).trans hr.right, fun d hd => ?_⟩
  rw [clearColumn, addRows_getD hleft, hφ.add, scaleRow_getD, hφ.mul, hr.entry d hd, hp.entry d hd, dot_addRows hφ _ _ hright,
    dot_scaleRow hφ]

theorem dot_clearColumn (hφ : ReadsField φ) {k c : ℕ} {M : List (List Byte)} (v : ℕ → F) {p r : List Byte × List Byte}
    (hp : Combines φ k M p) (hr : Combines φ k M r) :
    dot φ k v (clearColumn c p r).1 = dot φ k v r.1 + φ (r.1.getD c 0) * dot φ k v p.1 := by
  rw [clearColumn, dot_addRows hφ k v (by rw [scaleRow_length, hp.left, hr.left]), dot_scaleRow hφ]

theorem clearColumn_getD {k c : ℕ} {M : List (List Byte)} {p r : List Byte × List Byte}
    (hp : Combines φ k M p) (hr : Combines φ k M r) (d : ℕ) :
    (clearColumn c p r).1.getD d 0 = gfAdd (r.1.getD d 0) (gfMul (r.1.getD c 0) (p.1.getD d 0)) := by
  rw [clearColumn, addRows_getD (by rw [scaleRow_length, hp.left, hr.left]), scaleRow_getD]

/-- What holds once the columns below `c` are done: every row combines rows of the matrix, the rows have no common zero,
and the columns done are the identity's. -/
structure Eliminated (φ : Byte → F) (k : ℕ) (M : List (List Byte)) (c : ℕ) (a : Augmented) : Prop where
  length : a.length = k
  combines : ∀ j < k, Combines φ k M (rowAt a j)
  kernel : ∀ v : ℕ → F, (∀ j < k, dot φ k v (rowAt a j).1 = 0) → ∀ d < k, v d = 0
  columns : ∀ j < k, ∀ d < c, (rowAt a j).1.getD d 0 = if d = j then 1#8 else 0#8

/-- A zero of the rows, if column `c` has no entry left for a pivot: 1 at `c`, and above it what cancels the column. -/
def columnZero (φ : Byte → F) (a : Augmented) (c d : ℕ) : F :=
  if d = c then 1 else if d < c then φ ((rowAt a d).1.getD c 0) else 0

/-- Column `c` always has a pivot: without one its entries would be combined of the columns before it, a common zero of the rows. -/
theorem Eliminated.pivot (hφ : ReadsField φ) {k c : ℕ} {M : List (List Byte)} {a : Augmented} (h : Eliminated φ k M c a)
    (hc : c < k) : ∃ i < k, c ≤ i ∧ (rowAt a i).1.getD c 0 ≠ 0 ∧ pivotFrom c 0 a = some i := by
  cases hp : pivotFrom c 0 a with
  | some i =>
    obtain ⟨hci, j, hj, rfl, hne⟩ := pivotFrom_some hp
    rw [Nat.zero_add] at hci ⊢
    exact ⟨j, h.length ▸ hj, hci, hne, rfl⟩
  | none =>
    have hone : columnZero φ a c c = 1 := if_pos rfl
    have hzero := h.kernel (columnZero φ a c) (fun j hj => ?_) c hc
    · exact absurd (hone.symm.trans hzero) one_ne_zero
    have hlow : ∀ d < c, d ≠ j → φ ((rowAt a j).1.getD d 0) * columnZero φ a c d = 0 := fun d hd hdj => by
      rw [h.columns j hj d hd, if_neg hdj, hφ.zero, zero_mul]
    have hhigh : ∀ d, c < d → φ ((rowAt a j).1.getD d 0) * columnZero φ a c d = 0 := fun d hd => by
      rw [columnZero, if_neg (by omega), if_neg (by omega), mul_zero]
    by_cases hjc : j < c
    · rw [dot, sum_eq_add_of_mem j c (mem_range.mpr hj) (mem_range.mpr hc) (by omega)]
      · rw [h.columns j hj j hjc, if_pos rfl, hφ.one, one_mul, hone, mul_one, columnZero, if_neg (by omega), if_pos hjc,
          hφ.add_self]
      · rintro d - ⟨hdj, hdc⟩
        rcases Nat.lt_or_gt_of_ne hdc with hd | hd
        · exact hlow d hd hdj
        · exact hhigh d hd
    · refine sum_eq_zero fun d _ => ?_
      rcases Nat.lt_trichotomy d c with hd | rfl | hd
      · exact hlow d hd (by omega)
      · rw [pivotFrom_none hp (by rw [h.length]; exact hj) (by omega)]
        exact mul_eq_zero_of_left hφ.zero _
      · exact hhigh d hd

/-- The scaled pivot row is the identity's in the columns up to its own. -/
theorem Eliminated.scaledPivot_getD {k c i d : ℕ} {M : List (List Byte)} {a : Augmented} (h : Eliminated φ k M c a)
    (hi : i < k) (hci : c ≤ i) (hne : (rowAt a i).1.getD c 0 ≠ 0) (hd : d ≤ c) :
    (scaledPivot c (rowAt a i)).1.getD d 0 = if d = c then 1#8 else 0#8 := by
  rw [scaledPivot, scaleRow_getD, gfMul_comm]
  by_cases hdc : d = c
  · rw [hdc, gfMul_gfInv hne, if_pos rfl]
  · rw [h.columns i hi d (by omega), if_neg (by omega), gfMul_zero_left, if_neg hdc]

/-- A step's rows have no common zero the rows before it had not. -/
theorem Eliminated.step_kernel (hφ : ReadsField φ) {k c i : ℕ} {M : List (List Byte)} {a : Augmented} (h : Eliminated φ k M c a)
    (hc : c < k) (hi : i < k) (hne : (rowAt a i).1.getD c 0 ≠ 0) (hpivot : pivotFrom c 0 a = some i) {v : ℕ → F}
    (hv : ∀ j < k, dot φ k v (rowAt (eliminateColumn c a) j).1 = 0) : ∀ j < k, dot φ k v (rowAt a j).1 = 0 := by
  have hrow := fun j (hj : j < k) => rowAt_eliminateColumn hpivot (h.length.symm ▸ hj : j < a.length)
  have hscaled : dot φ k v (scaledPivot c (rowAt a i)).1 = 0 := by
    simpa only [hrow c hc, if_true] using hv c hc
  have hpi : dot φ k v (rowAt a i).1 = 0 := by
    rw [scaledPivot, dot_scaleRow hφ, hφ.inv hne] at hscaled
    exact (mul_eq_zero.mp hscaled).resolve_left (inv_ne_zero (hφ.ne_zero hne))
  have hother : ∀ j < k, j ≠ c → dot φ k v (rowAt a (if j = i then c else j)).1 = 0 := fun j hj hjc => by
    have hz := hv j hj
    have hsource : (if j = i then c else j) < k := by split <;> assumption
    rwa [hrow j hj, if_neg hjc, dot_clearColumn hφ v ((h.combines i hi).scaled hφ c) (h.combines _ hsource), hscaled, mul_zero,
      add_zero] at hz
  intro j hj
  by_cases hji : j = i
  · rw [hji, hpi]
  by_cases hjc : j = c
  · have hexchanged := hother i hi (hjc ▸ Ne.symm hji)
    rwa [if_pos rfl, ← hjc] at hexchanged
  · simpa only [hji, if_false] using hother j hj hjc

/-- A step makes its own column the identity's and leaves the columns done before it so. -/
theorem Eliminated.step_columns (hφ : ReadsField φ) {k c i j d : ℕ} {M : List (List Byte)} {a : Augmented}
    (h : Eliminated φ k M c a) (hc : c < k) (hi : i < k) (hci : c ≤ i) (hne : (rowAt a i).1.getD c 0 ≠ 0)
    (hpivot : pivotFrom c 0 a = some i) (hj : j < k) (hd : d ≤ c) :
    (rowAt (eliminateColumn c a) j).1.getD d 0 = if d = j then 1#8 else 0#8 := by
  rw [rowAt_eliminateColumn hpivot (h.length.symm ▸ hj)]
  by_cases hjc : j = c
  · rw [if_pos hjc, h.scaledPivot_getD hi hci hne hd, hjc]
  have hsource : (if j = i then c else j) < k := by split <;> assumption
  rw [if_neg hjc, clearColumn_getD ((h.combines i hi).scaled hφ c) (h.combines _ hsource), h.scaledPivot_getD hi hci hne hd]
  by_cases hdc : d = c
  · rw [hdc, if_pos rfl, gfMul_one, gfAdd_self, if_neg (Ne.symm hjc)]
  · rw [if_neg hdc, gfMul_zero_right, gfAdd_zero, h.columns _ hsource d (by omega)]
    by_cases hji : j = i
    · rw [if_pos hji, if_neg hdc, if_neg (by omega)]
    · rw [if_neg hji]

/-- One column's step does its column and keeps what holds of the rows. -/
theorem Eliminated.step (hφ : ReadsField φ) {k c : ℕ} {M : List (List Byte)} {a : Augmented} (h : Eliminated φ k M c a)
    (hc : c < k) : Eliminated φ k M (c + 1) (eliminateColumn c a) := by
  obtain ⟨i, hi, hci, hne, hpivot⟩ := h.pivot hφ hc
  refine ⟨(eliminateColumn_length c a).trans h.length, fun j hj => ?_,
    fun v hv => h.kernel v (h.step_kernel hφ hc hi hne hpivot hv),
    fun j hj d hd => h.step_columns hφ hc hi hci hne hpivot hj (by omega)⟩
  have hscaled := (h.combines i hi).scaled hφ c
  rw [rowAt_eliminateColumn hpivot (h.length.symm ▸ hj)]
  split
  · exact hscaled
  · exact hscaled.cleared hφ (h.combines _ (by split <;> assumption)) c

/-! ### The inverse and the solve -/

/-- The matrix beside the identity, before the first column. -/
def augment (k : ℕ) (M : List (List Byte)) : Augmented := M.mapIdx fun j r => (r, unitRow k j)

theorem rowAt_augment {k j : ℕ} {M : List (List Byte)} (hj : j < M.length) : rowAt (augment k M) j = (M.getD j [], unitRow k j) := by
  simp [rowAt, augment, List.getD_eq_getElem?_getD, hj]

theorem eliminated_augment (hφ : ReadsField φ) {k : ℕ} {M : List (List Byte)} (hk : M.length = k)
    (hM : ∀ j < k, (M.getD j []).length = k)
    (hkernel : ∀ v : ℕ → F, (∀ j < k, dot φ k v (M.getD j []) = 0) → ∀ d < k, v d = 0) :
    Eliminated φ k M 0 (augment k M) where
  length := by simp [augment, hk]
  combines j hj := by
    rw [rowAt_augment (hk ▸ hj)]
    exact ⟨hM j hj, unitRow_length k j, fun d _ => (dot_unitRow hφ (column φ M d) hj).symm⟩
  kernel v hv := hkernel v fun j hj => by simpa only [rowAt_augment (hk ▸ hj : j < M.length)] using hv j hj
  columns _ _ _ hd := absurd hd (Nat.not_lt_zero _)

theorem Eliminated.foldl (hφ : ReadsField φ) {k : ℕ} {M : List (List Byte)} {a : Augmented} (h : Eliminated φ k M 0 a) {n : ℕ}
    (hn : n ≤ k) : Eliminated φ k M n ((List.range n).foldl (fun a c => eliminateColumn c a) a) := by
  induction n with
  | zero => exact h
  | succ n ih =>
    rw [List.range_succ, List.foldl_append]
    exact (ih (by omega)).step hφ hn

/-- The elimination inverts a matrix whose rows have no common zero: its rows combine the matrix's into the identity's. -/
theorem invertMatrix_spec (hφ : ReadsField φ) {k : ℕ} {M : List (List Byte)} (hk : M.length = k)
    (hM : ∀ j < k, (M.getD j []).length = k)
    (hkernel : ∀ v : ℕ → F, (∀ j < k, dot φ k v (M.getD j []) = 0) → ∀ d < k, v d = 0) :
    (invertMatrix k M).length = k ∧ ∀ j < k, ((invertMatrix k M).getD j []).length = k ∧
      ∀ d < k, dot φ k (column φ M d) ((invertMatrix k M).getD j []) = if d = j then 1 else 0 := by
  have h := (eliminated_augment hφ hk hM hkernel).foldl hφ le_rfl
  have hrows : invertMatrix k M = ((List.range k).foldl (fun a c => eliminateColumn c a) (augment k M)).map (·.2) := rfl
  have hrow : ∀ j < k, (invertMatrix k M).getD j [] =
      (rowAt ((List.range k).foldl (fun a c => eliminateColumn c a) (augment k M)) j).2 := fun j hj => by
    simp [hrows, rowAt, List.getD_eq_getElem?_getD, h.length, hj]
  refine ⟨by rw [hrows, List.length_map, h.length], fun j hj => ?_⟩
  rw [hrow j hj]
  refine ⟨(h.combines j hj).right, fun d hd => ?_⟩
  rw [← (h.combines j hj).entry d hd, h.columns j hj d hd, apply_ite φ, hφ.one, hφ.zero]

/-- A row times the inverse combines the matrix's rows back into the row. -/
theorem rowTimes_invertMatrix (hφ : ReadsField φ) {k : ℕ} {M : List (List Byte)} (hk : M.length = k)
    (hM : ∀ r ∈ M, r.length = k)
    (hkernel : ∀ v : ℕ → F, (∀ j < k, dot φ k v (M.getD j []) = 0) → ∀ d < k, v d = 0) {g : List Byte} (hg : g.length = k) :
    (rowTimes k g (invertMatrix k M)).length = k ∧ rowTimes k (rowTimes k g (invertMatrix k M)) M = g := by
  obtain ⟨hlength, hrows⟩ := invertMatrix_spec hφ hk (fun j hj => hM _ (getD_mem (hk ▸ hj))) hkernel
  have hwide : ∀ r ∈ invertMatrix k M, r.length = k := fun r hr => by
    obtain ⟨j, hj, rfl⟩ := List.getElem_of_mem hr
    rw [← List.getD_eq_getElem _ [] hj]
    exact (hrows j (hlength ▸ hj)).1
  have hrow : (rowTimes k g (invertMatrix k M)).length = k := rowTimes_length hwide
  refine ⟨hrow, row_ext (rowTimes_length hM) hg fun d hd => hφ.injective ?_⟩
  calc φ ((rowTimes k (rowTimes k g (invertMatrix k M)) M).getD d 0)
      = ∑ i ∈ range k, φ ((rowTimes k g (invertMatrix k M)).getD i 0) * column φ M d i := by
        rw [rowTimes_entry hφ (hrow.trans hk.symm) hM hd, hk, dot]
    _ = ∑ i ∈ range k, ∑ j ∈ range k, φ (g.getD j 0) * (column φ (invertMatrix k M) i j * column φ M d i) := by
        refine sum_congr rfl fun i hi => ?_
        rw [rowTimes_entry hφ (hg.trans hlength.symm) hwide (mem_range.mp hi), hlength, dot, sum_mul]
        simp only [mul_assoc]
    _ = ∑ j ∈ range k, φ (g.getD j 0) * dot φ k (column φ M d) ((invertMatrix k M).getD j []) := by
        rw [sum_comm]
        simp only [← mul_sum]
        rfl
    _ = φ (g.getD d 0) := by
        rw [sum_eq_single_of_mem d (mem_range.mpr hd)]
        · rw [(hrows d hd).2 d hd, if_pos rfl, mul_one]
        · intro j hj hjd
          rw [(hrows j (mem_range.mp hj)).2 d hd, if_neg hjd.symm, mul_zero]

end Reading

/-- The sum of the sources' rows, each times its coefficient, is the row of coefficients times the sources' matrix. -/
theorem foldr_zipWith_eq_rowTimes (k : ℕ) (row : List Byte) (sources : List ℕ) :
    (List.zipWith (fun a s => (generatorRow k s).map (gfMul a)) row sources).foldr (List.zipWith gfAdd)
      (List.replicate k 0x00#8) = rowTimes k row (sources.map (generatorRow k)) := by
  induction row generalizing sources with
  | nil => simp [rowTimes]
  | cons c cs ih =>
    cases sources with
    | nil => simp [rowTimes]
    | cons s rest => simp only [List.zipWith_cons_cons, List.foldr_cons, ih, List.map_cons, rowTimes, addRows, scaleRow]

theorem solveTable_singleton (k : ℕ) (sources : List ℕ) (t : ℕ) : solveTable k sources [t] =
    [rowTimes k (generatorRow k t) (invertMatrix k (sources.map (generatorRow k)))] := rfl

/-- Settles O5: the sources' generator rows have no common zero, so the elimination inverts their matrix. -/
theorem everySourceSetSolves : Obligations.EverySourceSetSolves := by
  intro k _ _ sources hlength hsorted hlt t _
  obtain ⟨F, _, φ, hφ⟩ := exists_readsField
  have hk : (sources.map (generatorRow k)).length = k := by rw [List.length_map, hlength]
  have hwide : ∀ r ∈ sources.map (generatorRow k), r.length = k :=
    List.forall_mem_map.mpr fun s _ => generatorRow_length k s
  have hcard : #sources.toFinset = k := by rw [List.toFinset_card_of_nodup (hsorted.imp Nat.ne_of_lt), hlength]
  have hkernel : ∀ v : ℕ → F, (∀ j < k, dot φ k v ((sources.map (generatorRow k)).getD j []) = 0) → ∀ d < k, v d = 0 := by
    refine fun v hv => generatorRows_kernel hφ hcard (fun s hs => hlt s (List.mem_toFinset.mp hs)) fun s hs => ?_
    obtain ⟨j, hj, rfl⟩ := List.getElem_of_mem (List.mem_toFinset.mp hs)
    simpa [List.getD_eq_getElem?_getD, hj] using hv j (hlength ▸ hj)
  obtain ⟨hrow, htimes⟩ := rowTimes_invertMatrix hφ hk hwide hkernel (generatorRow_length k t)
  exact ⟨_, solveTable_singleton k sources t, hrow, (foldr_zipWith_eq_rowTimes k _ sources).trans htimes⟩

theorem addRows_zeros {k : ℕ} {r : List Byte} (h : r.length = k) : addRows r (List.replicate k 0x00#8) = r := by
  refine row_ext (by rw [addRows_length (by simp [h]), h]) h fun d hd => ?_
  rw [addRows_getD (by simp [h]), List.getD_replicate _ hd, gfAdd_zero]

/-- Settles O4: the first clause is the solve of every code at k = 2; the worked tables are evaluated. -/
theorem solvedTables : Obligations.SolvedTables := by
  refine ⟨fun s1 _ s2 hs2 hlt t ht => ?_, fun k sources targets => List.map_eq_flatMap, by decide +kernel, by decide +kernel⟩
  obtain ⟨row, hsolve, hrow, hsum⟩ := everySourceSetSolves 2 le_rfl (by decide) [s1, s2] rfl (by simpa using hlt)
    (by simp; omega) t (by omega)
  obtain ⟨a, b, rfl⟩ := List.length_eq_two.mp hrow
  refine ⟨a, b, hsolve, Eq.trans (congrArg (addRows _) ?_) hsum⟩
  exact (addRows_zeros ((scaleRow_length b _).trans (generatorRow_length 2 s2))).symm

end Sys2Proof.Machine
end

section
/-! PROOFS. Folding segments into cells (R10, R11), byte by byte and cell by cell. -/

namespace Sys2Proof.Machine

/-! ### One cell -/

/-- Two sequences of one length whose bytes agree are one. -/
theorem bytes_ext {a b : List Byte} (hlen : a.length = b.length) (h : ∀ x < a.length, byteAt a x = byteAt b x) : a = b :=
  row_ext rfl hlen.symm h

theorem byteAt_of_length_le {bytes : List Byte} {x : Nat} (h : bytes.length ≤ x) : byteAt bytes x = 0 :=
  List.getD_eq_default _ _ h

/-- A byte of a folded cell: below `d` the product is added; a byte missing from the payload reads 00 and adds nothing. -/
theorem byteAt_foldCell (c : Byte) (d : Nat) (payload : List Byte) {cell : List Byte} {x : Nat} (hx : x < cell.length) :
    byteAt (foldCell c d payload cell) x =
      if x < d then gfAdd (byteAt cell x) (gfMul c (byteAt payload x)) else byteAt cell x := by
  induction d generalizing payload cell x with
  | zero => rfl
  | succ d ih =>
    cases cell with
    | nil => simp at hx
    | cons y cell =>
      cases payload with
      | nil =>
        cases x with
        | zero => simp [foldCell, byteAt]
        | succ x => simpa [foldCell, byteAt] using ih [] (by simpa using hx)
      | cons p payload =>
        cases x with
        | zero => simp [foldCell, byteAt]
        | succ x => simpa [foldCell, byteAt] using ih payload (by simpa using hx)

theorem byteAt_take {bytes : List Byte} {d x : Nat} (h : x < d) : byteAt (bytes.take d) x = byteAt bytes x := by
  simp [byteAt, List.getD_eq_getElem?_getD, List.getElem?_take_of_lt h]

/-- Settles O6: each clause compares the bytes of both sides, where the folds are sums in the field. -/
theorem foldingSegments : Obligations.FoldingSegments := by
  refine ⟨fun c d payload cell x _ => ⟨foldCell_length c d payload cell, byteAt_foldCell c d payload⟩,
    fun c c' d p p' cell => ?_, fun c d p cell => ?_, fun c d p p' cell hp => ?_⟩
  · refine bytes_ext (by simp only [foldCell_length]) fun x hx => ?_
    simp only [foldCell_length] at hx
    simp only [byteAt_foldCell, foldCell_length, hx]
    split
    · rw [gfAdd_assoc, gfAdd_assoc, gfAdd_comm (gfMul c' _)]
    · rfl
  · refine bytes_ext (by simp only [foldCell_length]) fun x hx => ?_
    simp only [foldCell_length] at hx
    simp only [byteAt_foldCell, foldCell_length, hx]
    split
    · rw [gfAdd_assoc, gfAdd_self, gfAdd_zero]
    · rfl
  · refine bytes_ext (by simp only [foldCell_length]) fun x hx => ?_
    simp only [foldCell_length] at hx
    simp only [byteAt_foldCell, hx]
    split
    · next hxd =>
      have hbyte : byteAt p x = byteAt p' x := by rw [← byteAt_take hxd, hp, byteAt_take hxd]
      rw [hbyte]
    · rfl

/-! ### The cells of a position -/

theorem eq_zeros_of_all {bytes : List Byte} (h : bytes.all (· = 0) = true) : bytes = List.replicate bytes.length 0 := by
  simpa [List.eq_replicate_iff] using h

/-- A cell reads what was last put into it, whether or not that is listed; putting leaves every other cell alone. -/
theorem cellBytesOf_putCell (store : Table (List Byte)) (n k : Nat) {bytes : List Byte} (hl : bytes.length = Config.cellBytes) :
    cellBytesOf (putCell store n bytes) k = if k = n then bytes else cellBytesOf store k := by
  unfold putCell cellBytesOf
  split
  · next hz =>
    rw [Table.get_erase]
    split
    · rw [Option.getD_none, ← hl, ← eq_zeros_of_all hz]
    · rfl
  · rw [Table.get_set]
    split <;> rfl

theorem foldCell_cellBytes_length (c : Byte) (d : Nat) (payload : List Byte) {store : Table (List Byte)} (h : storeCanonical store)
    (n : Nat) : (foldCell c d payload (cellBytesOf store n)).length = Config.cellBytes := by
  rw [foldCell_length, cellBytesOf_length store n h]

/-- Folding into some targets' cells leaves the other cells alone. -/
theorem cellBytesOf_foldTargets_other (c : Ctx) (seg j d : Nat) (payload : List Byte) {is : List Nat} {store : Table (List Byte)}
    (h : storeCanonical store) {n : Nat} (hn : n ∉ is.map (c.cellOf seg)) :
    cellBytesOf (foldTargets c seg j d payload is store) n = cellBytesOf store n := by
  induction is generalizing store with
  | nil => rfl
  | cons i is ih =>
    obtain ⟨hni, hrest⟩ := not_or.mp fun h => hn (List.mem_cons.mpr h)
    have hlen := foldCell_cellBytes_length (c.coefficient i j) d payload h (c.cellOf seg i)
    rw [foldTargets, ih (putCell_storeCanonical _ _ _ hlen h) hrest, cellBytesOf_putCell _ _ _ hlen, if_neg hni]

/-- Folding into targets' cells, all different, folds into each once. -/
theorem cellBytesOf_foldTargets_target (c : Ctx) (seg j d : Nat) (payload : List Byte) {is : List Nat} {store : Table (List Byte)}
    (h : storeCanonical store) (hnodup : (is.map (c.cellOf seg)).Nodup) {i : Nat} (hi : i ∈ is) :
    cellBytesOf (foldTargets c seg j d payload is store) (c.cellOf seg i) =
      foldCell (c.coefficient i j) d payload (cellBytesOf store (c.cellOf seg i)) := by
  induction is generalizing store with
  | nil => cases hi
  | cons i' is ih =>
    obtain ⟨hfirst, hrest⟩ := List.nodup_cons.mp hnodup
    have hlen := foldCell_cellBytes_length (c.coefficient i' j) d payload h (c.cellOf seg i')
    have hcanonical := putCell_storeCanonical _ (c.cellOf seg i') _ hlen h
    rw [foldTargets]
    rcases List.mem_cons.mp hi with rfl | hi
    · rw [cellBytesOf_foldTargets_other c seg j d payload hcanonical hfirst, cellBytesOf_putCell _ _ _ hlen, if_pos rfl]
    · have hne : c.cellOf seg i ≠ c.cellOf seg i' := fun he => hfirst (he ▸ List.mem_map_of_mem hi)
      rw [ih hcanonical hrest hi, cellBytesOf_putCell _ _ _ hlen, if_neg hne]

/-- Settles O7: a combine runs through the position's cells, each of which it meets once. -/
theorem combineReachesEveryTarget : Obligations.CombineReachesEveryTarget :=
  fun c seg j d payload _ h hnodup =>
    ⟨fun _ hi => cellBytesOf_foldTargets_target c seg j d payload h hnodup (List.mem_range.mpr hi),
      fun _ hn => cellBytesOf_foldTargets_other c seg j d payload h hn⟩

end Sys2Proof.Machine
end

section
/-! PROOFS. Segment geometry (R13), the CRC (R14), and the trailer of a unit (R12, R16, R99). -/

namespace Sys2Proof.Machine

/-! ### Geometry -/

theorem segSizeOf_cases {code : Nat} (h : code ≤ 3) :
    segSizeOf code = 512 ∨ segSizeOf code = 1024 ∨ segSizeOf code = 2048 ∨ segSizeOf code = 4096 := by
  have hcode : code = 0 ∨ code = 1 ∨ code = 2 ∨ code = 3 := by omega
  rcases hcode with rfl | rfl | rfl | rfl <;> simp [segSizeOf]

theorem segSizeOf_pos (code : Nat) : 0 < segSizeOf code := by simp [segSizeOf]

/-- The segment count is the fragment length over S, rounded up. -/
theorem segCountOf_bounds {L S : Nat} (hL : 1 ≤ L) (hS : 0 < S) :
    L ≤ segCountOf L S * S ∧ (segCountOf L S - 1) * S < L ∧ 1 ≤ segCountOf L S := by
  have hle : (L + S - 1) / S * S ≤ L + S - 1 := Nat.div_mul_le_self _ _
  have hlt : L + S - 1 < ((L + S - 1) / S + 1) * S := Nat.lt_mul_of_div_lt (Nat.lt_succ_self _) hS
  have hpos : 1 ≤ (L + S - 1) / S := (Nat.one_le_div_iff hS).mpr (by omega)
  obtain ⟨n, hn⟩ := Nat.exists_eq_add_of_le' hpos
  simp only [segCountOf, hn, Nat.add_mul, Nat.one_mul, Nat.add_sub_cancel] at *
  omega

theorem dataLengthOf_full {L S j : Nat} (h : j + 1 < segCountOf L S) : dataLengthOf L S j = S := if_pos h

theorem dataLengthOf_last {L S j : Nat} (h : j + 1 = segCountOf L S) : dataLengthOf L S j = L - j * S := by
  rw [dataLengthOf, if_neg (by omega), ← h, Nat.add_sub_cancel]

theorem dataLengthOf_bounds {L S j : Nat} (hL : 1 ≤ L) (hS : 0 < S) (hj : j < segCountOf L S) :
    1 ≤ dataLengthOf L S j ∧ dataLengthOf L S j ≤ S := by
  obtain ⟨hup, hlow, -⟩ := segCountOf_bounds hL hS
  rcases Nat.lt_or_eq_of_le (Nat.succ_le_of_lt hj) with hfull | hlast
  · rw [dataLengthOf_full hfull]
    exact ⟨hS, le_rfl⟩
  · rw [dataLengthOf_last hlast]
    rw [← hlast, Nat.succ_eq_add_one] at hup hlow
    rw [Nat.add_sub_cancel] at hlow
    rw [Nat.add_mul, Nat.one_mul] at hup
    omega

/-- Settles O8: the count rounds up, so only the last segment can be short. -/
theorem segmentGeometry : Obligations.SegmentGeometry := by
  refine ⟨fun code L _ hL _ => ?_, by decide +kernel⟩
  have hS := segSizeOf_pos code
  obtain ⟨hup, hlow, -⟩ := segCountOf_bounds hL hS
  exact ⟨rfl, hup, hlow, fun j hj => dataLengthOf_full hj,
    fun j hj => ⟨dataLengthOf_last hj, dataLengthOf_bounds hL hS (by omega)⟩⟩

/-! ### The CRC -/

/-- A byte's eight bit steps, counted. -/
theorem crcByte_eq_foldl (r : Word32) (b : Byte) :
    crcByte r b = (List.range 8).foldl (fun q _ => crcBit q) (r ^^^ b.setWidth 32) := rfl

/-- Settles O9: the procedure's byte and bit steps are the model's, and the check values are evaluated. -/
theorem crcProcedure : Obligations.CrcProcedure :=
  ⟨fun bytes => congrArg (fun f : Word32 → Byte → Word32 => bytes.foldl f 0xFFFFFFFF#32 ^^^ 0xFFFFFFFF#32)
      (funext₂ crcByte_eq_foldl),
    by decide +kernel, by decide +kernel⟩

/-! ### Fields of a structure -/

theorem toLE_length (n v : Nat) : (toLE n v).length = n := by
  induction n generalizing v with
  | zero => rfl
  | succ n ih => simp [toLE, ih]

/-- The bytes of a number that fits read back as the number. -/
theorem ofLE_toLE {n v : Nat} (h : v < 256 ^ n) : ofLE (toLE n v) = v := by
  induction n generalizing v with
  | zero => simp [toLE, ofLE]; omega
  | succ n ih =>
    have hdiv : v / 256 < 256 ^ n := Nat.div_lt_of_lt_mul (by rwa [Nat.pow_succ, Nat.mul_comm] at h)
    rw [toLE, ofLE, ih hdiv, BitVec.toNat_ofNat]
    omega

/-- A field past the first part of a structure is read in the rest. -/
theorem fieldAt_append_of_le {a : List Byte} (b : List Byte) {off : Nat} (n : Nat) (h : a.length ≤ off) :
    fieldAt (a ++ b) off n = fieldAt b (off - a.length) n := by
  rw [fieldAt, List.drop_append, List.drop_eq_nil_of_le h, List.nil_append, fieldAt]

theorem fieldAt_toLE_append {n v : Nat} (rest : List Byte) (h : v < 256 ^ n) : fieldAt (toLE n v ++ rest) 0 n = v := by
  rw [fieldAt, List.drop_zero, List.take_left' (toLE_length n v), ofLE_toLE h]

theorem fieldAt_toLE {n v : Nat} (h : v < 256 ^ n) : fieldAt (toLE n v) 0 n = v := by
  simpa using fieldAt_toLE_append [] h

theorem fieldAt_drop (bytes : List Byte) (s off n : Nat) : fieldAt (bytes.drop s) off n = fieldAt bytes (s + off) n := by
  rw [fieldAt, List.drop_drop, fieldAt]

theorem zeroAt_append_of_le {a : List Byte} (b : List Byte) {off : Nat} (n : Nat) (h : a.length ≤ off) :
    zeroAt (a ++ b) off n = zeroAt b (off - a.length) n := by
  rw [zeroAt, List.drop_append, List.drop_eq_nil_of_le h, List.nil_append, zeroAt]

/-- The check for zero bytes; bytes past the end read 00. -/
theorem zeroAt_eq_false_iff (bytes : List Byte) (off n : Nat) :
    zeroAt bytes off n = false ↔ ∃ x, off ≤ x ∧ x < off + n ∧ byteAt bytes x ≠ 0 := by
  rw [zeroAt, List.all_eq_false]
  constructor
  · rintro ⟨b, hb, hne⟩
    obtain ⟨i, hi, rfl⟩ := List.getElem_of_mem hb
    have hbounds : i < n ∧ off + i < bytes.length := by
      rw [List.length_take, List.length_drop] at hi
      omega
    refine ⟨off + i, by omega, by omega, ?_⟩
    rw [byteAt, List.getD_eq_getElem _ _ hbounds.2]
    simpa [List.getElem_take, List.getElem_drop] using hne
  · rintro ⟨x, hoff, hn, hne⟩
    have hx : x < bytes.length := by
      by_contra hx
      exact hne (byteAt_of_length_le (by omega))
    refine ⟨bytes[x], List.mem_iff_getElem.mpr ⟨x - off, by simp; omega, ?_⟩, ?_⟩
    · simp only [List.getElem_take, List.getElem_drop, Nat.add_sub_cancel' hoff]
    · rw [byteAt, List.getD_eq_getElem _ _ hx] at hne
      simpa using hne

theorem byteAt_drop (bytes : List Byte) (s x : Nat) : byteAt (bytes.drop s) x = byteAt bytes (s + x) := by
  simp [byteAt, List.getD_eq_getElem?_getD, List.getElem?_drop]

theorem byteAt_append_left {a : List Byte} (b : List Byte) {x : Nat} (h : x < a.length) : byteAt (a ++ b) x = byteAt a x :=
  List.getD_append _ _ _ _ h

theorem byteAt_append_right {a : List Byte} (b : List Byte) {x : Nat} (h : a.length ≤ x) :
    byteAt (a ++ b) x = byteAt b (x - a.length) :=
  List.getD_append_right _ _ _ _ h

/-! ### The trailer -/

theorem trailerBytes_length (g : Geometry) (seg frag : Nat) (data : List Byte) : (trailerBytes g seg frag data).length = 32 := by
  simp [trailerBytes, toLE_length]

theorem trailerBytes_reserved (g : Geometry) (seg frag : Nat) (data : List Byte) :
    zeroAt (trailerBytes g seg frag data) 22 6 = true := by
  simp only [trailerBytes, List.append_assoc, zeroAt_append_of_le, toLE_length, Nat.reduceLeDiff, Nat.reduceSub]
  simp [zeroAt]

/-- Every field of a written trailer that fits its bytes is read back as it was written (R16). -/
theorem trailerBytes_fields (g : Geometry) {seg frag : Nat} (data : List Byte) (hseg : seg < 256 ^ 4) (hfrag : frag < 256 ^ 1)
    (hlength : g.dataLength seg < 256 ^ 2) (hk : g.k < 256 ^ 1) (hm : g.m < 256 ^ 1) (hcode : g.sizeCode < 256 ^ 1) :
    let t := trailerBytes g seg frag data
    fieldAt t 0 8 = g.stripe.toNat ∧ fieldAt t 8 4 = g.epoch.toNat ∧ fieldAt t 12 4 = seg ∧ fieldAt t 16 2 = g.dataLength seg ∧
    fieldAt t 18 1 = frag ∧ fieldAt t 19 1 = g.k ∧ fieldAt t 20 1 = g.m ∧ fieldAt t 21 1 = g.sizeCode ∧
    fieldAt t 28 4 = (crc32c data).toNat := by
  have hstripe : g.stripe.toNat < 256 ^ 8 := g.stripe.isLt
  have hepoch : g.epoch.toNat < 256 ^ 4 := g.epoch.isLt
  have hcrc : (crc32c data).toNat < 256 ^ 4 := (crc32c data).isLt
  simp only [trailerBytes, List.append_assoc]
  refine ⟨?_, ?_, ?_, ?_, ?_, ?_, ?_, ?_, ?_⟩
  all_goals
    simp only [fieldAt_append_of_le, toLE_length, List.length_replicate, Nat.reduceLeDiff, Nat.reduceSub, le_refl,
      fieldAt_toLE_append, fieldAt_toLE, hstripe, hepoch, hseg, hlength, hfrag, hk, hm, hcode, hcrc]

/-! ### A rebuilt unit -/

theorem exactBytes_eq_take {n : Nat} {bytes : List Byte} (h : n ≤ bytes.length) : exactBytes n bytes = bytes.take n := by
  simp [exactBytes, Nat.sub_eq_zero_of_le h]

theorem exactBytes_length_le {n : Nat} {bytes : List Byte} (h : n ≤ bytes.length) : (exactBytes n bytes).length = n := by
  rw [exactBytes_eq_take h, List.length_take_of_le h]

section Rebuilt

variable {g : Geometry} {seg frag : Nat} {cell : List Byte}

/-- The part of a rebuilt unit before its trailer: the data and 00 up to S (R12). -/
theorem rebuiltUnit_payload_length (hcell : g.dataLength seg ≤ cell.length) (hsize : g.dataLength seg ≤ g.segSize) :
    (exactBytes (g.dataLength seg) cell ++ List.replicate (g.segSize - g.dataLength seg) 0).length = g.segSize := by
  rw [List.length_append, exactBytes_length_le hcell, List.length_replicate, Nat.add_sub_cancel' hsize]

theorem rebuiltUnit_length (hcell : g.dataLength seg ≤ cell.length) (hsize : g.dataLength seg ≤ g.segSize) :
    (rebuiltUnit g seg frag cell).length = g.segSize + 32 := by
  rw [rebuiltUnit, List.length_append, rebuiltUnit_payload_length hcell hsize, trailerBytes_length]

theorem rebuiltUnit_drop (hcell : g.dataLength seg ≤ cell.length) (hsize : g.dataLength seg ≤ g.segSize) :
    (rebuiltUnit g seg frag cell).drop g.segSize = trailerBytes g seg frag (exactBytes (g.dataLength seg) cell) :=
  List.drop_left' (rebuiltUnit_payload_length hcell hsize)

theorem rebuiltUnit_take (hcell : g.dataLength seg ≤ cell.length) :
    (rebuiltUnit g seg frag cell).take (g.dataLength seg) = exactBytes (g.dataLength seg) cell := by
  rw [rebuiltUnit, List.append_assoc]
  exact List.take_left' (exactBytes_length_le hcell)

theorem byteAt_rebuiltUnit_data (hcell : g.dataLength seg ≤ cell.length) {x : Nat} (hx : x < g.dataLength seg) :
    byteAt (rebuiltUnit g seg frag cell) x = byteAt cell x := by
  rw [← byteAt_take hx, rebuiltUnit_take hcell, exactBytes_eq_take hcell, byteAt_take hx]

theorem byteAt_rebuiltUnit_pad (hcell : g.dataLength seg ≤ cell.length) (hsize : g.dataLength seg ≤ g.segSize) {x : Nat}
    (hx : g.dataLength seg ≤ x) (hxS : x < g.segSize) : byteAt (rebuiltUnit g seg frag cell) x = 0 := by
  rw [rebuiltUnit, byteAt_append_left _ (by rwa [rebuiltUnit_payload_length hcell hsize]),
    byteAt_append_right _ (by rwa [exactBytes_length_le hcell]), exactBytes_length_le hcell]
  exact List.getD_replicate _ (by omega)

/-- A rebuilt unit's trailer fails none of the five checks of its own stripe, epoch, fragment and segment. -/
theorem trailerRefusal_rebuiltUnit (hcell : g.dataLength seg ≤ cell.length) (hsize : g.dataLength seg ≤ g.segSize)
    (hdata : 1 ≤ g.dataLength seg) (hlength : g.dataLength seg < 256 ^ 2) (hseg : seg < 256 ^ 4) (hfrag : frag < 256 ^ 1)
    (hk : g.k < 256 ^ 1) (hm : g.m < 256 ^ 1) (hcode : g.sizeCode ≤ 3) :
    trailerRefusal g seg frag (rebuiltUnit g seg frag cell) = none := by
  obtain ⟨tstripe, tepoch, tseg, tlength, tfrag, tk, tm, tcode, tcrc⟩ :=
    trailerBytes_fields g (exactBytes (g.dataLength seg) cell) hseg hfrag hlength hk hm (by omega)
  simp only [trailerRefusal, rebuiltUnit_drop hcell hsize, rebuiltUnit_take hcell, trailerBytes_reserved, tstripe, tepoch, tseg,
    tlength, tfrag, tk, tm, tcode, tcrc]
  rw [if_neg (by simp; omega), if_neg (by simp), if_neg (by simp), if_neg (by simp), if_neg (by simp)]

end Rebuilt

/-- The must-be-zero bytes of the trailer, as offsets of the unit. -/
theorem trailer_reserved_iff (unit : List Byte) (size : Nat) :
    zeroAt (unit.drop size) 22 6 = false ↔ ∃ x, 22 ≤ x ∧ x < 28 ∧ byteAt unit (size + x) ≠ 0 := by
  simp only [zeroAt_eq_false_iff, byteAt_drop]

/-- Settles O10: the written trailer reads back field by field, and the checks are an if-chain in the manual's order. -/
theorem rebuiltUnitPassesChecks : Obligations.RebuiltUnitPassesChecks := by
  refine ⟨fun g seg frag cell hcode hL hLmax hk hm hfrag hseg hcell => ?_, ?_⟩
  · have hS : 1 ≤ g.segSize ∧ g.segSize ≤ 4096 := by
      rcases segSizeOf_cases hcode with h | h | h | h <;> simp [Geometry.segSize, h]
    obtain ⟨hdata, hsize⟩ : 1 ≤ g.dataLength seg ∧ g.dataLength seg ≤ g.segSize := dataLengthOf_bounds hL hS.1 hseg
    have hcell' : g.dataLength seg ≤ cell.length := by omega
    have hsegmax : seg < 2 ^ 28 := by
      obtain ⟨-, hlow, -⟩ := segCountOf_bounds hL hS.1
      have hle : segCountOf g.fragLength g.segSize - 1 ≤ (segCountOf g.fragLength g.segSize - 1) * g.segSize :=
        Nat.le_mul_of_pos_right _ hS.1
      have : seg < segCountOf g.fragLength g.segSize := hseg
      omega
    exact ⟨rebuiltUnit_length hcell' hsize, fun x hx => byteAt_rebuiltUnit_data hcell' hx,
      fun x hx hxS => byteAt_rebuiltUnit_pad hcell' hsize hx hxS,
      trailerRefusal_rebuiltUnit hcell' hsize hdata (by omega) (by omega) (by omega) (by omega) (by omega) hcode⟩
  · intro g seg frag unit at' malformed misplaced epoch length corrupt
    have hmalformed : (zeroAt (unit.drop g.segSize) 22 6 = false ∨ 3 < at' 21 1 ∨ at' 16 2 = 0 ∨ g.segSize < at' 16 2) ↔
        malformed := or_congr (trailer_reserved_iff unit g.segSize) Iff.rfl
    rw [← hmalformed]
    simp only [trailerRefusal, fieldAt_drop]
    exact ⟨fun h1 => if_pos h1, fun h1 h2 => (if_neg h1).trans (if_pos h2),
      fun h1 h2 h3 => (if_neg h1).trans ((if_neg h2).trans (if_pos h3)),
      fun h1 h2 h3 h4 => (if_neg h1).trans ((if_neg h2).trans ((if_neg h3).trans (if_pos h4))),
      fun h1 h2 h3 h4 h5 => (if_neg h1).trans ((if_neg h2).trans ((if_neg h3).trans ((if_neg h4).trans (if_pos h5)))),
      fun h1 h2 h3 h4 h5 => (if_neg h1).trans ((if_neg h2).trans ((if_neg h3).trans ((if_neg h4).trans (if_neg h5))))⟩

end Sys2Proof.Machine
end

section
/-! PROOFS. The state after a full reset (R194) and the invariants in it; the pair of a read that a combine can part (R145, R152). -/

namespace Sys2Proof.Machine

/-! ### A full reset -/

theorem readRegister_of_reset {s : State} (hctl : s.ctl = Control.reset) (hwalker : s.walker = Walker.reset) (r : Register) :
    s.readRegister r = 0 := by
  cases r <;> simp [State.readRegister, hctl, hwalker, Control.reset, Walker.reset, WalkerState.code, flagBit]

/-- Settles O21: the blocks after a full reset are those of the reset state, whose registers all read 0. -/
theorem fullReset : Obligations.FullReset := by
  refine ⟨fun s => ⟨rfl, ?_⟩, rfl, rfl, rfl, rfl, rfl, rfl, rfl, rfl, rfl, rfl, rfl, rfl, rfl, rfl, rfl, rfl, rfl, rfl,
    rfl, rfl, readRegister_of_reset rfl rfl⟩
  rintro t ⟨⟩
  exact ⟨readRegister_of_reset rfl rfl, rfl, rfl⟩

/-! ### The invariants in a state with no context -/

/-- With no context, no cell lent, nothing queued and no write readied, everything agrees. -/
theorem agrees_of_no_context {s : State} (hctxs : s.ctxs = Table.empty) (hfree : s.freeCells = 512) (hwait : s.cellWait = [])
    (hqueue : s.solveQueue = []) (hsolving : s.solving = none) (hready : s.ready = Table.empty) : s.agrees := by
  have hnone : ∀ {i c}, s.ctxs.get i ≠ some c := by simp [hctxs]
  have hlent : s.lentCells = [] := by simp [State.lentCells, hctxs, Table.empty]
  have hsolver : s.solverHas = [] := by simp [State.solverHas, hqueue, hsolving]
  have hreadyOf : ∀ i, s.readyOf i = [] := fun i => by simp [State.readyOf, hready]
  exact {
    listed := by rw [hctxs]; rfl
    cells := by simp [hlent, hfree]
    lent := fun _ _ h => (hnone h).elim
    window := fun _ _ h => (hnone h).elim
    waits := by simp [hwait, hctxs]
    solver := by simp [hsolver, hctxs]
    closing := fun i => by simp [hreadyOf] }

theorem stagingSound_of_no_staging {s : State} (h : s.port.staging = Table.empty) : s.stagingSound where
  sources k u hu := by simp [h] at hu
  retrying k u hu := by simp [h] at hu
  pairs k j u hu := by simp [h] at hu

/-- Settles O60: after a full reset every table is empty, and the settings and the credit stand at values in their ranges. -/
theorem invariantsAtReset : Obligations.InvariantsAtReset := by
  refine ⟨?_, ?_, ?_, ?_, agrees_of_no_context rfl rfl rfl rfl rfl rfl, stagingSound_of_no_staging rfl, ⟨rfl, ?_⟩,
    ⟨rfl, rfl, rfl⟩, ⟨Nat.zero_le _, .nil⟩, ?_⟩
  · unfold Governor.bounded; decide
  · exact fun _ _ hc => by cases hc
  · exact fun _ _ hf => by cases hf
  · exact fun _ _ hk => by cases hk
  · exact fun _ hr => by cases hr
  · unfold State.settingsInRange; decide

/-! ### A combine that parts a pair -/

/-- One slot of a stale pair whose read is on the link. -/
def stalePairSlot (seg partner : Nat) : Staging :=
  { ctx := 0, seg := seg, frag := 0, feed := 0, addr := 0, length := 544, phase := .reading, reissues := 1, stale := true,
    partner := some partner, data := [] }

/-- A stale pair on the link whose lower slot stands in the Combine Unit; COMBINE_COMPLETE is next. Neither `State.agrees` nor
`State.stagingSound` says that the slot in the Combine Unit is in COMBINING. -/
def pairInCombine : State :=
  { State.reset with
    port := { Port.reset with staging := ⟨[(0, stalePairSlot 0 1), (1, stalePairSlot 1 0)]⟩ }
    combining := some { slot := 0, judged := false }
    pending := [.combineComplete] }

/-- The state behind that combine: the lower slot is freed (R152), the upper one still names it. -/
def pairParted : State :=
  { State.reset with port := { Port.reset with staging := ⟨[(1, stalePairSlot 1 0)]⟩ } }

theorem pairInCombine_staging {k : Nat} {u : Staging} (h : pairInCombine.port.staging.get k = some u) :
    (k = 0 ∧ u = stalePairSlot 0 1) ∨ (k = 1 ∧ u = stalePairSlot 1 0) := by
  simp only [pairInCombine, Table.get, findRow] at h
  split at h
  · next hk => exact .inl ⟨hk.symm, (Option.some.inj h).symm⟩
  · split at h
    · next hk => exact .inr ⟨hk.symm, (Option.some.inj h).symm⟩
    · cases h

theorem pairInCombine_stagingSound : pairInCombine.stagingSound where
  sources k u hu hstale := by
    rcases pairInCombine_staging hu with ⟨-, rfl⟩ | ⟨-, rfl⟩ <;> cases hstale
  retrying k u hu hphase := by
    rcases pairInCombine_staging hu with ⟨-, rfl⟩ | ⟨-, rfl⟩ <;> cases hphase
  pairs k j u hu _ hj := by
    rcases pairInCombine_staging hu with ⟨rfl, rfl⟩ | ⟨rfl, rfl⟩ <;> cases hj
    · exact ⟨stalePairSlot 1 0, rfl, rfl, rfl, rfl, rfl, rfl⟩
    · exact ⟨stalePairSlot 0 1, rfl, rfl, rfl, rfl, rfl, rfl⟩

theorem pairParted_calm : Calm pairParted :=
  ⟨rfl, rfl, rfl, rfl, rfl, fun _ h => (nomatch h), fun _ => rfl, fun _ => rfl, fun _ => rfl⟩

theorem step_pairInCombine : step pairInCombine = .next pairParted := by
  show Host.Outcome.next (State.settle pairParted) = _
  rw [settle_calm _ pairParted_calm rfl]

theorem not_pairParted_stagingSound : ¬ pairParted.stagingSound := by
  intro h
  obtain ⟨v, hv, -⟩ := h.pairs 1 0 (stalePairSlot 1 0) rfl (.inl rfl) rfl
  cases hv

/-- Refutes O59, in its last clause: a combine frees whatever slot stands in the Combine Unit, and neither premise keeps one slot of a pair
that is READING from standing there; the other slot then names a partner that is gone. -/
theorem not_storeQueuesAndSettings : ¬ Obligations.StoreQueuesAndSettings := by
  rintro ⟨-, -, -, hstaging⟩
  exact not_pairParted_stagingSound (hstaging pairInCombine pairParted (agrees_of_no_context rfl rfl rfl rfl rfl rfl)
    pairInCombine_stagingSound step_pairInCombine)

end Sys2Proof.Machine
end

section
/-! PROOFS. What every command keeps of the contexts (R19, R25, R26, R33, R44, R49): composed from the frames of the operations. -/

namespace Sys2Proof.Machine

/-! ### The context an OPEN record describes -/

theorem findRow_filterMap {α : Type} (value : Nat → Option α) (keys : List Nat) (k : Nat) :
    findRow k (keys.filterMap (fun j => (value j).map (fun v => (j, v)))) = if k ∈ keys then value k else none := by
  induction keys with
  | nil => rfl
  | cons j keys ih =>
    cases hv : value j with
    | none =>
      simp only [List.filterMap_cons, hv, Option.map_none, ih, List.mem_cons]
      by_cases hkj : k = j
      · simp [hkj, hv]
      · simp [hkj]
    | some v =>
      simp only [List.filterMap_cons, hv, Option.map_some, findRow, ih, List.mem_cons]
      by_cases hkj : j = k
      · simp [← hkj, hv]
      · simp [hkj, Ne.symm hkj]

/-- The role an OPEN record lists for fragment `f`; ABSENT is not listed. -/
def listedRole (b : List Byte) (f : Nat) : Option Role := (roleOfByte (byteAt b (48 + f))).filter (· ≠ .absent)

theorem recRoles_get (b : List Byte) (f : Nat) : (recRoles b).get f = if f < 24 then listedRole b f else none := by
  have hrows : (recRoles b).rows =
      (List.range Config.fragmentCount).filterMap (fun j => (listedRole b j).map (fun r => (j, r))) := by
    refine List.filterMap_congr (fun j _ => ?_)
    unfold listedRole
    rcases roleOfByte (byteAt b (48 + j)) with _ | r
    · rfl
    · cases r <;> rfl
  rw [Table.get, hrows, findRow_filterMap]
  simp [Config.fragmentCount]

/-- The role of a fragment in the context an OPEN record fills is the one its role byte names. -/
theorem role_newContext (addr : Word64) (b : List Byte) {f : Nat} (hf : f < 24) :
    (newContext addr b).role f = (roleOfByte (byteAt b (48 + f))).getD .absent := by
  rw [Ctx.role, newContext, recRoles_get, if_pos hf, listedRole]
  rcases roleOfByte (byteAt b (48 + f)) with _ | r
  · rfl
  · cases r <;> rfl

/-- The record's role bytes count the fragments of a role. -/
theorem roleCount_eq (addr : Word64) (b : List Byte) {r : Role} (hr : r ≠ .absent) :
    roleCount b r = ((newContext addr b).fragmentsIn r).length := by
  rw [roleCount, recRoleBytes, List.countP_map, List.countP_eq_length_filter, Ctx.fragmentsIn]
  congr 1
  refine List.filter_congr (fun f hf => ?_)
  rw [role_newContext addr b (List.mem_range.mp hf), Function.comp_apply]
  rcases roleOfByte (byteAt b (48 + f)) with _ | q
  · simpa using hr.symm
  · rfl

theorem newContext_exposed (addr : Word64) (b : List Byte) : (newContext addr b).exposed = (newContext addr b).noSpare := by
  show (roleCount b .spare == 0) = _
  rw [roleCount_eq addr b (by decide), Ctx.noSpare]
  cases (newContext addr b).fragmentsIn .spare <;> rfl

theorem counters_zero_inRange : Counters.zero.inRange := by unfold Counters.inRange; decide

theorem newContext_sound (addr : Word64) {b : List Byte} (h : openBodyValid b = true) : (newContext addr b).sound := by
  refine ⟨?_, newContext_exposed addr b, rfl, counters_zero_inRange⟩
  simp only [openBodyValid, Bool.and_eq_true, decide_eq_true_eq] at h
  exact h.1.1.1.1.1.1.1.1.2

/-- An OPEN that passes its checks finds its slot FREE and its body valid (R21). -/
theorem openRefusal_none {s : State} {b : List Byte} (h : s.openRefusal b = none) :
    s.ctxs.get (recContext b) = none ∧ openBodyValid b = true := by
  unfold State.openRefusal at h
  split at h
  · cases h
  · split at h
    · cases h
    · next hslot =>
      split at h
      · cases h
      · split at h
        · cases h
        · next hbody => exact ⟨by simpa using hslot, by simpa using hbody⟩

/-! ### How contexts evolve -/

/-- What a command does to the contexts: one that is in a slot afterwards was there and is kept, or was filled into a FREE slot and is sound; a
slot that holds its context goes on holding it, but for those in `closed`. -/
structure Evolves (closed : Nat → Prop) (s t : State) : Prop where
  ctxs : ∀ i c', t.ctxs.get i = some c' →
    (∃ c, s.ctxs.get i = some c ∧ CtxKept RoleMove c c') ∨ (s.ctxs.get i = none ∧ c'.sound)
  stays : ∀ i, ¬ closed i → s.holds i → t.holds i

variable {closed : Nat → Prop} {s t u : State}

theorem Frame.evolves (h : Frame RoleMove s t) : Evolves closed s t :=
  ⟨fun i c' hc => .inl (h.ctxs i c' hc), fun i _ => h.stays i⟩

theorem Evolves.of_eq (hctxs : t.ctxs = s.ctxs) (hready : t.ready = s.ready) : Evolves closed s t where
  ctxs _ c' hc := .inl ⟨c', hctxs ▸ hc, CtxKept.refl roleMove_rel c'⟩
  stays _ _ h := holds_of h (fun hc => hctxs ▸ hc) hready

theorem Evolves.then_frame (h1 : Evolves closed s t) (h2 : Frame RoleMove t u) : Evolves closed s u where
  ctxs i _ hc := by
    obtain ⟨c', hc', k2⟩ := h2.ctxs i _ hc
    rcases h1.ctxs i c' hc' with ⟨c, hc, k1⟩ | ⟨hnone, hsound⟩
    · exact .inl ⟨c, hc, k1.trans roleMove_rel k2⟩
    · exact .inr ⟨hnone, k2.sound hsound⟩
  stays i hi h := h2.stays i (h1.stays i hi h)

/-- A step that leaves the contexts and the readied writes alone may come first. -/
theorem Evolves.after_eq (h : Evolves closed t u) (hctxs : t.ctxs = s.ctxs) (hready : t.ready = s.ready) : Evolves closed s u where
  ctxs i c' hc := hctxs ▸ h.ctxs i c' hc
  stays i hi hs := h.stays i hi (holds_of hs (fun hc => hctxs ▸ hc) hready)

theorem Frame.evolves_after (h : Frame RoleMove t u) (hctxs : t.ctxs = s.ctxs) (hready : t.ready = s.ready) :
    Evolves closed s u := h.evolves.after_eq hctxs hready

theorem Evolves.sound (h : Evolves closed s t) (hs : s.contextsSound) : t.contextsSound := by
  intro i c' hc
  rcases h.ctxs i c' hc with ⟨c, hc, k⟩ | ⟨-, hsound⟩
  · exact k.sound (hs i c hc)
  · exact hsound

theorem Evolves.kept (h : Evolves closed s t) {i : Nat} {c c' : Ctx} (hc : s.ctxs.get i = some c)
    (hc' : t.ctxs.get i = some c') : CtxKept RoleMove c c' := by
  rcases h.ctxs i c' hc' with ⟨d, hd, k⟩ | ⟨hnone, -⟩
  · cases hc.symm.trans hd; exact k
  · cases hc.symm.trans hnone

/-! ### Records -/

/-- A context filled into a FREE slot. -/
theorem fill_evolves {i : Nat} {c : Ctx} (hfree : s.ctxs.get i = none) (hsound : c.sound) :
    Evolves closed s { s with ctxs := s.ctxs.set i c } where
  ctxs j c' hc := by
    rw [Table.get_set] at hc
    split at hc
    · next hj => cases hc; exact .inr ⟨hj ▸ hfree, hsound⟩
    · exact .inl ⟨c', hc, CtxKept.refl roleMove_rel c'⟩
  stays j _ h := holds_of h (fun hj => by rw [Table.get_set]; split <;> simp_all) rfl

theorem dispatchOpen_evolves (b : List Byte) : Evolves closed s (s.dispatchOpen b) := by
  unfold State.dispatchOpen
  split
  · exact (refuseRecord_frame roleMove_rel s _).evolves
  · next hopen =>
    obtain ⟨hfree, hbody⟩ := openRefusal_none hopen
    extract_lets s1
    have hfill : Evolves closed s1 { s1 with ctxs := s1.ctxs.set (recContext b) (newContext s.walker.next b) } :=
      fill_evolves hfree (newContext_sound _ hbody)
    exact Evolves.then_frame (s := s) (hfill.after_eq rfl rfl) (placeContext_frame roleMove_rel _ _)

theorem dispatchRegion_evolves (b : List Byte) : Evolves closed s (s.dispatchRegion b) := by
  unfold State.dispatchRegion
  split <;> exact .of_eq rfl rfl

theorem dispatchLevel_evolves (b : List Byte) : Evolves closed s (s.dispatchLevel b) := by
  unfold State.dispatchLevel
  split <;> exact .of_eq rfl rfl

theorem dispatch_evolves : Evolves closed s s.dispatch := by
  unfold State.dispatch
  extract_lets b
  split
  · exact dispatchOpen_evolves b
  · exact (dispatchFeed_frame roleMove_rel s b).evolves
  · exact (dispatchSink_frame roleMove_rel s b).evolves
  · exact (dispatchDrop_frame roleMove_rel roleMove_allows s b).evolves
  · exact (dispatchAbort_frame roleMove_rel s b).evolves
  · exact dispatchRegion_evolves b
  · exact .of_eq rfl rfl
  · exact dispatchLevel_evolves b
  · exact (refuseRecord_frame roleMove_rel s _).evolves

theorem checkRecord_evolves : Evolves closed s s.checkRecord := by
  unfold State.checkRecord
  extract_lets b
  split
  · exact (fault_frame roleMove_rel s _ _).evolves
  · split
    · exact (refuseRecord_frame roleMove_rel s _).evolves
    · split
      · exact (refuseRecord_frame roleMove_rel s _).evolves
      · exact dispatch_evolves

theorem firstHalfArrived_evolves (bytes : List Byte) : Evolves closed s (s.firstHalfArrived bytes) := by
  unfold State.firstHalfArrived
  extract_lets _ s1
  split
  · split
    · exact .of_eq rfl rfl
    · exact (fault_frame roleMove_rel s1 _ _).evolves_after rfl rfl
  · exact (checkRecord_evolves (s := s1)).after_eq rfl rfl

theorem recordArrived_evolves (bytes : List Byte) : Evolves closed s (s.recordArrived bytes) := by
  unfold State.recordArrived
  split
  · split
    · exact (discardFetch_frame roleMove_rel s).evolves
    · exact (firstHalfArrived_evolves bytes).then_frame (settle_frame roleMove_rel _)
  · exact .of_eq rfl rfl

theorem openTailArrived_evolves (bytes : List Byte) : Evolves closed s (s.openTailArrived bytes) := by
  unfold State.openTailArrived
  split
  · exact (discardFetch_frame roleMove_rel s).evolves
  · have harrived : Evolves closed s (s.secondHalfArrived bytes) :=
      Evolves.after_eq (t := State.clearFetch { s with walker := { s.walker with buffer := s.walker.buffer ++ bytes } })
        checkRecord_evolves rfl rfl
    exact harrived.then_frame (settle_frame roleMove_rel _)

theorem execOpenRecord_evolves (bytes : List Byte) (h : execOpenRecord bytes s = .next t) : Evolves closed s t := by
  cases h
  split
  · exact openTailArrived_evolves _
  · exact recordArrived_evolves _

/-! ### Registers and time -/

theorem applyRun_evolves (v : Word64) : Evolves closed s (s.applyRun v) := by
  unfold State.applyRun
  split
  · exact .of_eq rfl rfl
  · split
    · extract_lets _ s1
      split
      · exact (start_frame roleMove_rel s1).evolves_after rfl rfl
      · exact .of_eq rfl rfl
    · exact (stop_frame roleMove_rel _).evolves_after rfl rfl

theorem applyAttn_evolves (v : Word64) : Evolves closed s (s.applyAttn v) := .of_eq rfl rfl

/-- A write of ENG_CTRL that starts no soft reset (R186, R193). -/
theorem writeEngCtrl_evolves {v : Word64} (h : s.ctl.resetting = true ∨ v.getLsbD 1 = false) :
    Evolves closed s (s.writeEngCtrl v) := by
  have hoffer : ∀ {t : State}, Evolves closed s t → Evolves closed s (t.offer .control) :=
    fun ht => ht.then_frame (offer_frame roleMove_rel _ _)
  unfold State.writeEngCtrl
  split
  · exact hoffer (applyAttn_evolves v)
  · next hres =>
    rw [if_neg (by simp_all)]
    have hrun : Evolves closed s (s.applyRun v) := applyRun_evolves v
    split
    · extract_lets t1
      split
      · exact hoffer ((applyRun_evolves (s := t1.applyAttn v) v).after_eq rfl rfl)
      · have hrun : Evolves closed s (t1.applyRun v) := (applyRun_evolves (s := t1) v).after_eq rfl rfl
        exact hoffer ⟨hrun.ctxs, hrun.stays⟩
    · exact hoffer ⟨hrun.ctxs, hrun.stays⟩

theorem tickTimer_kept (level : Nat) (c : Ctx) : CtxKept RoleMove c (c.tickTimer level) := by
  unfold Ctx.tickTimer
  split
  · exact CtxKept.of_eq roleMove_rel rfl rfl rfl rfl rfl rfl
  · exact CtxKept.refl roleMove_rel c

theorem oweStale_frame (is : List Nat) (s : State) : Frame RoleMove s (State.oweStale is s) := by
  induction is generalizing s with
  | nil => exact Frame.refl roleMove_rel s
  | cons i is ih =>
    refine Frame.trans roleMove_rel ?_ (ih _)
    split
    · split
      · exact oweProgress_frame roleMove_rel s i
      · exact Frame.refl roleMove_rel s
    · exact Frame.refl roleMove_rel s

theorem oweStaleReport_frame (s : State) : Frame RoleMove s s.oweStaleReport := by
  unfold State.oweStaleReport
  split
  · exact Frame.refl roleMove_rel s
  · exact oweReport_frame roleMove_rel s

theorem tick_evolves : Evolves closed s s.tick := by
  unfold State.tick
  extract_lets s1
  have hticked : Evolves closed s s1 := by
    refine ⟨fun i c' hc => ?_, fun i _ h => holds_of h (fun hi => ?_) rfl⟩
    · simp only [s1, Table.get_mapValues, Option.map_eq_some_iff] at hc
      obtain ⟨c, hc, rfl⟩ := hc
      exact .inl ⟨c, hc, tickTimer_kept _ c⟩
    · simpa [s1] using hi
  exact (hticked.then_frame (oweStale_frame _ _)).then_frame (oweStaleReport_frame _)

/-! ### The engine's own completions -/

theorem reportCombine_frame (s : State) (w : Combining) : Frame RoleMove s (s.reportCombine w) := by
  unfold State.reportCombine
  split
  · exact Frame.refl roleMove_rel s
  · split
    · exact judge_frame roleMove_rel s _ ⟨roleMove_allows.failSource, roleMove_allows.promote⟩
    · exact discard_frame roleMove_rel s _ _ _

theorem releaseEvents_frame (hs : List Held) (s : State) : Frame RoleMove s (State.releaseEvents hs s) := by
  induction hs generalizing s with
  | nil => exact Frame.refl roleMove_rel s
  | cons h hs ih =>
    cases h with
    | dispatch => exact (dispatchHeld_frame roleMove_rel roleMove_allows s).trans roleMove_rel (ih _)
    | swap i => exact (takeSwap_frame roleMove_rel s i ⟨roleMove_allows.demote, roleMove_allows.promote⟩).trans roleMove_rel (ih _)
    | timeOut i => exact (takeTimeOut_frame roleMove_rel s i).trans roleMove_rel (ih _)

theorem finishCombine_frame (s : State) (w : Combining) : Frame RoleMove s (s.finishCombine w) := by
  unfold State.finishCombine
  extract_lets s1
  have hfreed : Frame RoleMove s s1 := (reportCombine_frame s w).trans roleMove_rel (freeStaging_frame roleMove_rel _ _)
  exact (hfreed.trans roleMove_rel (Frame.same roleMove_rel)).trans roleMove_rel (releaseEvents_frame _ _)

theorem finishEmit_frame (s : State) (e : Emit) : Frame RoleMove s (s.finishEmit e) := by
  unfold State.finishEmit
  extract_lets s1
  refine Frame.trans roleMove_rel ?_ (examineBase_frame roleMove_rel _ _)
  refine Frame.trans roleMove_rel (t := s1) (Frame.same roleMove_rel) (Frame.modCtx roleMove_rel s1 _ _ (fun c _ => ?_))
  split
  · exact CtxKept.of_eq roleMove_rel rfl rfl rfl rfl rfl rfl
  · exact CtxKept.refl roleMove_rel c

theorem finishSolve_frame (s : State) (j : Solve) : Frame RoleMove s (s.finishSolve j) := by
  unfold State.finishSolve
  extract_lets s1
  have hidle : Frame RoleMove s s1 := Frame.same roleMove_rel
  split
  · exact hidle
  · next c hc =>
    split
    · refine (hidle.trans roleMove_rel ?_).trans roleMove_rel (oweProgress_frame roleMove_rel _ _)
      exact Frame.setCtx roleMove_rel hc (CtxKept.of_eq roleMove_rel rfl rfl rfl rfl rfl rfl)
    · exact hidle

theorem teardownFeeds_frame (c : Ctx) (es : List Nat) (s : State) : Frame RoleMove s (State.teardownFeeds c es s) := by
  induction es generalizing s with
  | nil => exact Frame.refl roleMove_rel s
  | cons e es ih =>
    refine Frame.trans roleMove_rel ?_ (ih _)
    split
    · exact Frame.refl roleMove_rel s
    · exact finaliseFeed_frame roleMove_rel s e _

theorem teardownSinks_frame (c : Ctx) (es : List Nat) (s : State) : Frame RoleMove s (State.teardownSinks c es s) := by
  induction es generalizing s with
  | nil => exact Frame.refl roleMove_rel s
  | cons e es ih =>
    refine Frame.trans roleMove_rel ?_ (ih _)
    split
    · exact Frame.refl roleMove_rel s
    · exact finaliseSink_frame roleMove_rel s e _

theorem finaliseContext_frame (s : State) (i : Nat) (c : Ctx) : Frame RoleMove s (s.finaliseContext i c) :=
  ((teardownFeeds_frame c _ s).trans roleMove_rel (teardownSinks_frame c _ _)).trans roleMove_rel
    (Frame.modCtx roleMove_rel _ i _ (fun _ _ => CtxKept.of_eq roleMove_rel rfl rfl rfl rfl rfl rfl))

theorem returnCells_frame {i : Nat} {c : Ctx} (hc : s.ctxs.get i = some c) : Frame RoleMove s (s.returnCells i c) := by
  refine Frame.trans roleMove_rel ?_ (serveCellWait_frame roleMove_rel _)
  refine (Frame.setCtx roleMove_rel hc (c' := { c with cells := [], teardown := .closing })
    (CtxKept.of_eq roleMove_rel rfl rfl rfl rfl rfl rfl)).trans roleMove_rel (Frame.same roleMove_rel)

/-- Readying the OPEN's DONE of slot `i` touches no context, and no other slot's writes (R43). -/
theorem closeContext_evolves (i : Nat) (c : Ctx) : Evolves (· = i) s (s.closeContext i c) := by
  have howe := oweProgress_frame roleMove_rel s i
  refine ⟨fun j c' hc => .inl (howe.ctxs j c' hc), fun j hj h => ?_⟩
  have hh := howe.stays j h
  refine ⟨hh.1, ?_⟩
  rw [State.closeContext, readyOf_setReady, if_neg hj]
  exact hh.2

theorem Evolves.after_frame {s t u : State} (h1 : Frame RoleMove s t) (h2 : Evolves closed t u)
    (hsame : ∀ i c, u.ctxs.get i = some c → t.ctxs.get i = some c) : Evolves closed s u :=
  ⟨fun i c hc => .inl (h1.ctxs i c (hsame i c hc)), fun i hi h => h2.stays i hi (h1.stays i h)⟩

theorem execTeardownResume_evolves (n : Fin 64) (h : execTeardownResume n s = .next t) : Evolves (· = n.val) s t := by
  cases h
  split
  · exact .of_eq rfl rfl
  · next c hc =>
    split
    · refine Evolves.then_frame ?_ (settle_frame roleMove_rel _)
      refine Evolves.after_frame ((returnCells_frame hc).trans roleMove_rel (settle_frame roleMove_rel _))
        (closeContext_evolves _ c) (fun i c' hc' => ?_)
      rwa [State.closeContext, setReady_ctxs, oweProgress_ctxs] at hc'
    · exact .of_eq rfl rfl

/-! ### Issue -/

theorem issueOne_evolves : Evolves closed s s.issueOne := by
  unfold State.issueOne
  split
  · exact .of_eq rfl rfl
  · split
    · exact (issueFetch_frame roleMove_rel s _).evolves
    · split
      · next w rest hq =>
        exact (((popWrite_frame roleMove_rel s w rest hq).trans roleMove_rel (issueWrite_frame roleMove_rel _ w)).trans
          roleMove_rel (offer_frame roleMove_rel _ _)).evolves
      · split
        · exact (reissue_frame roleMove_rel _ _).evolves_after rfl rfl
        · obtain ⟨g, hg, -⟩ := grant_frame roleMove_rel s
          exact hg.evolves_after rfl rfl

/-! ### Every command -/

/-- A command that ends one event with another frame, or is not due. -/
theorem Evolves.ite_settle {c : Prop} [Decidable c] (h : Frame RoleMove s u) :
    Evolves closed s (if c then u.settle else s) := by
  split
  · exact (h.trans roleMove_rel (settle_frame roleMove_rel u)).evolves
  · exact .of_eq rfl rfl

theorem Evolves.ite_eq {c : Prop} [Decidable c] (hctxs : t.ctxs = s.ctxs) (hready : t.ready = s.ready) :
    Evolves closed s (if c then t else s) := by
  split
  · exact .of_eq hctxs hready
  · exact .of_eq rfl rfl

/-- The slot that a command may free besides those whose OPEN's DONE was readied: that of a TEARDOWN_RESUME (R44). -/
def Instr.closes (c : Instr) (i : Nat) : Prop := ∃ n : Fin 64, c = .teardownResume n ∧ i = n.val

/-- Every command but a reset. -/
theorem exec_evolves {c : Instr} (hreset : ¬ s.resetsBy c) (h : exec c s = .next t) : Evolves (Instr.closes c) s t := by
  have hctrl : ∀ v, engCtrlValue c = some v → Evolves (Instr.closes c) s (s.writeEngCtrl v) := fun v hv =>
    writeEngCtrl_evolves (by
      by_contra hno
      rw [not_or] at hno
      exact hreset (.inr ⟨v, hv, by simpa using hno.2, by simpa using hno.1⟩))
  cases c with
  | openRecord bytes => exact execOpenRecord_evolves bytes h
  | feed bytes => cases h; exact recordArrived_evolves _
  | sink bytes => cases h; exact recordArrived_evolves _
  | drop bytes => cases h; exact recordArrived_evolves _
  | abort bytes => cases h; exact recordArrived_evolves _
  | region bytes => cases h; exact recordArrived_evolves _
  | tune bytes => cases h; exact recordArrived_evolves _
  | level bytes => cases h; exact recordArrived_evolves _
  | badKind bytes => cases h; exact recordArrived_evolves _
  | recordFetchError => cases h; exact (fetchErred_frame roleMove_rel s).evolves
  | fetchDiscard =>
    cases h
    split
    · exact (discardFetch_frame roleMove_rel s).evolves
    · exact .of_eq rfl rfl
  | walkerWriteIssued =>
    cases h
    split
    · exact ((followLink_frame roleMove_rel s).trans roleMove_rel (offer_frame roleMove_rel _ _)).evolves
    · exact .of_eq rfl rfl
  | linkWordRead link => cases h; exact (linkRead_frame roleMove_rel s link).evolves
  | pollTimer => cases h; exact .ite_eq rfl rfl
  | chnCheck value => cases h; exact (check_frame roleMove_rel s).evolves
  | chnHead value => cases h; split <;> exact .of_eq rfl rfl
  | registerWrite reg value => cases h; cases reg <;> (split <;> exact .of_eq rfl rfl)
  | runSet value => cases h; exact hctrl value rfl
  | runClear value => cases h; exact hctrl value rfl
  | heldStart =>
    cases h
    split
    · exact ((start_frame roleMove_rel s).trans roleMove_rel (offer_frame roleMove_rel _ _)).evolves
    · exact .of_eq rfl rfl
  | attnEnable value => cases h; exact hctrl value rfl
  | clearAttention value => cases h; exact .ite_eq rfl rfl
  | softReset value => cases h; exact hctrl value rfl
  | fullReset => exact (hreset (.inl rfl)).elim
  | outstandingReturn => cases h; exact .ite_eq rfl rfl
  | tick => cases h; exact tick_evolves.then_frame (offerReady_frame roleMove_rel _)
  | stallExpiry slot =>
    cases h
    split
    · exact .of_eq rfl rfl
    · exact .ite_settle (takeExpiry_frame roleMove_rel s _ _ ⟨roleMove_allows.demote, roleMove_allows.promote⟩)
  | tableFull =>
    cases h
    split
    · exact ((refuseRecord_frame roleMove_rel s _).trans roleMove_rel (offer_frame roleMove_rel _ _)).evolves
    · exact .of_eq rfl rfl
  | blockedRecheck =>
    cases h
    split
    · exact ((recheck_frame roleMove_rel _).trans roleMove_rel (settle_frame roleMove_rel _)).evolves_after rfl rfl
    · exact .of_eq rfl rfl
  | issueOpportunity => cases h; exact issueOne_evolves
  | claimLineServe => cases h; exact (serveClaims_frame roleMove_rel s).evolves
  | sourceReadComplete slot data => cases h; exact .ite_settle (readArrived_frame roleMove_rel s _ _)
  | sourceReadError slot => cases h; exact .ite_settle (readErred_frame roleMove_rel s _)
  | combineComplete =>
    cases h
    split
    · exact .of_eq rfl rfl
    · exact ((finishCombine_frame s _).trans roleMove_rel (settle_frame roleMove_rel _)).evolves
  | emitComplete =>
    cases h
    split
    · exact .of_eq rfl rfl
    · exact .ite_settle (finishEmit_frame s _)
  | solveComplete =>
    cases h
    split
    · exact .of_eq rfl rfl
    · exact ((finishSolve_frame s _).trans roleMove_rel (settle_frame roleMove_rel _)).evolves
  | drained slot =>
    cases h
    split
    · exact .of_eq rfl rfl
    · exact .ite_settle (finaliseContext_frame s _ _)
  | teardownResume slot =>
    have hresume := execTeardownResume_evolves slot h
    exact ⟨hresume.ctxs, fun i hi => hresume.stays i (fun he => hi ⟨slot, rfl, he⟩)⟩

/-- The four commands that write ENG_CTRL have one meaning (R186). -/
theorem exec_engCtrl {c : Instr} {v : Word64} (hv : engCtrlValue c = some v) (s : State) : exec c s = .next (s.writeEngCtrl v) := by
  cases c with
  | runSet w => cases hv; rfl
  | runClear w => cases hv; rfl
  | attnEnable w => cases hv; rfl
  | softReset w => cases hv; rfl
  | _ => cases hv

/-- A reset leaves no context (R193, R194). -/
theorem exec_reset {c : Instr} (hreset : s.resetsBy c) (h : exec c s = .next t) : t.ctxs = Table.empty := by
  rcases hreset with rfl | ⟨v, hv, hbit, hres⟩
  · cases h; rfl
  · have hsoft : s.writeEngCtrl v = s.softReset := by simp [State.writeEngCtrl, hbit, hres]
    rw [exec_engCtrl hv, hsoft] at h
    cases h
    rfl

/-- Settles O56, from what each command keeps of the contexts. -/
theorem contextsKeep : Obligations.ContextsKeep := by
  intro s t hreset hstep
  unfold step at hstep
  split at hstep
  · cases hstep
    exact ⟨fun i c c' hc hc' => by cases hc.symm.trans hc'; exact CtxKept.refl roleMove_rel c, fun i h _ => h⟩
  · next cmd rest hp =>
    have hev := exec_evolves (s := { s with pending := rest }) (hreset cmd rest hp) hstep
    refine ⟨fun i c c' hc hc' => hev.kept hc hc', fun i h hfront => hev.stays i ?_ h⟩
    rintro ⟨n, rfl, hi⟩
    exact hfront n (by rw [hp]; rfl) hi.symm

/-- Settles O57: a context is kept by every command but a reset, which leaves none. -/
theorem soundContexts : Obligations.SoundContexts := by
  intro s t hs hstep
  unfold step at hstep
  split at hstep
  · cases hstep; exact hs
  · next cmd rest hp =>
    by_cases hreset : State.resetsBy { s with pending := rest } cmd
    · intro i c hc
      rw [exec_reset hreset hstep, Table.get_empty] at hc
      cases hc
    · exact (exec_evolves hreset hstep).sound hs

end Sys2Proof.Machine
end

section
/-! PROOFS. Records refused, the checks of an OPEN (R21, R22, R39, R106), outcomes of feed and sink segments (R86 to R91), and a finished solve. -/

namespace Sys2Proof.Machine

/-! ### DROP and ABORT refused -/

theorem namedContext_eq_some {s : State} {b : List Byte} {c : Ctx} (hc : s.ctxs.get (recContext b) = some c)
    (hstripe : c.geo.stripe = recStripe b) : s.namedContext b = some c := by
  simp only [State.namedContext, hc, hstripe, if_true]

theorem namedContext_eq_none {s : State} {b : List Byte}
    (h : ∀ c, s.ctxs.get (recContext b) = some c → c.geo.stripe ≠ recStripe b) : s.namedContext b = none := by
  unfold State.namedContext
  split
  · next c hc => exact if_neg (h c hc)
  · rfl

theorem checkDrop_of_dropReason {s : State} {b : List Byte} {r : Reason} (h : s.dropReason b = some r) :
    s.checkDrop b = .refuse r := by
  unfold State.dropReason at h
  unfold State.checkDrop
  split at h
  · next hfield => cases h; exact if_pos hfield
  · next hfield =>
    refine (if_neg (c := Config.slotCount ≤ recContext b ∨ Config.fragmentCount ≤ recFragment b) hfield).trans ?_
    split at h
    · next hnone => cases h; rw [namedContext_eq_none (by simp [hnone])]
    · next c hc =>
      split at h
      · next hstripe => cases h; rw [namedContext_eq_none (by simpa [hc] using hstripe)]
      · next hstripe =>
        rw [namedContext_eq_some hc (by simpa using hstripe)]
        split at h
        · next hd => cases h; exact if_pos hd
        · next hd =>
          refine (if_neg hd).trans ?_
          split at h
          · next hrole => cases h; exact if_pos hrole
          · cases h

theorem checkAbort_of_abortReason {s : State} {b : List Byte} {r : Reason} (h : s.abortReason b = some r) :
    s.checkAbort b = .refuse r := by
  unfold State.abortReason at h
  unfold State.checkAbort
  split at h
  · next hfield => cases h; exact if_pos hfield
  · next hfield =>
    refine (if_neg (c := Config.slotCount ≤ recContext b) hfield).trans ?_
    split at h
    · next hnone => cases h; rw [namedContext_eq_none (by simp [hnone])]
    · next c hc =>
      split at h
      · next hstripe => cases h; rw [namedContext_eq_none (by simpa [hc] using hstripe)]
      · next hstripe =>
        rw [namedContext_eq_some hc (by simpa using hstripe)]
        split at h
        · next hd => cases h; exact if_pos hd
        · cases h

/-- A posted record of kind 4 is a DROP to its owner. -/
theorem dispatch_drop {s : State} (h : recKind s.walker.buffer = 4) : s.dispatch = s.dispatchDrop s.walker.buffer := by
  simp only [State.dispatch, h]

theorem dispatch_abort {s : State} (h : recKind s.walker.buffer = 5) : s.dispatch = s.dispatchAbort s.walker.buffer := by
  simp only [State.dispatch, h]

theorem dispatch_open {s : State} (h : recKind s.walker.buffer = 1) : s.dispatch = s.dispatchOpen s.walker.buffer := by
  simp only [State.dispatch, h]

/-- A posted DROP record arrives: its owner checks it, and the event is settled. -/
theorem exec_drop_posted {s : State} {b : List Byte} (ha : s.awaitsRecord = true) (hp : postedRecord 4 b = true) :
    exec (.drop b) s = .next ((s.fetched b).dispatchDrop b).settle := by
  show Host.Outcome.next (s.recordArrived (withKind 4 b)) = _
  rw [recordArrived_posted s b 4 ha hp (by omega) (by omega), dispatch_drop (recKind_posted 4 b hp)]
  rfl

theorem exec_abort_posted {s : State} {b : List Byte} (ha : s.awaitsRecord = true) (hp : postedRecord 5 b = true) :
    exec (.abort b) s = .next ((s.fetched b).dispatchAbort b).settle := by
  show Host.Outcome.next (s.recordArrived (withKind 5 b)) = _
  rw [recordArrived_posted s b 5 ha hp (by omega) (by omega), dispatch_abort (recKind_posted 5 b hp)]
  rfl

/-- Settles O39: the owner's check is the first reason of the record, and a refusal is all that follows. -/
theorem dropAndAbortRefused : Obligations.DropAndAbortRefused := by
  intro s b ha hr r
  refine ⟨fun hp h => ?_, fun hp h => ?_⟩
  · have hd : (s.fetched b).dispatchDrop b = (s.fetched b).refuseRecord r := by
      rw [State.dispatchDrop, checkDrop_of_dropReason (s := s.fetched b) h]
    rw [exec_drop_posted ha hp, hd, settle_refuse s b hr]
  · have hd : (s.fetched b).dispatchAbort b = (s.fetched b).refuseRecord r := by
      rw [State.dispatchAbort, checkAbort_of_abortReason (s := s.fetched b) h]
    rw [exec_abort_posted ha hp, hd, settle_refuse s b hr]

/-! ### OPEN checked -/

theorem fetchOut_unique {s : State} {k k' : FetchKind} (h : s.fetchOut k = true) (hne : k ≠ k') : s.fetchOut k' = false := by
  unfold State.fetchOut at *
  split at h
  · next p hp =>
    simp only [Bool.and_eq_true, beq_iff_eq] at h
    simp [h.2, hne]
  · cases h

theorem atRest_mono {s : State} {m n : Nat} (h : s.atRest n = true) (hmn : m ≤ n) : s.atRest m = true := by
  rw [State.atRest_iff] at *
  exact ⟨h.1, h.2.1, by omega⟩

/-- An OPEN record's first 64 bytes arrive. -/
theorem exec_openRecord_first {s : State} {b : List Byte} (ha : s.awaitsRecord = true) (hb : recordBytes 1 b = true) :
    exec (.openRecord b) s = .next (s.firstHalfArrived b).settle := by
  have hfirst : s.fetchOut .firstHalf = true := by
    simp only [State.awaitsRecord, Bool.and_eq_true] at ha; exact ha.1.1.2
  show Host.Outcome.next (if s.fetchOut .secondHalf then _ else _) = _
  rw [if_neg (by simp [fetchOut_unique hfirst]), withKind_recordBytes 1 b hb, (recordArrived_awaits s b ha).1]

/-- An OPEN record's second 64 bytes arrive: the whole record is checked. -/
theorem exec_openRecord_second {s : State} {half : List Byte} (ha : s.awaitsTail = true) (hl : half.length = 64) :
    exec (.openRecord half) s = .next ((s.fetched (s.walker.buffer ++ half)).checkRecord).settle := by
  simp only [State.awaitsTail, Bool.and_eq_true, Bool.not_eq_true'] at ha
  obtain ⟨⟨⟨⟨-, hout⟩, hstale⟩, -⟩, -⟩ := ha
  show Host.Outcome.next (if s.fetchOut .secondHalf then _ else _) = _
  rw [if_pos hout, exactBytes_length half 64 hl, State.openTailArrived, if_neg (by simp [hstale])]
  rfl

/-- The kind byte stands in the first 64 bytes of an OPEN record. -/
theorem recKind_tail {s : State} {half : List Byte} (ha : s.awaitsTail = true) : recKind (s.walker.buffer ++ half) = 1 := by
  simp only [State.awaitsTail, Bool.and_eq_true] at ha
  have hbytes := ha.2
  have hlen : s.walker.buffer.length = 64 := by
    simp only [recordBytes, Bool.and_eq_true, beq_iff_eq] at hbytes; exact hbytes.1
  have hkind := recKind_recordBytes 1 _ hbytes
  have hdrop : (s.walker.buffer ++ half).drop 8 = s.walker.buffer.drop 8 ++ half := List.drop_append_of_le_length (by omega)
  rw [recKind, fieldAt, hdrop, List.take_append_of_le_length (by simp; omega)]
  exact hkind

theorem bodyClean_open (b : List Byte) : bodyClean 1 b = true := rfl

/-- The checks of an OPEN record that is known to be POSTED (R21, R171). -/
theorem checkRecord_open {s : State} (hkind : recKind s.walker.buffer = 1) (hd : recDisposition s.walker.buffer = 0) :
    s.checkRecord = if headerClean s.walker.buffer = false then s.refuseRecord .badField else s.dispatchOpen s.walker.buffer := by
  unfold State.checkRecord
  simp only [hd, hkind, bodyClean_open, dispatch_open hkind]
  simp

theorem openRefusal_of_openReason {s : State} {b : List Byte} {r : Reason} (hclean : headerClean b = true)
    (h : s.openReason b = some r) : s.openRefusal b = some r := by
  rw [State.openReason, if_neg (by simp [hclean])] at h
  exact h

theorem checkRecord_openReason {s : State} {r : Reason} (hkind : recKind s.walker.buffer = 1)
    (hd : recDisposition s.walker.buffer = 0) (h : s.openReason s.walker.buffer = some r) : s.checkRecord = s.refuseRecord r := by
  rw [checkRecord_open hkind hd]
  split
  · next hclean =>
    rw [State.openReason, if_pos hclean] at h
    cases h; rfl
  · next hclean =>
    rw [State.dispatchOpen, openRefusal_of_openReason (by simpa using hclean) h]

/-! ### The body of an OPEN record -/

theorem roleOfByte_isSome_iff (x : Byte) : (roleOfByte x).isSome = true ↔ x.toNat ≤ 3 := by
  unfold roleOfByte
  split
  all_goals simp_all
  omega

theorem roleOfByte_source (x : Byte) : (roleOfByte x == some .source) = (x == 1) := by
  revert x; decide +kernel

theorem roleOfByte_target (x : Byte) : (roleOfByte x == some .target) = (x == 3) := by
  revert x; decide +kernel

theorem zeroAt_map_range {n off len : Nat} (g : Nat → Byte) (h : off + len = n) :
    zeroAt ((List.range n).map g) off len = true ↔ ∀ f < n, off ≤ f → g f = 0 := by
  simp only [zeroAt, List.all_eq_true, decide_eq_true_eq, List.mem_iff_getElem?, List.getElem?_take, List.getElem?_drop,
    List.getElem?_map]
  constructor
  · intro hall f hf hoff
    refine hall _ ⟨f - off, ?_⟩
    rw [if_pos (by omega), show off + (f - off) = f by omega, List.getElem?_range hf]
    rfl
  · rintro hall x ⟨k, hk⟩
    split at hk
    · rw [List.getElem?_range (by omega)] at hk
      cases hk
      exact hall _ (by omega) (by omega)
    · cases hk

theorem openBodyValid_iff (b : List Byte) : openBodyValid b = true ↔
    (2 ≤ fieldAt b 32 1 ∧ fieldAt b 32 1 ≤ 20) ∧ (1 ≤ fieldAt b 33 1 ∧ fieldAt b 33 1 ≤ 6) ∧
    fieldAt b 32 1 + fieldAt b 33 1 ≤ 24 ∧ fieldAt b 34 1 ≤ 3 ∧ (1 ≤ fieldAt b 28 4 ∧ fieldAt b 28 4 ≤ 2 ^ 28) ∧
    (1 ≤ fieldAt b 35 1 ∧ fieldAt b 35 1 ≤ 8) ∧ zeroAt b 37 3 = true ∧ zeroAt b 42 6 = true ∧
    (∀ f < 24, (byteAt b (48 + f)).toNat ≤ 3) ∧
    (∀ f < 24, fieldAt b 32 1 + fieldAt b 33 1 ≤ f → byteAt b (48 + f) = 0) ∧
    (List.range 24).countP (fun f => byteAt b (48 + f) == 1) = fieldAt b 32 1 ∧
    1 ≤ (List.range 24).countP (fun f => byteAt b (48 + f) == 3) ∧
    (List.range 24).countP (fun f => byteAt b (48 + f) == 3) ≤ fieldAt b 33 1 := by
  have hroles : (recRoleBytes b).all (fun x => (roleOfByte x).isSome) = true ↔ ∀ f < 24, (byteAt b (48 + f)).toNat ≤ 3 := by
    simp [recRoleBytes, roleOfByte_isSome_iff, Config.fragmentCount]
  have hsources : roleCount b .source = (List.range 24).countP (fun f => byteAt b (48 + f) == 1) := by
    simp only [roleCount, recRoleBytes, List.countP_map, Function.comp_def, roleOfByte_source]; rfl
  have htargets : roleCount b .target = (List.range 24).countP (fun f => byteAt b (48 + f) == 3) := by
    simp only [roleCount, recRoleBytes, List.countP_map, Function.comp_def, roleOfByte_target]; rfl
  simp only [openBodyValid, Bool.and_eq_true, decide_eq_true_eq, hroles, hsources, htargets, and_assoc]
  constructor
  · rintro ⟨hk, hk20, hm, hm6, hsum, h⟩
    obtain ⟨h1, h2, h3, h4, h5, h6, h7, h8, hzero, h9⟩ := h
    exact ⟨hk, hk20, hm, hm6, hsum, h1, h2, h3, h4, h5, h6, h7, h8,
      (zeroAt_map_range (n := 24) (fun f => byteAt b (48 + f)) (by omega)).mp hzero, h9⟩
  · rintro ⟨hk, hk20, hm, hm6, hsum, h1, h2, h3, h4, h5, h6, h7, h8, hzero, h9⟩
    exact ⟨hk, hk20, hm, hm6, hsum, h1, h2, h3, h4, h5, h6, h7, h8,
      (zeroAt_map_range (n := 24) (fun f => byteAt b (48 + f)) (by omega)).mpr hzero, h9⟩

/-- Settles O31: the first half asks for the second or faults; both halves in hand are checked in order. -/
theorem openChecked : Obligations.OpenChecked := by
  refine ⟨fun s b ha hr hb => ?_, fun s half ha hr hl => ?_, openBodyValid_iff⟩
  · obtain ⟨hcalm, hready, hroom⟩ := (s.atRest_iff 2).1 hr
    have hcalm' := calm_fetched s b hcalm
    have hfirst : s.firstHalfArrived b = if s.walker.next.toNat + 128 ≤ s.ctl.chnBase.toNat + s.ctl.chnSize.toNat then
        (s.fetched b).askFetch .secondHalf (s.walker.next + 64) else (s.fetched b).fault .badLink s.walker.next := by
      simp only [State.firstHalfArrived, recKind_recordBytes 1 b hb, if_true, openFits, decide_eq_true_eq]
      rfl
    rw [exec_openRecord_first ha hb, hfirst]
    split
    · exact congrArg Host.Outcome.next (settle_calm _ ⟨hcalm'.line, hcalm'.statuses, hcalm'.ready, hcalm'.owed,
        hcalm'.messages, hcalm'.units, hcalm'.emits, hcalm'.solves, hcalm'.combines⟩ hready)
    · rw [settle_fault (s.fetched b) hcalm' hready hroom]
  · obtain ⟨hcalm, hready, hroom⟩ := (s.atRest_iff 2).1 hr
    extract_lets b
    have hkind : recKind b = 1 := recKind_tail ha
    refine ⟨fun hd => ?_, fun hd r h => ?_⟩
    · have hfault : (s.fetched b).checkRecord = (s.fetched b).fault .notPosted s.walker.next := if_pos hd
      rw [exec_openRecord_second ha hl, hfault, settle_fault (s.fetched b) (calm_fetched s b hcalm) hready hroom]
    · rw [exec_openRecord_second ha hl, checkRecord_openReason (s := s.fetched b) hkind hd h,
        settle_refuse s b (atRest_mono hr (by omega))]

end Sys2Proof.Machine
end

section
/-! PROOFS. Outcomes of segments (R86 to R91), what a writer places when there is room or too little of it (R134 to R136), and with these a
finished solve (R127) and a drained context (R42, R43, R92). -/

namespace Sys2Proof.Machine

/-! ### What outcomes leave alone -/

/-- The state but for what an event at the window touches: contexts, entries, statuses, room reported, cells. -/
def State.besideWindow (s : State) : State :=
  { s with ctxs := Table.empty, feeds := Table.empty, sinks := Table.empty, statusQueue := [], store := Table.empty,
           walker := { s.walker with room := false } }

/-- Between `s` and `t` only that has changed. -/
structure WindowOnly (s t : State) : Prop where
  same : t.besideWindow = s.besideWindow

namespace WindowOnly

variable {s t u : State}

theorem refl (s : State) : WindowOnly s s := ⟨rfl⟩
theorem trans (h1 : WindowOnly s t) (h2 : WindowOnly t u) : WindowOnly s u := ⟨h2.same.trans h1.same⟩
theorem ctl (h : WindowOnly s t) : t.ctl = s.ctl := (congrArg State.ctl h.same :)
theorem gov (h : WindowOnly s t) : t.gov = s.gov := (congrArg State.gov h.same :)
theorem port (h : WindowOnly s t) : t.port = s.port := (congrArg State.port h.same :)
theorem freeCells (h : WindowOnly s t) : t.freeCells = s.freeCells := (congrArg State.freeCells h.same :)
theorem cellWait (h : WindowOnly s t) : t.cellWait = s.cellWait := (congrArg State.cellWait h.same :)
theorem ready (h : WindowOnly s t) : t.ready = s.ready := (congrArg State.ready h.same :)
theorem emitQueue (h : WindowOnly s t) : t.emitQueue = s.emitQueue := (congrArg State.emitQueue h.same :)
theorem emit (h : WindowOnly s t) : t.emit = s.emit := (congrArg State.emit h.same :)
theorem solveQueue (h : WindowOnly s t) : t.solveQueue = s.solveQueue := (congrArg State.solveQueue h.same :)
theorem solving (h : WindowOnly s t) : t.solving = s.solving := (congrArg State.solving h.same :)
theorem combineQueue (h : WindowOnly s t) : t.combineQueue = s.combineQueue := (congrArg State.combineQueue h.same :)
theorem combining (h : WindowOnly s t) : t.combining = s.combining := (congrArg State.combining h.same :)
theorem walkerReady (h : WindowOnly s t) : t.walker.ready = s.walker.ready :=
  (congrArg (fun x : State => x.walker.ready) h.same :)
theorem readyOf (h : WindowOnly s t) (i : Nat) : t.readyOf i = s.readyOf i := by rw [State.readyOf, h.ready]; rfl

end WindowOnly

/-- Only what handing outcomes touches has changed: no cell has. -/
structure OutcomesOnly (s t : State) : Prop extends WindowOnly s t where
  store : t.store = s.store

theorem OutcomesOnly.refl (s : State) : OutcomesOnly s s := ⟨.refl s, rfl⟩

theorem OutcomesOnly.trans {s t u : State} (h1 : OutcomesOnly s t) (h2 : OutcomesOnly t u) : OutcomesOnly s u :=
  ⟨h1.toWindowOnly.trans h2.toWindowOnly, h2.store.trans h1.store⟩

theorem OutcomesOnly.of_same {s t : State} (h : t.besideWindow = s.besideWindow) (hstore : t.store = s.store) : OutcomesOnly s t :=
  ⟨⟨h⟩, hstore⟩

theorem modCtx_outcomesOnly (s : State) (i : Nat) (f : Ctx → Ctx) : OutcomesOnly s (s.modCtx i f) := by
  unfold State.modCtx
  split <;> exact .of_same rfl rfl

theorem reportRoom_outcomesOnly (s : State) (kind : Nat) : OutcomesOnly s (s.reportRoom kind) := by
  unfold State.reportRoom
  split <;> exact .of_same rfl rfl

theorem finaliseFeed_outcomesOnly (s : State) (e : Nat) (f : FeedEntry) : OutcomesOnly s (s.finaliseFeed e f) := by
  unfold State.finaliseFeed
  extract_lets s1 s2
  exact ((modCtx_outcomesOnly s f.ctx _).trans (.of_same rfl rfl : OutcomesOnly s1 s2)).trans (reportRoom_outcomesOnly s2 2)

theorem finaliseSink_outcomesOnly (s : State) (e : Nat) (k : SinkEntry) : OutcomesOnly s (s.finaliseSink e k) := by
  unfold State.finaliseSink
  extract_lets s1 s2
  exact ((modCtx_outcomesOnly s k.ctx _).trans (.of_same rfl rfl : OutcomesOnly s1 s2)).trans (reportRoom_outcomesOnly s2 3)

theorem feedOutcome_outcomesOnly (s : State) (e : Nat) (o : FeedOutcome) : OutcomesOnly s (s.feedOutcome e o) := by
  unfold State.feedOutcome
  split
  · exact .refl s
  · extract_lets f
    split
    · exact finaliseFeed_outcomesOnly s e f
    · exact .of_same rfl rfl

theorem putEntry_outcomesOnly (s : State) (i seg f : Nat) (e : Option LogEntry) : OutcomesOnly s (s.putEntry i seg f e) :=
  modCtx_outcomesOnly s i _

/-! ### What finalisation writes -/

theorem finaliseFeed_feeds (s : State) (e : Nat) (f : FeedEntry) : (s.finaliseFeed e f).feeds = s.feeds.erase e := by
  simp [State.finaliseFeed]

theorem finaliseFeed_sinks (s : State) (e : Nat) (f : FeedEntry) : (s.finaliseFeed e f).sinks = s.sinks := by
  simp [State.finaliseFeed]

theorem finaliseFeed_statusQueue (s : State) (e : Nat) (f : FeedEntry) :
    (s.finaliseFeed e f).statusQueue = s.statusQueue ++ [⟨f.addr, f.notify, f.ctx, feedResult f.counts⟩] := by
  simp [State.finaliseFeed]

theorem finaliseSink_sinks (s : State) (e : Nat) (k : SinkEntry) : (s.finaliseSink e k).sinks = s.sinks.erase e := by
  simp [State.finaliseSink]

theorem finaliseSink_feeds (s : State) (e : Nat) (k : SinkEntry) : (s.finaliseSink e k).feeds = s.feeds := by
  simp [State.finaliseSink]

theorem finaliseSink_statusQueue (s : State) (e : Nat) (k : SinkEntry) :
    (s.finaliseSink e k).statusQueue = s.statusQueue ++ [⟨k.addr, k.notify, k.ctx, sinkResult k.written k.unwritten⟩] := by
  simp [State.finaliseSink]

theorem finaliseFeed_ctxs (s : State) (e : Nat) (f : FeedEntry) :
    (s.finaliseFeed e f).ctxs = (s.modCtx f.ctx (fun c => { c with feedList := c.feedList.filter (· ≠ e) })).ctxs :=
  reportRoom_ctxs _ 2

theorem finaliseSink_ctxs (s : State) (e : Nat) (k : SinkEntry) :
    (s.finaliseSink e k).ctxs = (s.modCtx k.ctx (fun c => { c with sinkList := c.sinkList.filter (· ≠ e) })).ctxs :=
  reportRoom_ctxs _ 3

theorem reportRoom_walker (s : State) (kind : Nat) : (s.reportRoom kind).walker =
    if s.walker.state = .blocked ∧ recKind s.walker.buffer = kind then { s.walker with room := true } else s.walker := by
  unfold State.reportRoom; split <;> rfl

theorem finaliseFeed_walker (s : State) (e : Nat) (f : FeedEntry) : (s.finaliseFeed e f).walker =
    if s.walker.state = .blocked ∧ recKind s.walker.buffer = 2 then { s.walker with room := true } else s.walker := by
  simp only [State.finaliseFeed, reportRoom_walker, modCtx_walker]

theorem finaliseSink_walker (s : State) (e : Nat) (k : SinkEntry) : (s.finaliseSink e k).walker =
    if s.walker.state = .blocked ∧ recKind s.walker.buffer = 3 then { s.walker with room := true } else s.walker := by
  simp only [State.finaliseSink, reportRoom_walker, modCtx_walker]

/-! ### One outcome -/

/-- A Feed entry with one more segment counted under an outcome (R86). -/
def FeedEntry.hand (f : FeedEntry) (o : FeedOutcome) : FeedEntry := { f with counts := f.counts.add o, pending := f.pending - 1 }

theorem feedOutcome_some {s : State} {e : Nat} {f : FeedEntry} (h : s.feeds.get e = some f) (o : FeedOutcome) :
    s.feedOutcome e o = if (f.hand o).pending = 0 then s.finaliseFeed e (f.hand o) else { s with feeds := s.feeds.set e (f.hand o) } := by
  simp only [State.feedOutcome, h]; rfl

theorem feedOutcome_none {s : State} {e : Nat} (h : s.feeds.get e = none) (o : FeedOutcome) : s.feedOutcome e o = s := by
  simp only [State.feedOutcome, h]

/-- A Sink entry with one more segment counted under an outcome (R87). -/
def SinkEntry.hand (k : SinkEntry) (o : SinkOutcome) : SinkEntry :=
  match o with
  | .written => { k with written := k.written + 1, pending := k.pending - 1 }
  | .unwritten => { k with unwritten := k.unwritten + 1, pending := k.pending - 1 }

theorem sinkOutcome_some {s : State} {e : Nat} {k : SinkEntry} (h : s.sinks.get e = some k) (o : SinkOutcome) :
    s.sinkOutcome e o = if (k.hand o).pending = 0 then s.finaliseSink e (k.hand o) else { s with sinks := s.sinks.set e (k.hand o) } := by
  cases o <;> (simp only [State.sinkOutcome, h]; rfl)

theorem SinkEntry.hand_eq (k : SinkEntry) (o : SinkOutcome) : k.hand o =
    { k with written := k.written + (if o = .written then 1 else 0), unwritten := k.unwritten + (if o = .unwritten then 1 else 0),
             pending := k.pending - 1 } := by
  cases o <;> rfl

theorem FeedCounts.add_eq (n : FeedCounts) (o : FeedOutcome) : n.add o =
    { used := n.used + (if o = .used then 1 else 0), refused := n.refused + (if o = .refused then 1 else 0),
      readFailed := n.readFailed + (if o = .readFailed then 1 else 0), late := n.late + (if o = .late then 1 else 0),
      duplicate := n.duplicate + (if o = .duplicate then 1 else 0), unused := n.unused + (if o = .unused then 1 else 0) } := by
  cases o <;> rfl

/-! ### The Buffer Registry places its statuses -/

/-- The write of a status whose result area is not empty covers the area and the two header bytes (R91, R196). -/
theorem Status.toWrite_eq (x : Status) (h : x.result ≠ []) : x.toWrite =
    { writer := .registry, kind := .final x.notify,
      spans := [outcomeBytes x.addr 2 0, { addr := x.addr.toNat + 48, bytes := x.result }] } := by
  simp only [Status.toWrite, dispositionSpans, if_neg h]
  rfl

/-- The first `n` statuses have entered the write queue. -/
def State.statusesPlaced (s : State) (n : Nat) : State :=
  { s with
    statusQueue := s.statusQueue.drop n
    walker := { s.walker with
      room := s.walker.room || (decide (s.walker.state = .blocked) && decide (s.statusQueue.take n ≠ [])) }
    port := { s.port with writeQueue := s.port.writeQueue ++ (s.statusQueue.take n).map Status.toWrite } }

theorem statusesPlaced_nil (s : State) (n : Nat) (h : s.statusQueue = []) : s.statusesPlaced n = s := by
  obtain ⟨⟩ := s
  simp only at h
  subst h
  simp [State.statusesPlaced]

theorem statusesPlaced_zero (s : State) : s.statusesPlaced 0 = s := by simp [State.statusesPlaced]

theorem mustWait_registry {s : State} (h : s.walker.ready = none) : s.mustWait .registry = false := by
  simp [State.mustWait, takenWaits_of_none h]

theorem placeReady_registry (n : Nat) (s : State) (h : s.walker.ready = none) :
    State.placeReady .registry n s = s.statusesPlaced n := by
  induction n generalizing s with
  | zero => exact (statusesPlaced_zero s).symm
  | succ n ih =>
    cases hq : s.statusQueue with
    | nil =>
      have hn : s.nextWrite .registry = none := by simp [State.nextWrite, hq]
      rw [statusesPlaced_nil s _ hq, State.placeReady, placeable_none s _ hn]
    | cons x rest =>
      have hn : s.nextWrite .registry = some x.toWrite := by simp [State.nextWrite, hq]
      have hready : ((s.placed .registry).enqueue x.toWrite).walker.ready = none := by
        simp only [State.placed, enqueue_walker]
        split <;> exact h
      rw [State.placeReady, placeable_free s _ (mustWait_registry h), hn]
      simp only [ih _ hready]
      cases hb : decide (s.walker.state = .blocked) with
      | true =>
        have hb' := of_decide_eq_true hb
        simp [State.statusesPlaced, State.placed, State.enqueue, hq, hb']
      | false =>
        have hb' := of_decide_eq_false hb
        simp [State.statusesPlaced, State.placed, State.enqueue, hq, hb']

/-- Statuses are placed as far as there is room; with some left, the Registry joins the claim line. -/
theorem offer_registry (s : State) (hline : s.port.claimLine = []) (h : s.walker.ready = none) :
    s.offer .registry =
      if (s.statusQueue.drop s.freePlaces) = [] then s.statusesPlaced s.freePlaces
      else (s.statusesPlaced s.freePlaces).setLine [.registry] := by
  have hline' : (s.statusesPlaced s.freePlaces).port.claimLine = [] := hline
  have hnext : ((s.statusesPlaced s.freePlaces).nextWrite .registry).isSome = !(s.statusQueue.drop s.freePlaces).isEmpty := by
    show ((s.statusQueue.drop s.freePlaces).head?.map Status.toWrite).isSome = _
    cases s.statusQueue.drop s.freePlaces <;> rfl
  simp only [State.offer, hline, List.not_mem_nil, if_false, if_true, placeReady_registry _ s h, State.joinLine, hnext, hline',
    List.nil_append]
  cases s.statusQueue.drop s.freePlaces <;> simp

/-- Settles O36: each outcome adds one to its own count, and the last one finalises the entry. -/
theorem segmentOutcomes : Obligations.SegmentOutcomes := by
  refine ⟨fun s e o f hf hpending => ?_, fun s e o k hk hpending => ?_, fun s hline hready hroom hresult => ?_⟩
  · simp only [feedOutcome_some hf, FeedEntry.hand, FeedCounts.add_eq]
    refine ⟨?_, fun hmore => if_neg (by omega), fun hlast => ?_⟩
    · rw [← FeedCounts.add_eq]; exact FeedCounts.total_add f.counts o
    · rw [if_pos (by omega)]
      refine ⟨by rw [finaliseFeed_feeds, Table.get_erase_same], fun g hg => by rw [finaliseFeed_feeds, Table.get_erase_other _ hg],
        finaliseFeed_statusQueue s e _, finaliseFeed_walker s e _, fun c hc => ?_⟩
      rw [finaliseFeed_ctxs, modCtx_get_same, hc]
      rfl
  · simp only [sinkOutcome_some hk, SinkEntry.hand_eq]
    refine ⟨fun hmore => if_neg (by omega), fun hlast => ?_⟩
    rw [if_pos (by omega)]
    refine ⟨by rw [finaliseSink_sinks, Table.get_erase_same], fun g hg => by rw [finaliseSink_sinks, Table.get_erase_other _ hg],
      finaliseSink_statusQueue s e _, finaliseSink_walker s e _, fun c hc => ?_⟩
    rw [finaliseSink_ctxs, modCtx_get_same, hc]
    rfl
  · have hfits : s.statusQueue.length ≤ s.freePlaces := by
      simp only [State.freePlaces, Config.writePlaces]; omega
    rw [offer_registry s hline hready, if_pos (List.drop_eq_nil_of_le hfits), State.statusesPlaced,
      List.drop_eq_nil_of_le hfits, List.take_of_length_le hfits]
    congr 2
    rw [List.map_congr_left (fun x hx => Status.toWrite_eq x (hresult x hx))]

/-! ### Which writers have something new -/

/-- With no writer in the claim line, the new writers are those with a write ready. -/
theorem newWriters_eq {s : State} (hline : s.port.claimLine = []) : s.newWriters =
    ([Writer.registry, .emit, .control] ++ s.ready.keys.map Writer.slot).filter (fun w => (s.nextWrite w).isSome) := by
  simp [State.newWriters, hline]

theorem nextWrite_emit_none {s : State} (h : ∀ e, s.emit = some e → e.targetsLeft = []) : s.nextWrite .emit = none := by
  simp only [State.nextWrite]
  split
  · next e he => simp [h e he]
  · rfl

theorem nextWrite_registry_none {s : State} (h : s.statusQueue = []) : s.nextWrite .registry = none := by
  simp [State.nextWrite, h]

theorem offerReady_of_newWriters_nil {s : State} (h : s.walker.ready = none) (hnew : s.newWriters = []) : s.offerReady = s := by
  simp [State.offerReady, offer_none s .walker h, hnew, orderWriters, State.offerEach]

theorem offerReady_of_newWriters_one {s : State} {w : Writer} (h : s.walker.ready = none) (hnew : s.newWriters = [w]) :
    s.offerReady = s.offer w := by
  simp [State.offerReady, offer_none s .walker h, hnew, orderWriters, insertWriter, State.offerEach]

/-- At the end of an event that left work to the Buffer Registry alone, its statuses are offered. -/
theorem offerReady_registry {s : State} (hline : s.port.claimLine = []) (hready : s.ready.rows = [])
    (howed : s.ctl.reportOwed = false) (hmessages : s.ctl.messages = 0) (hunits : ∀ e, s.emit = some e → e.targetsLeft = [])
    (h : s.walker.ready = none) : s.offerReady = s.offer .registry := by
  have hnew : s.newWriters = if (s.nextWrite .registry).isSome then [.registry] else [] := by
    rw [newWriters_eq hline]
    simp only [Table.keys, hready, List.map_nil, List.append_nil, List.filter_cons, List.filter_nil, nextWrite_emit_none hunits,
      nextWrite_control_none s howed hmessages]
    rfl
  split at hnew
  · exact offerReady_of_newWriters_one h hnew
  · next hnone =>
    rw [offerReady_of_newWriters_nil h hnew, offer_none s .registry (by simpa using hnone)]

/-! ### A slot places its progress -/

/-- A progress write as it stands for context `c` in slot `i` (R35). -/
def progressWrite (i : Nat) (c : Ctx) : QWrite :=
  { writer := .slot i, kind := .progress, spans := [{ addr := c.geo.openAddr.toNat + 72, bytes := progressBytes c }] }

/-- What a placed progress write leaves in its context (R35). -/
def Ctx.reported (c : Ctx) : Ctx := { c with lastProgress := some (c.retired, c.counters) }

/-- The one write that slot `i` has ready, its progress, has been placed. -/
def State.progressPlaced (s : State) (i : Nat) (c : Ctx) : State :=
  State.enqueue { s.setReady i [] with ctxs := s.ctxs.set i c.reported } (progressWrite i c)

theorem mustWait_slot {s : State} (h : s.walker.ready = none) (i : Nat) : s.mustWait (.slot i) = false := by
  simp only [State.mustWait]
  cases (s.readyOf i).head? with
  | none => rfl
  | some w =>
    cases w <;> simp [State.slotMustWait, dropWaits_of_none h, takenWaits_of_none h]

theorem nextWrite_slot_nil {s : State} {i : Nat} (h : s.readyOf i = []) : s.nextWrite (.slot i) = none := by
  simp [State.nextWrite, h]

theorem nextWrite_progress {s : State} {i : Nat} {c : Ctx} {rest : List CtxWrite} (hc : s.ctxs.get i = some c)
    (hr : s.readyOf i = .progress :: rest) : s.nextWrite (.slot i) = some (progressWrite i c) := by
  simp [State.nextWrite, hr, State.slotWrite, hc, progressWrite]

theorem placed_progress {s : State} {i : Nat} {c : Ctx} {rest : List CtxWrite} (hc : s.ctxs.get i = some c)
    (hr : s.readyOf i = .progress :: rest) : s.placed (.slot i) = { s.setReady i rest with ctxs := s.ctxs.set i c.reported } := by
  simp only [State.placed, State.slotPlaced, hr, State.modCtx, setReady_ctxs, hc]
  rfl

theorem freePlaces_pos {s : State} {n : Nat} (h : s.port.writeQueue.length + n ≤ 64) : ∃ m, s.freePlaces = m + n :=
  ⟨s.freePlaces - n, by simp only [State.freePlaces, Config.writePlaces]; omega⟩

/-- A writer whose ready writes have all been placed does not join the claim line. -/
theorem offer_of_placed {s t : State} {w : Writer} (hline : s.port.claimLine = []) (hp : State.placeReady w s.freePlaces s = t)
    (hn : t.nextWrite w = none) : s.offer w = t := by
  simp [State.offer, hline, hp, State.joinLine, hn]

theorem offer_progress {s : State} {i : Nat} {c : Ctx} (hline : s.port.claimLine = []) (h : s.walker.ready = none)
    (hroom : s.port.writeQueue.length + 1 ≤ 64) (hc : s.ctxs.get i = some c) (hr : s.readyOf i = [.progress]) :
    s.offer (.slot i) = s.progressPlaced i c := by
  obtain ⟨n, hn⟩ := freePlaces_pos hroom
  have hdone : (s.progressPlaced i c).nextWrite (.slot i) = none := nextWrite_slot_nil (setReady_ready_same s i [])
  refine offer_of_placed hline ?_ hdone
  rw [hn, State.placeReady, placeable_free s _ (mustWait_slot h i), nextWrite_progress hc hr, placed_progress hc hr]
  show State.placeReady (.slot i) n (s.progressPlaced i c) = _
  cases n with
  | zero => rfl
  | succ n => rw [State.placeReady, placeable_none _ _ hdone]

/-! ### SOLVE_COMPLETE -/

theorem takeCombine_idle {s : State} (h : s.combining = none → s.combineQueue = []) : s.takeCombine = s := by
  unfold State.takeCombine
  split
  · next hc hq => rw [h hc] at hq; cases hq
  · rfl

theorem takeEmit_idle {s : State} (h : s.emit = none → s.emitQueue = []) : s.takeEmit = s := by
  unfold State.takeEmit
  split
  · next hc hq => rw [h hc] at hq; cases hq
  · rfl

theorem startSolve_idle {s : State} (h : s.solving = none → s.solveQueue = []) : s.startSolve = s := by
  unfold State.startSolve
  split
  · next hc hq => rw [h hc] at hq; cases hq
  · rfl

/-- An idle Solver with an empty queue stays idle. -/
theorem startSolve_empty {s : State} (h : s.solveQueue = []) : s.startSolve = s := startSolve_idle (fun _ => h)

/-- An idle Solver takes the head of its queue (R125). -/
theorem startSolve_head {s : State} {i : Nat} {rest : List Nat} {c : Ctx} (hsolving : s.solving = none)
    (hqueue : s.solveQueue = i :: rest) (hc : s.ctxs.get i = some c) :
    s.startSolve = { s with solveQueue := rest, solving := some (solveOf i c) } := by
  simp only [State.startSolve, hsolving, hqueue, hc]
  rfl

/-- The Solver's own fields apart, starting a solve changes nothing. -/
theorem startSolve_apart (s : State) : ∃ q j, s.startSolve = { s with solveQueue := q, solving := j } := by
  unfold State.startSolve
  split
  · split
    · exact ⟨_, _, rfl⟩
    · exact ⟨_, _, rfl⟩
  · exact ⟨s.solveQueue, s.solving, rfl⟩

theorem oweProgress_calm {s : State} {i : Nat} {c : Ctx} (hready : s.ready.rows = []) (hc : s.ctxs.get i = some c)
    (hs : c.silent = false) : s.oweProgress i = { s with ready := ⟨[(i, [.progress])]⟩ } := by
  have hr : s.readyOf i = [] := by simp [State.readyOf, Table.get, hready, findRow]
  simp only [State.oweProgress, hc, hs, hr]
  simp [State.setReady, Table.set, hready, putRow]

/-- At the end of an event in which one slot has a write ready and no other writer has. -/
theorem offerReady_slot {s : State} {i : Nat} {ws : List CtxWrite} (hline : s.port.claimLine = []) (hready : s.ready.rows = [(i, ws)])
    (hstatus : s.statusQueue = []) (howed : s.ctl.reportOwed = false) (hmessages : s.ctl.messages = 0)
    (hunits : ∀ e, s.emit = some e → e.targetsLeft = []) (h : s.walker.ready = none) (hn : (s.nextWrite (.slot i)).isSome = true) :
    s.offerReady = s.offer (.slot i) := by
  refine offerReady_of_newWriters_one h ?_
  rw [newWriters_eq hline]
  simp only [Table.keys, hready, List.map_cons, List.map_nil, List.cons_append, List.nil_append, List.filter_cons, List.filter_nil,
    nextWrite_registry_none hstatus, nextWrite_emit_none hunits, nextWrite_control_none s howed hmessages, hn]
  rfl

theorem readyOf_single {s : State} {i : Nat} {ws : List CtxWrite} (h : s.ready.rows = [(i, ws)]) : s.readyOf i = ws := by
  simp [State.readyOf, Table.get, h, findRow]

/-- At the end of an event in which one context owes its progress and no writer has anything else ready. -/
theorem offerReady_progress {s : State} {i : Nat} {c : Ctx} (hline : s.port.claimLine = []) (hready : s.ready.rows = [(i, [.progress])])
    (hstatus : s.statusQueue = []) (howed : s.ctl.reportOwed = false) (hmessages : s.ctl.messages = 0)
    (hunits : ∀ e, s.emit = some e → e.targetsLeft = []) (h : s.walker.ready = none) (hroom : s.port.writeQueue.length + 1 ≤ 64)
    (hc : s.ctxs.get i = some c) : s.offerReady = s.progressPlaced i c := by
  have hnext : (s.nextWrite (.slot i)).isSome = true := by rw [nextWrite_progress hc (readyOf_single hready)]; rfl
  rw [offerReady_slot hline hready hstatus howed hmessages hunits h hnext,
    offer_progress hline h hroom hc (readyOf_single hready)]

/-- With nothing for the Combine Unit and the Emit Unit, an event's end starts a solve and places writes. -/
theorem settle_of_startSolve {s t : State} (hstart : s.startSolve = t) (hcombines : t.combining = none → t.combineQueue = [])
    (hemits : t.emit = none → t.emitQueue = []) : s.settle = t.offerReady := by
  rw [State.settle, hstart, takeCombine_idle hcombines, takeEmit_idle hemits]

/-- A context whose solve is installed (R28, R116, R127). -/
def Ctx.solved (c : Ctx) (working : List (List Byte)) : Ctx := Ctx.restartTimer { c with state := .running, table := some working }

/-- The state once the solve `j` of context `c` is installed, nothing else having been readied. -/
def State.solveInstalled (s : State) (j : Solve) (c : Ctx) : State :=
  { s with solving := none, ctxs := s.ctxs.set j.ctx (c.solved j.working), ready := ⟨[(j.ctx, [.progress])]⟩ }

theorem finishSolve_calm {s : State} {j : Solve} {c : Ctx} (hready : s.ready.rows = []) (hc : s.ctxs.get j.ctx = some c)
    (hstate : c.state = .solving) : s.finishSolve j = s.solveInstalled j c := by
  have howe := oweProgress_calm (s := { s with solving := none, ctxs := s.ctxs.set j.ctx (c.solved j.working) }) hready
    (Table.get_set_same _ _ _) rfl
  simp only [State.finishSolve, hc, hstate, if_true]
  exact howe

/-- Settles O51: the solve is installed, its context's progress placed, and the Solver takes the head of its queue. -/
theorem solveComplete : Obligations.SolveComplete := by
  intro s j c hj hr hc hstate
  obtain ⟨hcalm, hready, hroom⟩ := (s.atRest_iff 1).1 hr
  have hget : (s.solveInstalled j c).ctxs.get j.ctx = some (c.solved j.working) := Table.get_set_same _ _ _
  obtain ⟨queue, solve, hstart⟩ := startSolve_apart (s.solveInstalled j c)
  obtain ⟨t, ht⟩ : ∃ t, t = { s.solveInstalled j c with solveQueue := queue, solving := solve } := ⟨_, rfl⟩
  rw [← ht] at hstart
  have hgett : t.ctxs.get j.ctx = some (c.solved j.working) := by rw [ht]; exact hget
  have hsettle : (s.solveInstalled j c).settle = t.progressPlaced j.ctx (c.solved j.working) := by
    rw [settle_of_startSolve hstart (by rw [ht]; exact hcalm.combines) (by rw [ht]; exact hcalm.emits)]
    exact offerReady_progress (by rw [ht]; exact hcalm.line) (by rw [ht]; rfl) (by rw [ht]; exact hcalm.statuses)
      (by rw [ht]; exact hcalm.owed) (by rw [ht]; exact hcalm.messages) (by rw [ht]; exact hcalm.units) (by rw [ht]; exact hready)
      (by rw [ht]; exact hroom) hgett
  refine ⟨t.progressPlaced j.ctx (c.solved j.working), (c.solved j.working).reported, ?_, ?_, rfl, rfl, by rw [ht]; rfl,
    fun i hi => ?_, fun hq => ?_, fun i rest d hq hne hd => ?_, by rw [ht]; rfl, by rw [ht]; rfl, by rw [ht]; rfl, by rw [ht]; rfl⟩
  · simp only [exec, execSolveComplete, hj, finishSolve_calm hcalm.ready hc hstate, hsettle]
  · exact Table.get_set_same _ _ _
  · rw [ht]
    show ((s.ctxs.set j.ctx _).set j.ctx _).get i = _
    rw [Table.get_set_other _ hi, Table.get_set_other _ hi]
  · exact (congrArg State.solving (hstart.symm.trans (startSolve_empty hq)) :)
  · have hd1 : (s.solveInstalled j c).ctxs.get i = some d := (Table.get_set_other _ hne _).trans hd
    have hhead := hstart.symm.trans (startSolve_head rfl hq hd1)
    exact ⟨(congrArg State.solveQueue hhead :), (congrArg State.solving hhead :)⟩

/-! ### DRAINED -/

/-- The status of a Feed entry finalised at the teardown of context `c` (R43, R92). -/
def FeedEntry.lastStatus (f : FeedEntry) (c : Ctx) (e : Nat) : Status :=
  { addr := f.addr, notify := f.notify, ctx := f.ctx, result := feedResult (f.account c e).teardown.counts }

/-- The status of a Sink entry finalised at the teardown of context `c` (R43, R92). -/
def SinkEntry.lastStatus (k : SinkEntry) (c : Ctx) (e : Nat) : Status :=
  { addr := k.addr, notify := k.notify, ctx := k.ctx,
    result := sinkResult (k.account c e).teardown.written (k.account c e).teardown.unwritten }

theorem feedResult_ne_nil (n : FeedCounts) : feedResult n ≠ [] := by simp [feedResult, toLE]

theorem sinkResult_ne_nil (w u : Nat) : sinkResult w u ≠ [] := by simp [sinkResult, toLE]

theorem teardownFeeds_cons (c : Ctx) (e : Nat) (es : List Nat) (s : State) : State.teardownFeeds c (e :: es) s =
    State.teardownFeeds c es (match s.feeds.get e with
      | none => s
      | some f => s.finaliseFeed e (f.account c e).teardown) := rfl

theorem teardownSinks_cons (c : Ctx) (e : Nat) (es : List Nat) (s : State) : State.teardownSinks c (e :: es) s =
    State.teardownSinks c es (match s.sinks.get e with
      | none => s
      | some k => s.finaliseSink e (k.account c e).teardown) := rfl

theorem teardownFeeds_get (c : Ctx) (es : List Nat) (s : State) (e : Nat) :
    (State.teardownFeeds c es s).feeds.get e = if e ∈ es then none else s.feeds.get e := by
  induction es generalizing s with
  | nil => rfl
  | cons d es ih =>
    rw [teardownFeeds_cons, ih]
    by_cases hmem : e ∈ es
    · simp [hmem]
    · cases hd : s.feeds.get d with
      | none => by_cases hed : e = d <;> simp [hmem, hed, hd]
      | some f => by_cases hed : e = d <;> simp [hmem, hed, finaliseFeed_feeds, Table.get_erase]

theorem teardownSinks_get (c : Ctx) (es : List Nat) (s : State) (e : Nat) :
    (State.teardownSinks c es s).sinks.get e = if e ∈ es then none else s.sinks.get e := by
  induction es generalizing s with
  | nil => rfl
  | cons d es ih =>
    rw [teardownSinks_cons, ih]
    by_cases hmem : e ∈ es
    · simp [hmem]
    · cases hd : s.sinks.get d with
      | none => by_cases hed : e = d <;> simp [hmem, hed, hd]
      | some f => by_cases hed : e = d <;> simp [hmem, hed, finaliseSink_sinks, Table.get_erase]

theorem teardownFeeds_sinks (c : Ctx) (es : List Nat) (s : State) : (State.teardownFeeds c es s).sinks = s.sinks := by
  induction es generalizing s with
  | nil => rfl
  | cons d es ih =>
    rw [teardownFeeds_cons, ih]
    split
    · rfl
    · exact finaliseFeed_sinks s d _

theorem teardownSinks_feeds (c : Ctx) (es : List Nat) (s : State) : (State.teardownSinks c es s).feeds = s.feeds := by
  induction es generalizing s with
  | nil => rfl
  | cons d es ih =>
    rw [teardownSinks_cons, ih]
    split
    · rfl
    · exact finaliseSink_feeds s d _

/-- The statuses of the entries go in list order (R92). -/
theorem teardownFeeds_statusQueue (c : Ctx) (es : List Nat) (s : State) (hes : es.Nodup) :
    (State.teardownFeeds c es s).statusQueue =
      s.statusQueue ++ es.filterMap (fun e => (s.feeds.get e).map (fun f => f.lastStatus c e)) := by
  induction es generalizing s with
  | nil => simp [State.teardownFeeds]
  | cons d es ih =>
    obtain ⟨hd, hes⟩ := List.nodup_cons.mp hes
    rw [teardownFeeds_cons, ih _ hes, List.filterMap_cons]
    cases hget : s.feeds.get d with
    | none => rfl
    | some f =>
      have hrest : es.filterMap (fun e => ((s.feeds.erase d).get e).map (fun f => f.lastStatus c e)) =
          es.filterMap (fun e => (s.feeds.get e).map (fun f => f.lastStatus c e)) :=
        List.filterMap_congr (fun e he => by rw [Table.get_erase_other _ (ne_of_mem_of_not_mem he hd)])
      simp only [finaliseFeed_feeds, finaliseFeed_statusQueue, hrest, List.append_assoc, Option.map_some]
      rfl

theorem teardownSinks_statusQueue (c : Ctx) (es : List Nat) (s : State) (hes : es.Nodup) :
    (State.teardownSinks c es s).statusQueue =
      s.statusQueue ++ es.filterMap (fun e => (s.sinks.get e).map (fun k => k.lastStatus c e)) := by
  induction es generalizing s with
  | nil => simp [State.teardownSinks]
  | cons d es ih =>
    obtain ⟨hd, hes⟩ := List.nodup_cons.mp hes
    rw [teardownSinks_cons, ih _ hes, List.filterMap_cons]
    cases hget : s.sinks.get d with
    | none => rfl
    | some f =>
      have hrest : es.filterMap (fun e => ((s.sinks.erase d).get e).map (fun k => k.lastStatus c e)) =
          es.filterMap (fun e => (s.sinks.get e).map (fun k => k.lastStatus c e)) :=
        List.filterMap_congr (fun e he => by rw [Table.get_erase_other _ (ne_of_mem_of_not_mem he hd)])
      simp only [finaliseSink_sinks, finaliseSink_statusQueue, hrest, List.append_assoc, Option.map_some]
      rfl

theorem teardownFeeds_outcomesOnly (c : Ctx) (es : List Nat) (s : State) : OutcomesOnly s (State.teardownFeeds c es s) := by
  induction es generalizing s with
  | nil => exact .refl s
  | cons e es ih =>
    refine .trans ?_ (ih _)
    split
    · exact .refl s
    · exact finaliseFeed_outcomesOnly s e _

theorem teardownSinks_outcomesOnly (c : Ctx) (es : List Nat) (s : State) : OutcomesOnly s (State.teardownSinks c es s) := by
  induction es generalizing s with
  | nil => exact .refl s
  | cons e es ih =>
    refine .trans ?_ (ih _)
    split
    · exact .refl s
    · exact finaliseSink_outcomesOnly s e _

theorem teardownFeeds_bones (c : Ctx) (es : List Nat) (s : State) : BonesKept s (State.teardownFeeds c es s) := by
  induction es generalizing s with
  | nil => exact .refl s
  | cons e es ih =>
    refine .trans ?_ (ih _)
    split
    · exact .refl s
    · exact finaliseFeed_bones s e _

theorem teardownSinks_bones (c : Ctx) (es : List Nat) (s : State) : BonesKept s (State.teardownSinks c es s) := by
  induction es generalizing s with
  | nil => exact .refl s
  | cons e es ih =>
    refine .trans ?_ (ih _)
    split
    · exact .refl s
    · exact finaliseSink_bones s e _

theorem finaliseContext_outcomesOnly (s : State) (i : Nat) (c : Ctx) : OutcomesOnly s (s.finaliseContext i c) :=
  ((teardownFeeds_outcomesOnly c _ s).trans (teardownSinks_outcomesOnly c _ _)).trans (modCtx_outcomesOnly _ i _)

theorem finaliseContext_ctx {s : State} {i : Nat} {c : Ctx} (hc : s.ctxs.get i = some c) :
    ∃ c', (s.finaliseContext i c).ctxs.get i = some c' ∧ c'.bones = { c.bones with teardown := .statuses } := by
  obtain ⟨c1, hc1, hbones⟩ :=
    ((teardownFeeds_bones c c.feedList s).trans (teardownSinks_bones c c.sinkList _)).ctx hc
  refine ⟨{ c1 with teardown := .statuses }, by rw [State.finaliseContext, modCtx_get_same, hc1]; rfl, ?_⟩
  rw [← hbones]
  rfl

/-- An event's end that has statuses alone to place. -/
theorem settle_statuses {s t : State} (hcalm : Calm s) (hready : s.walker.ready = none) (h : OutcomesOnly s t) :
    t.settle = t.offer .registry := by
  rw [settle_offerReady t (by rw [h.solving, h.solveQueue]; exact hcalm.solves)
    (by rw [h.combining, h.combineQueue]; exact hcalm.combines) (by rw [h.emit, h.emitQueue]; exact hcalm.emits)]
  exact offerReady_registry (by rw [h.port]; exact hcalm.line) (by rw [h.ready]; exact hcalm.ready) (by rw [h.ctl]; exact hcalm.owed)
    (by rw [h.ctl]; exact hcalm.messages) (by rw [h.emit]; exact hcalm.units) (by rw [h.walkerReady]; exact hready)

/-- Placing statuses touches neither a context nor an entry nor a cell. -/
theorem offer_registry_apart {s : State} (hline : s.port.claimLine = []) (h : s.walker.ready = none) :
    (s.offer .registry).ctxs = s.ctxs ∧ (s.offer .registry).feeds = s.feeds ∧ (s.offer .registry).sinks = s.sinks ∧
    (s.offer .registry).freeCells = s.freeCells ∧ (s.offer .registry).store = s.store ∧
    (s.offer .registry).statusQueue = s.statusQueue.drop s.freePlaces ∧
    (s.offer .registry).port.writeQueue = s.port.writeQueue ++ (s.statusQueue.take s.freePlaces).map Status.toWrite := by
  rw [offer_registry s hline h]
  split <;> exact ⟨rfl, rfl, rfl, rfl, rfl, rfl, rfl⟩

/-- Settles O52: the two walks hand out what is owed, and the Registry places the statuses behind what stood in the write queue. -/
theorem drained : Obligations.Drained := by
  unfold Obligations.Drained
  intro done feedStatus sinkStatus
  have hfeedStatus : ∀ c e f, feedStatus c e f = f.lastStatus c e := fun _ _ _ => rfl
  have hsinkStatus : ∀ c e k, sinkStatus c e k = k.lastStatus c e := fun _ _ _ => rfl
  refine ⟨fun s i c hc => ⟨fun hstate hteardown hslots hemit hcalm hready => ?_, fun hnot => ?_⟩,
    fun s c es hes => ⟨teardownFeeds_statusQueue c es s hes, teardownFeeds_get c es s⟩,
    fun s c es hes => ⟨teardownSinks_statusQueue c es s hes, teardownSinks_get c es s⟩⟩
  · have hcalm' := s.calm_iff.mp hcalm
    have hdrained : s.isDrained i c = true := by simp [State.isDrained, hstate, hteardown, hslots, hemit]
    have honly := finaliseContext_outcomesOnly s i c
    obtain ⟨c', hc', hbones⟩ := finaliseContext_ctx hc
    obtain ⟨hctxs, hfeeds, hsinks, hcells, hstore, hqueue, hwrites⟩ :=
      offer_registry_apart (s := s.finaliseContext i c) (by rw [honly.port]; exact hcalm'.line) (by rw [honly.walkerReady]; exact hready)
    have hfinalFeeds : (s.finaliseContext i c).feeds = (State.teardownFeeds c c.feedList s).feeds := by
      rw [State.finaliseContext, modCtx_feeds, teardownSinks_feeds]
    have hfinalSinks : (s.finaliseContext i c).sinks = (State.teardownSinks c c.sinkList (State.teardownFeeds c c.feedList s)).sinks := by
      rw [State.finaliseContext, modCtx_sinks]
    refine ⟨(s.finaliseContext i c).offer .registry, c', ?_, by rw [hctxs]; exact hc', hbones, fun e he => ?_, fun e he => ?_,
      by rw [hcells, honly.freeCells], by rw [hstore, honly.store], fun hfl hsl => ?_⟩
    · simp only [exec, execDrained, hc, hdrained, if_true, settle_statuses hcalm' hready honly]
    · rw [hfeeds, hfinalFeeds, teardownFeeds_get, if_pos he]
    · rw [hsinks, hfinalSinks, teardownSinks_get, if_pos he]
    · have hstatuses : (s.finaliseContext i c).statusQueue = c.feedList.filterMap (fun e => (s.feeds.get e).map (feedStatus c e)) ++
          c.sinkList.filterMap (fun e => (s.sinks.get e).map (sinkStatus c e)) := by
        rw [State.finaliseContext, modCtx_statusQueue, teardownSinks_statusQueue c _ _ hsl, teardownFeeds_statusQueue c _ s hfl,
          teardownFeeds_sinks, hcalm'.statuses, List.nil_append]
        rfl
      have hplaces : (s.finaliseContext i c).freePlaces = 64 - s.port.writeQueue.length := by
        rw [State.freePlaces, honly.port]; rfl
      intro statuses room
      rw [hqueue, hwrites, hstatuses, hplaces, honly.port]
      refine ⟨rfl, congrArg (s.port.writeQueue ++ ·) (List.map_congr_left (fun x hx => Status.toWrite_eq x ?_))⟩
      rcases List.mem_append.mp (List.mem_of_mem_take hx) with hx | hx
      · obtain ⟨e, -, he⟩ := List.mem_filterMap.mp hx
        obtain ⟨f, -, rfl⟩ := Option.map_eq_some_iff.mp he
        rw [hfeedStatus]; exact feedResult_ne_nil _
      · obtain ⟨e, -, he⟩ := List.mem_filterMap.mp hx
        obtain ⟨k, -, rfl⟩ := Option.map_eq_some_iff.mp he
        rw [hsinkStatus]; exact sinkResult_ne_nil _ _
  · have hdrained : s.isDrained i c = false := by
      simp only [State.isDrained, Bool.and_eq_false_iff, beq_eq_false_iff_ne, Bool.not_eq_false']
      tauto
    simp only [exec, execDrained, hc, hdrained]
    rfl

end Sys2Proof.Machine
end

section
/-! PROOFS. The rules about one position of one context, and about what Feed and Sink entries are handed: what each operation on the feed log
reads and writes (R52 to R57, R74, R86, R89). -/

namespace Sys2Proof.Machine

/-! ### Positions -/

theorem holding_iff {c : Ctx} {seg : Nat} {p : Position} :
    c.holding seg = some p ↔ c.slots.get (seg % c.geo.width) = some p ∧ p.seg = seg := by
  unfold Ctx.holding
  constructor
  · intro h
    split at h
    · next q hq =>
      split at h
      · next hs => cases h; exact ⟨hq, hs⟩
      · cases h
    · cases h
  · rintro ⟨hq, hs⟩
    simp [hq, hs]

/-- The position in slot `n` of context `j`, if one stands there. -/
def State.posAt (s : State) (j n : Nat) : Option Position := (s.ctxs.get j).bind (fun c => c.slots.get n)

theorem posAt_some {s : State} {j : Nat} {c : Ctx} (hc : s.ctxs.get j = some c) (n : Nat) : s.posAt j n = c.slots.get n := by
  simp [State.posAt, hc]

theorem posAt_of_ctxs {s t : State} (h : t.ctxs = s.ctxs) (j n : Nat) : t.posAt j n = s.posAt j n := by
  rw [State.posAt, h]; rfl

theorem modCtx_posAt {s : State} {i : Nat} {f : Ctx → Ctx} (hf : ∀ c, (f c).slots = c.slots) (j n : Nat) :
    (s.modCtx i f).posAt j n = s.posAt j n := by
  unfold State.posAt
  by_cases hj : j = i
  · subst hj
    rw [modCtx_get_same]
    cases s.ctxs.get j with
    | none => rfl
    | some c => simp [hf]
  · rw [modCtx_get_other s hj]

theorem setCtx_posAt {s t : State} {i : Nat} {c' : Ctx} (ht : t.ctxs = s.ctxs.set i c') (j n : Nat) :
    t.posAt j n = if j = i then c'.slots.get n else s.posAt j n := by
  unfold State.posAt
  rw [ht, Table.get_set]
  split <;> rfl

theorem finaliseFeed_posAt (s : State) (e : Nat) (f : FeedEntry) (j n : Nat) : (s.finaliseFeed e f).posAt j n = s.posAt j n := by
  rw [posAt_of_ctxs (finaliseFeed_ctxs s e f)]
  exact modCtx_posAt (f := fun c => { c with feedList := c.feedList.filter (· ≠ e) }) (fun _ => rfl) j n

theorem feedOutcome_posAt (s : State) (e : Nat) (o : FeedOutcome) (j n : Nat) : (s.feedOutcome e o).posAt j n = s.posAt j n := by
  cases hf : s.feeds.get e with
  | none => rw [feedOutcome_none hf]
  | some f =>
    rw [feedOutcome_some hf]
    split
    · exact finaliseFeed_posAt s e _ j n
    · rfl

/-! ### Feed log entries -/

theorem putEntry_row_get (p : Position) (f : Nat) (e : Option LogEntry) (g : Nat) :
    (p.putEntry f e).row.get g = if g = f then e else p.row.get g := by
  cases e with
  | none => exact Table.get_erase _ _ _
  | some e => exact Table.get_set _ _ _ _

/-- Writing an entry of a position that stands writes that position alone. -/
theorem putEntry_posAt {s : State} {i seg f : Nat} {c : Ctx} {p : Position} (hc : s.ctxs.get i = some c) (hp : c.holding seg = some p)
    (e : Option LogEntry) (j n : Nat) :
    (s.putEntry i seg f e).posAt j n = if j = i ∧ n = seg % c.geo.width then some (p.putEntry f e) else s.posAt j n := by
  have hput : (s.putEntry i seg f e).ctxs = s.ctxs.set i (c.putPosition seg (p.putEntry f e)) := by
    simp only [State.putEntry, State.modCtx, hc, hp]
  rw [setCtx_posAt hput]
  by_cases hj : j = i
  · subst hj
    rw [if_pos rfl, posAt_some hc, Ctx.putPosition, Table.get_set]
    simp
  · simp [hj]

theorem putEntry_feeds (s : State) (i seg f : Nat) (e : Option LogEntry) : (s.putEntry i seg f e).feeds = s.feeds := modCtx_feeds s i _

theorem putEntry_sinks (s : State) (i seg f : Nat) (e : Option LogEntry) : (s.putEntry i seg f e).sinks = s.sinks := modCtx_sinks s i _

theorem feedOutcome_sinks (s : State) (e : Nat) (o : FeedOutcome) : (s.feedOutcome e o).sinks = s.sinks := by
  cases hf : s.feeds.get e with
  | none => rw [feedOutcome_none hf]
  | some f =>
    rw [feedOutcome_some hf]
    split
    · exact finaliseFeed_sinks s e _
    · rfl

/-! ### Contexts but for positions, lists and counters -/

/-- A context but for its position table, its lists, its counters and its last progress write. -/
def Ctx.spine (c : Ctx) : Ctx := { c.bones with counters := Counters.zero }

/-- Every context keeps its spine, and no slot gets or loses one. -/
def SpinesKept (s t : State) : Prop := ∀ j, (t.ctxs.get j).map Ctx.spine = (s.ctxs.get j).map Ctx.spine

theorem SpinesKept.refl (s : State) : SpinesKept s s := fun _ => rfl

theorem SpinesKept.trans {s t u : State} (h1 : SpinesKept s t) (h2 : SpinesKept t u) : SpinesKept s u :=
  fun j => (h2 j).trans (h1 j)

theorem BonesKept.spines {s t : State} (h : BonesKept s t) : SpinesKept s t := by
  intro j
  have hspine : ∀ o : Option Ctx, (o.map Ctx.bones).map (fun c => { c with counters := Counters.zero }) = o.map Ctx.spine :=
    fun o => Option.map_map ..
  rw [← hspine, ← hspine, h j]

theorem SpinesKept.ctx {s t : State} (h : SpinesKept s t) {i : Nat} {c : Ctx} (hc : s.ctxs.get i = some c) :
    ∃ c', t.ctxs.get i = some c' ∧ c'.spine = c.spine := by
  have hi := h i
  rw [hc] at hi
  cases ht : t.ctxs.get i with
  | none => rw [ht] at hi; cases hi
  | some c' => rw [ht] at hi; exact ⟨c', rfl, Option.some.inj hi⟩

theorem modCtx_spines (s : State) (i : Nat) (f : Ctx → Ctx) (hf : ∀ c, (f c).spine = c.spine) : SpinesKept s (s.modCtx i f) := by
  intro j
  by_cases hj : j = i
  · subst hj
    rw [modCtx_get_same]
    cases s.ctxs.get j with
    | none => rfl
    | some c => exact congrArg some (hf c)
  · rw [modCtx_get_other s hj]

section Spine
variable {c c' : Ctx} (h : c'.spine = c.spine)
include h
theorem spine_geo : c'.geo = c.geo := (congrArg Ctx.geo h :)
theorem spine_state : c'.state = c.state := (congrArg Ctx.state h :)
theorem spine_cells : c'.cells = c.cells := (congrArg Ctx.cells h :)
theorem spine_roles : c'.roles = c.roles := (congrArg Ctx.roles h :)
theorem spine_base : c'.base = c.base := (congrArg Ctx.base h :)
theorem spine_role (f : Nat) : c'.role f = c.role f := by rw [Ctx.role, spine_roles h]; rfl
theorem spine_fragmentsIn (r : Role) : c'.fragmentsIn r = c.fragmentsIn r := by
  simp only [Ctx.fragmentsIn, spine_role h]
theorem spine_cellsOf (seg : Nat) : c'.cellsOf seg = c.cellsOf seg := by
  have htargets : c'.targetCount = c.targetCount := by rw [Ctx.targetCount, Ctx.targets, spine_fragmentsIn h]; rfl
  have hcell : c'.cellOf seg = c.cellOf seg := by
    funext i; rw [Ctx.cellOf, htargets, spine_geo h, spine_cells h]; rfl
  rw [Ctx.cellsOf, htargets, hcell]; rfl
end Spine

theorem bones_spine {c c' : Ctx} (h : c'.bones = c.bones) : c'.spine = c.spine := by
  rw [Ctx.spine, h]; rfl

/-! ### What Feed entries are handed -/

/-- The Feed Table and the status queue: what outcomes of feed segments read and write. -/
structure Ledger where
  feeds : Table FeedEntry
  statuses : List Status

def State.ledger (s : State) : Ledger := { feeds := s.feeds, statuses := s.statusQueue }

/-- The status of a Feed entry that owes no more (R89). -/
def FeedEntry.status (f : FeedEntry) : Status := { addr := f.addr, notify := f.notify, ctx := f.ctx, result := feedResult f.counts }

/-- One outcome, on the ledger alone (R86, R89). -/
def Ledger.hand (l : Ledger) (x : Nat × FeedOutcome) : Ledger :=
  match l.feeds.get x.1 with
  | none => l
  | some f =>
    if (f.hand x.2).pending = 0 then ⟨l.feeds.erase x.1, l.statuses ++ [(f.hand x.2).status]⟩
    else ⟨l.feeds.set x.1 (f.hand x.2), l.statuses⟩

/-- Several outcomes, one after another. -/
def Ledger.handAll (l : Ledger) (xs : List (Nat × FeedOutcome)) : Ledger := xs.foldl Ledger.hand l

@[simp] theorem handAll_nil (l : Ledger) : l.handAll [] = l := rfl

theorem handAll_cons (l : Ledger) (x : Nat × FeedOutcome) (xs : List (Nat × FeedOutcome)) :
    l.handAll (x :: xs) = (l.hand x).handAll xs := rfl

theorem handAll_append (l : Ledger) (xs ys : List (Nat × FeedOutcome)) : l.handAll (xs ++ ys) = (l.handAll xs).handAll ys :=
  List.foldl_append

theorem feedOutcome_ledger (s : State) (e : Nat) (o : FeedOutcome) : (s.feedOutcome e o).ledger = s.ledger.hand (e, o) := by
  unfold Ledger.hand
  cases hf : s.feeds.get e with
  | none => simp only [feedOutcome_none hf, State.ledger, hf]
  | some f =>
    simp only [feedOutcome_some hf, State.ledger, hf]
    split
    · rw [finaliseFeed_feeds, finaliseFeed_statusQueue]; rfl
    · rfl

theorem putEntry_ledger (s : State) (i seg f : Nat) (e : Option LogEntry) : (s.putEntry i seg f e).ledger = s.ledger := by
  simp [State.ledger, State.putEntry]

theorem modCtx_ledger (s : State) (i : Nat) (f : Ctx → Ctx) : (s.modCtx i f).ledger = s.ledger := by
  simp [State.ledger]

theorem hand_get_other (l : Ledger) {x : Nat × FeedOutcome} {e : Nat} (h : e ≠ x.1) : (l.hand x).feeds.get e = l.feeds.get e := by
  unfold Ledger.hand
  split
  · rfl
  · split
    · exact Table.get_erase_other _ h
    · exact Table.get_set_other _ h _

theorem hand_get_same (l : Ledger) (x : Nat × FeedOutcome) : (l.hand x).feeds.get x.1 =
    (l.feeds.get x.1).bind (fun f => if (f.hand x.2).pending = 0 then none else some (f.hand x.2)) := by
  unfold Ledger.hand
  split
  · next h => rw [h]; rfl
  · next f h =>
    rw [h]
    split
    · next hz => simp [hz]
    · next hz => simp [hz]

/-- What an entry is handed depends on that entry alone. -/
theorem hand_get_congr {l l' : Ledger} {e : Nat} (h : l'.feeds.get e = l.feeds.get e) (o : FeedOutcome) :
    (l'.hand (e, o)).feeds.get e = (l.hand (e, o)).feeds.get e := by
  rw [hand_get_same l' (e, o), hand_get_same l (e, o)]
  simp only [h]

theorem hand_statuses (l : Ledger) (x : Nat × FeedOutcome) {y : Status} (hy : y ∈ l.statuses) : y ∈ (l.hand x).statuses := by
  unfold Ledger.hand
  split
  · exact hy
  · split
    · exact List.mem_append_left _ hy
    · exact hy

theorem handAll_statuses (xs : List (Nat × FeedOutcome)) (l : Ledger) {y : Status} (hy : y ∈ l.statuses) :
    y ∈ (l.handAll xs).statuses := by
  induction xs generalizing l with
  | nil => exact hy
  | cons x xs ih => exact ih _ (hand_statuses l x hy)

theorem handAll_get_other (xs : List (Nat × FeedOutcome)) (l : Ledger) {e : Nat} (h : ∀ x ∈ xs, x.1 ≠ e) :
    (l.handAll xs).feeds.get e = l.feeds.get e := by
  induction xs generalizing l with
  | nil => rfl
  | cons x xs ih =>
    rw [handAll_cons, ih _ (fun y hy => h y (List.mem_cons_of_mem _ hy)), hand_get_other l (h x (by simp)).symm]

theorem handAll_get_none (xs : List (Nat × FeedOutcome)) (l : Ledger) {e : Nat} (h : l.feeds.get e = none) :
    (l.handAll xs).feeds.get e = none := by
  induction xs generalizing l with
  | nil => exact h
  | cons x xs ih =>
    refine ih _ ?_
    by_cases hx : e = x.1
    · subst hx; rw [hand_get_same, h]; rfl
    · rw [hand_get_other l hx, h]

/-- The outcomes that entry `e` is handed. -/
def outcomesOf (e : Nat) (xs : List (Nat × FeedOutcome)) : List FeedOutcome := (xs.filter (fun x => x.1 = e)).map (·.2)

theorem outcomesOf_cons_same (e : Nat) (o : FeedOutcome) (xs : List (Nat × FeedOutcome)) :
    outcomesOf e ((e, o) :: xs) = o :: outcomesOf e xs := by simp [outcomesOf]

theorem outcomesOf_cons_other {e : Nat} {x : Nat × FeedOutcome} (h : x.1 ≠ e) (xs : List (Nat × FeedOutcome)) :
    outcomesOf e (x :: xs) = outcomesOf e xs := by simp [outcomesOf, h]

/-- A Feed entry handed fewer outcomes than it owes. -/
def FeedEntry.handed (g : FeedEntry) (os : List FeedOutcome) : FeedEntry :=
  { g with counts := os.foldl FeedCounts.add g.counts, pending := g.pending - os.length }

/-- What becomes of an entry that owes at least as much as it is handed: it goes on with the rest, or it is final. -/
theorem handAll_get (xs : List (Nat × FeedOutcome)) (l : Ledger) {e : Nat} {g : FeedEntry} (hg : l.feeds.get e = some g)
    (hp : 1 ≤ g.pending) :
    ((outcomesOf e xs).length < g.pending → (l.handAll xs).feeds.get e = some (g.handed (outcomesOf e xs))) ∧
    ((outcomesOf e xs).length = g.pending → (l.handAll xs).feeds.get e = none ∧
      (g.handed (outcomesOf e xs)).status ∈ (l.handAll xs).statuses) := by
  induction xs generalizing l g with
  | nil => exact ⟨fun _ => hg, fun h => by simp [outcomesOf] at h; omega⟩
  | cons x xs ih =>
    obtain ⟨d, o⟩ := x
    by_cases hd : d = e
    · subst hd
      rw [outcomesOf_cons_same, handAll_cons, List.length_cons]
      have hsame : (l.hand (d, o)).feeds.get d = if g.pending - 1 = 0 then none else some (g.hand o) := by
        rw [hand_get_same l (d, o)]; simp only [hg]; rfl
      by_cases hz : g.pending - 1 = 0
      · refine ⟨fun h => by omega, fun h => ?_⟩
        rw [if_pos hz] at hsame
        have hrest : outcomesOf d xs = [] := List.length_eq_zero_iff.mp (by omega)
        refine ⟨handAll_get_none xs _ hsame, handAll_statuses xs _ ?_⟩
        have hl : (l.hand (d, o)).statuses = l.statuses ++ [(g.hand o).status] := by
          simp only [Ledger.hand, hg, FeedEntry.hand, hz, if_true]
        rw [hl, hrest]
        exact List.mem_append_right _ (List.mem_singleton.mpr rfl)
      · rw [if_neg hz] at hsame
        obtain ⟨ih1, ih2⟩ := ih (l.hand (d, o)) hsame (by simp only [FeedEntry.hand]; omega)
        have hhanded : (g.hand o).handed (outcomesOf d xs) = g.handed (o :: outcomesOf d xs) := by
          simp only [FeedEntry.handed, FeedEntry.hand, List.foldl_cons, List.length_cons, Nat.sub_sub, Nat.add_comm 1]
        have hpending : (g.hand o).pending = g.pending - 1 := rfl
        rw [hhanded, hpending] at ih1 ih2
        exact ⟨fun h => ih1 (by omega), fun h => ih2 (by omega)⟩
    · rw [outcomesOf_cons_other (x := (d, o)) hd, handAll_cons]
      exact ih _ ((hand_get_other l (x := (d, o)) (Ne.symm hd)).trans hg) hp

theorem foldl_add_eq (os : List FeedOutcome) (n : FeedCounts) : os.foldl FeedCounts.add n =
    { used := n.used + os.count .used, refused := n.refused + os.count .refused, readFailed := n.readFailed + os.count .readFailed,
      late := n.late + os.count .late, duplicate := n.duplicate + os.count .duplicate, unused := n.unused + os.count .unused } := by
  induction os generalizing n with
  | nil => rfl
  | cons o os ih =>
    rw [List.foldl_cons, ih]
    cases o <;> simp [FeedCounts.add, Nat.add_assoc, Nat.add_comm 1]

/-- Outcomes that are all unused. -/
theorem foldl_add_unused {os : List FeedOutcome} (h : ∀ o ∈ os, o = .unused) (n : FeedCounts) :
    os.foldl FeedCounts.add n = { n with unused := n.unused + os.length } := by
  have hrep : os = List.replicate os.length .unused := List.eq_replicate_iff.mpr ⟨rfl, h⟩
  rw [foldl_add_eq, hrep]
  simp [List.count_replicate]

end Sys2Proof.Machine
end

section
/-! PROOFS. Several writers place at one event (R136), and with that a tick (R35, R116, R157, R177, R190). -/

namespace Sys2Proof.Machine

/-! ### Tables in canonical form -/

theorem rising_keys_nodup {α : Type} {rows : List (Nat × α)} (h : risingRows rows = true) : (rows.map (·.1)).Nodup := by
  induction rows with
  | nil => exact List.nodup_nil
  | cons r rest ih =>
    obtain ⟨habove, hrest⟩ := rising_cons.mp h
    refine List.nodup_cons.mpr ⟨fun hmem => ?_, ih hrest⟩
    obtain ⟨x, hx, heq⟩ := List.mem_map.mp hmem
    have hlt := habove x hx
    simp only at heq
    omega

theorem Table.keys_nodup {α : Type} {t : Table α} (h : t.wf = true) : t.keys.Nodup := rising_keys_nodup h

theorem Table.mem_keys_of_get {α : Type} {t : Table α} {k : Nat} {v : α} (h : t.get k = some v) : k ∈ t.keys :=
  List.mem_map.mpr ⟨(k, v), Table.mem_of_get h, rfl⟩

/-- Replacing a listed entry by one that answers `p` alike leaves the number of entries with `p`. -/
theorem countP_putRow {α : Type} {p : α → Bool} {k : Nat} {v v' : α} {rows : List (Nat × α)} (hwf : risingRows rows = true)
    (hget : findRow k rows = some v) (hp : p v' = p v) :
    (putRow k v' rows).countP (fun r => p r.2) = rows.countP (fun r => p r.2) := by
  induction rows with
  | nil => cases hget
  | cons r rest ih =>
    obtain ⟨j, u⟩ := r
    obtain ⟨habove, hrest⟩ := rising_cons.mp hwf
    simp only [findRow] at hget
    by_cases hj : j = k
    · rw [if_pos hj] at hget
      cases hget
      rw [putRow, if_neg (by omega), if_pos hj]
      simp only [List.countP_cons, hp]
    · rw [if_neg hj] at hget
      have hmem : (k, v) ∈ rest := Table.mem_of_get (t := ⟨rest⟩) hget
      have hlt := habove _ hmem
      rw [putRow, if_neg (by simp only at hlt; omega), if_neg hj]
      simp only [List.countP_cons, ih hrest hget]

/-! ### Writers that have one write each -/

/-- Writer `w` has `q` ready and nothing else: a slot its progress, the Control Interface its report. -/
inductive SoleWrite (s : State) : Writer → QWrite → Prop
  | progress {i : Nat} {c : Ctx} (hc : s.ctxs.get i = some c) (hr : s.readyOf i = [.progress]) : SoleWrite s (.slot i) (progressWrite i c)
  | report (hr : s.reportReady = true) (hm : s.ctl.messages = 0) : SoleWrite s .control s.reportWrite

/-- The write `q` of writer `w` has entered the write queue. -/
def State.entered (s : State) (w : Writer) (q : QWrite) : State := (s.placed w).enqueue q

variable {s t : State} {w v : Writer} {q r : QWrite}

theorem SoleWrite.nextWrite (h : SoleWrite s w q) : s.nextWrite w = some q := by
  cases h with
  | progress hc hr => exact nextWrite_progress hc hr
  | report hr hm => exact if_pos hr

theorem SoleWrite.writer (h : SoleWrite s w q) : q.writer = w := by cases h <;> rfl

theorem entered_slot {i : Nat} {c : Ctx} (hc : s.ctxs.get i = some c) (hr : s.readyOf i = [.progress]) :
    s.entered (.slot i) q = State.enqueue { s.setReady i [] with ctxs := s.ctxs.set i c.reported } q := by
  rw [State.entered, placed_progress hc hr]

theorem entered_control (hr : s.reportReady = true) : s.entered .control q =
    State.enqueue { s with ctl := { s.ctl with reportOwed := false, lastReport := some s.reportValues } } q := by
  simp only [State.entered, State.placed, hr, if_true]

/-- Placing such a write touches only what the write is about. -/
theorem SoleWrite.entered_apart (h : SoleWrite s w q) : ∃ ctl ctxs ready, s.entered w q =
    { s with ctl := ctl, ctxs := ctxs, ready := ready, port := { s.port with writeQueue := s.port.writeQueue ++ [q] } } := by
  cases h with
  | progress hc hr => exact ⟨_, _, _, entered_slot hc hr⟩
  | report hr hm => exact ⟨_, _, _, entered_control hr⟩

theorem SoleWrite.entered_nextWrite (h : SoleWrite s w q) : (s.entered w q).nextWrite w = none := by
  cases h with
  | progress hc hr => rw [entered_slot hc hr]; exact nextWrite_slot_nil (setReady_ready_same s _ [])
  | report hr hm => rw [entered_control hr]; simp [State.nextWrite, State.reportReady, State.enqueue, hm]

theorem SoleWrite.mustWait (h : SoleWrite s w q) (hready : s.walker.ready = none) : s.mustWait w = false := by
  cases h with
  | progress hc hr => exact mustWait_slot hready _
  | report hr hm => rfl

/-- A writer with one write ready places it when there is room. -/
theorem SoleWrite.offer (h : SoleWrite s w q) (hline : s.port.claimLine = []) (hready : s.walker.ready = none)
    (hroom : s.port.writeQueue.length + 1 ≤ 64) : s.offer w = s.entered w q := by
  obtain ⟨n, hn⟩ := freePlaces_pos hroom
  refine offer_of_placed hline ?_ h.entered_nextWrite
  rw [hn, State.placeReady, placeable_free s _ (h.mustWait hready), h.nextWrite]
  show State.placeReady w n (s.entered w q) = _
  cases n with
  | zero => rfl
  | succ n => rw [State.placeReady, placeable_none _ _ h.entered_nextWrite]

/-- The report's values do not show what a last progress write carried. -/
theorem reportValues_reported {i : Nat} {c : Ctx} (hwf : s.ctxs.wf = true) (hc : s.ctxs.get i = some c) :
    State.reportValues { s with ctxs := s.ctxs.set i c.reported } = s.reportValues := by
  have hactive := countP_putRow (p := fun d : Ctx => d.state != .pending) (v' := c.reported) hwf hc rfl
  simp only [State.reportValues, Table.set, hactive]

/-- The write of one writer stands while another one places its own. -/
theorem SoleWrite.entered_other (h : SoleWrite s w q) (h' : SoleWrite s v r) (hne : v ≠ w) (hwf : v = .control → s.ctxs.wf = true) :
    SoleWrite (s.entered w q) v r := by
  cases h with
  | progress hc hr =>
    next i c =>
    rw [entered_slot hc hr]
    cases h' with
    | progress hd hr' =>
      next j d =>
      have hji : j ≠ i := fun e => hne (by rw [e])
      refine .progress ((Table.get_set_other _ hji _).trans hd) ?_
      show (s.setReady i []).readyOf j = _
      rw [readyOf_setReady, if_neg hji, hr']
    | report hr' hm =>
      have hvalues : (State.enqueue { s.setReady i [] with ctxs := s.ctxs.set i c.reported } (progressWrite i c)).reportValues =
          s.reportValues := reportValues_reported (hwf rfl) hc
      have hwrite : s.reportWrite =
          (State.enqueue { s.setReady i [] with ctxs := s.ctxs.set i c.reported } (progressWrite i c)).reportWrite := by
        rw [State.reportWrite, State.reportWrite, hvalues]; rfl
      rw [hwrite]
      exact .report hr' hm
  | report hr hm =>
    rw [entered_control hr]
    cases h' with
    | progress hd hr' => exact .progress hd hr'
    | report _ _ => exact absurd rfl hne

theorem entered_wf (h : SoleWrite s w q) (hwf : s.ctxs.wf = true) : (s.entered w q).ctxs.wf = true := by
  cases h with
  | progress hc hr => rw [entered_slot hc hr]; exact Table.wf_set _ _ _ hwf
  | report hr hm => rw [entered_control hr]; exact hwf

theorem SoleWrite.draws (h : SoleWrite s w q) (n : Nat) : SoleWrite { s with draws := n } w q := by
  cases h with
  | progress hc hr => exact .progress hc hr
  | report hr hm => exact .report (s := { s with draws := n }) hr hm

/-- What is so once each writer of `ws` has placed its one write. -/
structure PlacedEach (q : Writer → QWrite) (ws : List Writer) (s t : State) : Prop where
  apart : ∃ ctl ctxs ready, t =
    { s with ctl := ctl, ctxs := ctxs, ready := ready, port := { s.port with writeQueue := s.port.writeQueue ++ ws.map q } }
  ctxs : ∀ i, t.ctxs.get i = if .slot i ∈ ws then (s.ctxs.get i).map Ctx.reported else s.ctxs.get i
  ready : ∀ r ∈ t.ready.rows, r ∈ s.ready.rows ∧ .slot r.1 ∉ ws
  told : .control ∈ ws → t.ctl.reportOwed = false ∧ t.ctl.lastReport = some s.reportValues
  untold : .control ∉ ws → t.ctl = s.ctl
  messages : t.ctl.messages = s.ctl.messages

theorem PlacedEach.nil (q : Writer → QWrite) (s : State) : PlacedEach q [] s s where
  apart := ⟨s.ctl, s.ctxs, s.ready, by simp⟩
  ctxs _ := by simp
  ready r h := ⟨h, by simp⟩
  told h := by simp at h
  untold _ := rfl
  messages := rfl

/-- One more writer places first. -/
theorem PlacedEach.cons {q : Writer → QWrite} {ws : List Writer} (hq : q w = r) (h : SoleWrite s w r) (hw : w ∉ ws)
    (hwf : .control ∈ ws → s.ctxs.wf = true) (ht : PlacedEach q ws (s.entered w r) t) : PlacedEach q (w :: ws) s t where
  apart := by
    obtain ⟨ctl, ctxs, ready, he⟩ := h.entered_apart
    obtain ⟨ctl', ctxs', ready', ht'⟩ := ht.apart
    rw [he] at ht'
    exact ⟨ctl', ctxs', ready', by rw [ht']; simp [hq]⟩
  ctxs i := by
    rw [ht.ctxs]
    cases h with
    | progress hc hr =>
      next j c =>
      rw [entered_slot hc hr]
      show (if _ then ((s.ctxs.set j c.reported).get i).map _ else (s.ctxs.set j c.reported).get i) = _
      rw [Table.get_set]
      by_cases hi : i = j
      · subst hi; simp [hw, hc]
      · have : Writer.slot i ≠ .slot j := fun e => hi (Writer.slot.inj e)
        simp [hi]
    | report hr hm => rw [entered_control hr]; simp [State.enqueue]
  ready x hx := by
    obtain ⟨hmem, hnot⟩ := ht.ready x hx
    cases h with
    | progress hc hr =>
      next j c =>
      rw [entered_slot hc hr] at hmem
      have hmem' : x ∈ (s.ready.erase j).rows := hmem
      obtain ⟨hmem', hkey⟩ := List.mem_filter.mp hmem'
      refine ⟨hmem', fun h => (List.mem_cons.mp h).elim (fun e => ?_) hnot⟩
      simp [Writer.slot.inj e] at hkey
    | report hr hm =>
      rw [entered_control hr] at hmem
      exact ⟨hmem, fun h => (List.mem_cons.mp h).elim (nomatch ·) hnot⟩
  told hmem := by
    cases h with
    | progress hc hr =>
      next j c =>
      have hctl : Writer.control ∈ ws := by simpa using hmem
      have htold := ht.told hctl
      rw [entered_slot hc hr] at htold
      have hvalues : (State.enqueue { s.setReady j [] with ctxs := s.ctxs.set j c.reported } (progressWrite j c)).reportValues =
          s.reportValues := reportValues_reported (hwf hctl) hc
      rwa [hvalues] at htold
    | report hr hm =>
      rw [ht.untold hw, entered_control hr]
      exact ⟨rfl, rfl⟩
  untold hnot := by
    obtain ⟨hne, hrest⟩ : .control ≠ w ∧ .control ∉ ws := by simpa using hnot
    cases h with
    | progress hc hr => rw [ht.untold hrest, entered_slot hc hr]; rfl
    | report hr hm => exact absurd rfl hne
  messages := by
    rw [ht.messages]
    cases h with
    | progress hc hr => rw [entered_slot hc hr]; rfl
    | report hr hm => rw [entered_control hr]; rfl

/-- Writers with one write ready each place them all, one after another, when there is room. -/
theorem offerEach_sole {q : Writer → QWrite} (ws : List Writer) (s : State) (hnodup : ws.Nodup) (hs : ∀ w ∈ ws, SoleWrite s w (q w))
    (hline : s.port.claimLine = []) (hready : s.walker.ready = none) (hroom : s.port.writeQueue.length + ws.length ≤ 64)
    (hwf : .control ∈ ws → s.ctxs.wf = true) : PlacedEach q ws s (State.offerEach ws s) := by
  induction ws generalizing s with
  | nil => exact .nil q s
  | cons w ws ih =>
    obtain ⟨hw, hnodup⟩ := List.nodup_cons.mp hnodup
    have hsole := hs w (by simp)
    obtain ⟨ctl, ctxs, ready, he⟩ := hsole.entered_apart
    rw [List.length_cons] at hroom
    rw [State.offerEach, hsole.offer hline hready (by omega)]
    refine .cons rfl hsole hw (fun h => hwf (List.mem_cons_of_mem _ h)) (ih _ hnodup (fun v hv => ?_) ?_ ?_ ?_ (fun h => ?_))
    · exact hsole.entered_other (hs v (List.mem_cons_of_mem _ hv)) (ne_of_mem_of_not_mem hv hw)
        (fun e => hwf (e ▸ List.mem_cons_of_mem _ hv))
    · rw [he]; exact hline
    · rw [he]; exact hready
    · rw [he]; simp only [List.length_append, List.length_singleton]; omega
    · exact entered_wf hsole (hwf (List.mem_cons_of_mem _ h))

theorem insertWriter_perm (draw : Nat) (w : Writer) (ws : List Writer) : (insertWriter draw w ws).Perm (w :: ws) := by
  induction ws with
  | nil => exact .refl _
  | cons v rest ih =>
    rw [insertWriter]
    split
    · exact .refl _
    · exact (ih.cons v).trans (.swap w v rest)

theorem orderWriters_perm (draw : Nat) (ws : List Writer) : (orderWriters draw ws).Perm ws := by
  induction ws with
  | nil => exact .refl _
  | cons w ws ih => exact (insertWriter_perm draw w _).trans (ih.cons w)

theorem newWriters_nodup (h : s.ready.wf = true) : s.newWriters.Nodup := by
  refine List.Nodup.filter _ (List.nodup_append.mpr ⟨by decide, (Table.keys_nodup h).map (fun a b e => Writer.slot.inj e), ?_⟩)
  intro a ha b hb e
  obtain ⟨i, -, rfl⟩ := List.mem_map.mp hb
  simp [e] at ha

/-- The write that writer `w` has ready. -/
def State.readied (s : State) (w : Writer) : QWrite := (s.nextWrite w).getD s.reportWrite

theorem SoleWrite.readied (h : SoleWrite s w q) : s.readied w = q := by rw [State.readied, h.nextWrite]; rfl

/-- The end of an event in which every writer that has something new has one write: all of them are placed, in some order. -/
theorem offerReady_sole (hready : s.ready.wf = true) (hs : ∀ w ∈ s.newWriters, ∃ q, SoleWrite s w q)
    (hline : s.port.claimLine = []) (hwalker : s.walker.ready = none) (hroom : s.port.writeQueue.length + s.newWriters.length ≤ 64)
    (hwf : .control ∈ s.newWriters → s.ctxs.wf = true) :
    ∃ ws n, ws.Perm s.newWriters ∧ PlacedEach s.readied ws { s with draws := n } s.offerReady := by
  have hperm := orderWriters_perm s.draws s.newWriters
  have hplaced : ∀ n, PlacedEach s.readied (orderWriters s.draws s.newWriters) { s with draws := n }
      (State.offerEach (orderWriters s.draws s.newWriters) { s with draws := n }) := fun n => by
    refine offerEach_sole _ _ (hperm.nodup_iff.mpr (newWriters_nodup hready)) (fun w hw => ?_) hline hwalker
      (by rw [hperm.length_eq]; exact hroom) (fun h => hwf (hperm.mem_iff.mp h))
    obtain ⟨q, hq⟩ := hs w (hperm.mem_iff.mp hw)
    rw [hq.readied]
    exact hq.draws n
  refine ⟨_, if 2 ≤ s.newWriters.length then s.draws + 1 else s.draws, hperm, ?_⟩
  have hoffer : s.offerReady = State.offerEach (orderWriters s.draws s.newWriters)
      { s with draws := if 2 ≤ s.newWriters.length then s.draws + 1 else s.draws } := by
    simp only [State.offerReady, offer_none s .walker hwalker]
    split <;> rfl
  rw [hoffer]
  exact hplaced _

end Sys2Proof.Machine
end

section
/-! PROOFS. A tick (R35, R116, R157, R177, R190). -/

namespace Sys2Proof.Machine

/-! ### What a tick owes -/

/-- Context `i` owes a progress write at a tick (R35, cause 4). -/
def State.owesAtTick (s : State) (i : Nat) : Prop := ∃ c, s.ctxs.get i = some c ∧ c.silent = false ∧ c.progressStale = true

/-- Each slot has a progress write ready or nothing. -/
def State.progressAlone (s : State) : Prop := ∀ i, s.readyOf i = [] ∨ s.readyOf i = [.progress]

theorem oweProgress_readyOf {s : State} {i : Nat} {c : Ctx} (hc : s.ctxs.get i = some c) (hs : c.silent = false)
    (h : s.readyOf i = [] ∨ s.readyOf i = [.progress]) (j : Nat) :
    (s.oweProgress i).readyOf j = if j = i then [.progress] else s.readyOf j := by
  simp only [State.oweProgress, hc, hs, Bool.false_eq_true, false_or]
  rcases h with h | h
  · rw [if_neg (by simp [h]), readyOf_setReady, h]
    rfl
  · rw [if_pos (by simp [h])]
    split
    · next e => rw [e, h]
    · rfl

theorem oweProgress_silent {s : State} {i : Nat} {c : Ctx} (hc : s.ctxs.get i = some c) (hs : c.silent = true) :
    s.oweProgress i = s := by
  simp [State.oweProgress, hc, hs]

/-- What the tick does for one context. -/
def State.oweIfStale (s : State) (i : Nat) : State :=
  match s.ctxs.get i with
  | some c => if c.progressStale then s.oweProgress i else s
  | none => s

theorem oweStale_cons (i : Nat) (is : List Nat) (s : State) : State.oweStale (i :: is) s = State.oweStale is (s.oweIfStale i) := rfl

theorem oweProgress_apart (s : State) (i : Nat) : ∃ r, s.oweProgress i = { s with ready := r } ∧ (s.ready.wf = true → r.wf = true) := by
  unfold State.oweProgress
  split
  · split
    · exact ⟨s.ready, rfl, id⟩
    · refine ⟨_, rfl, fun h => ?_⟩
      rw [if_neg (by simp)]
      exact Table.wf_set _ _ _ h
  · exact ⟨s.ready, rfl, id⟩

theorem oweIfStale_apart (s : State) (i : Nat) : ∃ r, s.oweIfStale i = { s with ready := r } ∧ (s.ready.wf = true → r.wf = true) := by
  unfold State.oweIfStale
  split
  · split
    · exact oweProgress_apart s i
    · exact ⟨s.ready, rfl, id⟩
  · exact ⟨s.ready, rfl, id⟩

open Classical in
theorem oweIfStale_readyOf {s : State} {i : Nat} (h : s.progressAlone) (j : Nat) :
    (s.oweIfStale i).readyOf j = if j = i ∧ s.owesAtTick i then [.progress] else s.readyOf j := by
  cases hc : s.ctxs.get i with
  | none => simp [State.oweIfStale, State.owesAtTick, hc]
  | some c =>
    cases hstale : c.progressStale with
    | false => simp [State.oweIfStale, State.owesAtTick, hc, hstale]
    | true =>
      cases hs : c.silent with
      | true => simp [State.oweIfStale, State.owesAtTick, hc, hstale, hs, oweProgress_silent hc hs]
      | false =>
        have hreadyOf := oweProgress_readyOf hc hs (h i) j
        simpa [State.oweIfStale, State.owesAtTick, hc, hstale, hs] using hreadyOf

theorem oweStale_apart (is : List Nat) (s : State) :
    ∃ r, State.oweStale is s = { s with ready := r } ∧ (s.ready.wf = true → r.wf = true) := by
  induction is generalizing s with
  | nil => exact ⟨s.ready, rfl, id⟩
  | cons i is ih =>
    obtain ⟨r, hr, hwf⟩ := oweIfStale_apart s i
    obtain ⟨r', hr', hwf'⟩ := ih (s.oweIfStale i)
    rw [hr] at hr' hwf'
    exact ⟨r', by rw [oweStale_cons, hr, hr'], hwf' ∘ hwf⟩

open Classical in
/-- After a tick each listed context that owes its progress has it ready. -/
theorem oweStale_readyOf {s : State} (is : List Nat) (h : s.progressAlone) (j : Nat) :
    (State.oweStale is s).readyOf j = if j ∈ is ∧ s.owesAtTick j then [.progress] else s.readyOf j := by
  induction is generalizing s with
  | nil => simp [State.oweStale]
  | cons i is ih =>
    have hone := oweIfStale_readyOf (s := s) (i := i) h
    obtain ⟨r, hr, -⟩ := oweIfStale_apart s i
    have howes : ∀ k, (s.oweIfStale i).owesAtTick k ↔ s.owesAtTick k := fun k => by rw [hr]; rfl
    have halone : (s.oweIfStale i).progressAlone := fun k => by
      rw [hone]
      split
      · exact .inr rfl
      · exact h k
    rw [oweStale_cons, ih halone, hone]
    simp only [howes, List.mem_cons]
    by_cases hj : j = i
    · subst hj; by_cases ho : s.owesAtTick j <;> simp [ho]
    · simp [hj]

/-- What the tick does before anything is owed. -/
def State.ticked (s : State) : State :=
  { s with gov := s.gov.refill, ctxs := s.ctxs.mapValues (Ctx.tickTimer s.gov.level), walker := s.walker.tickBlocked }

theorem tick_eq (s : State) : s.tick = (State.oweStale s.ticked.ctxs.keys s.ticked).oweStaleReport := rfl

theorem tick_placing (s : State) : Placing s.ticked s.tick :=
  (oweStale_placing _ _).trans (oweStaleReport_placing _)

/-! ### A timer that advances is not seen by what is written -/

theorem tickTimer_eq (level : Nat) (c : Ctx) : c.tickTimer level =
    { c with elapsed := if c.timerRuns = true ∧ level ≠ 0 then min c.geo.stallLimit (c.elapsed + 1) else c.elapsed } := by
  unfold Ctx.tickTimer
  split <;> rfl

theorem tickTimer_state (level : Nat) (c : Ctx) : (c.tickTimer level).state = c.state := by rw [tickTimer_eq]
theorem tickTimer_progressStale (level : Nat) (c : Ctx) : (c.tickTimer level).progressStale = c.progressStale := by
  rw [tickTimer_eq]; rfl
theorem tickTimer_silent (level : Nat) (c : Ctx) : (c.tickTimer level).silent = c.silent := by rw [tickTimer_eq]; rfl
theorem tickTimer_progressWrite (level i : Nat) (c : Ctx) : progressWrite i (c.tickTimer level) = progressWrite i c := by
  rw [tickTimer_eq]; rfl
theorem tickTimer_reported (level : Nat) (c : Ctx) :
    (c.tickTimer level).reported.lastProgress = some (c.retired, c.counters) := by rw [tickTimer_eq]; rfl

theorem silent_eq_false_iff (c : Ctx) : c.silent = false ↔ ¬(c.state = .draining ∧ c.cells = [] ∧ c.teardown ≠ .closing) := by
  simp only [Ctx.silent, Bool.and_eq_false_iff, beq_eq_false_iff_ne, bne_eq_false_iff_eq, List.isEmpty_eq_false_iff]
  tauto

theorem progressStale_iff (c : Ctx) : c.progressStale = true ↔ ∃ last, c.lastProgress = some last ∧ last ≠ (c.retired, c.counters) := by
  unfold Ctx.progressStale
  cases c.lastProgress <;> simp

theorem ticked_get {s : State} {i : Nat} {c : Ctx} (hc : s.ctxs.get i = some c) : s.ticked.ctxs.get i = some (c.tickTimer s.gov.level) := by
  simp [State.ticked, hc]

theorem ticked_holds {s : State} {i : Nat} (h : s.holds i) : s.ticked.holds i :=
  holds_of h (fun hi => by simpa [State.ticked] using hi) rfl

theorem ticked_reportValues (s : State) : s.ticked.reportValues = { s.reportValues with credit := s.gov.refill.credit } := by
  simp only [State.reportValues, State.ticked, Table.mapValues, List.countP_map, Function.comp_def, tickTimer_state]
  rfl

/-! ### The writers of a calm tick -/

theorem calm_progressAlone {s : State} (h : s.ready.rows = []) : s.progressAlone := fun i => by
  simp [State.readyOf, Table.get, h, findRow]

theorem owesAtTick_ticked (s : State) (i : Nat) : s.ticked.owesAtTick i ↔ s.owesAtTick i := by
  simp only [State.owesAtTick, State.ticked, Table.get_mapValues, Option.map_eq_some_iff]
  constructor
  · rintro ⟨-, ⟨c, hc, rfl⟩, h1, h2⟩
    exact ⟨c, hc, (tickTimer_silent _ c).symm.trans h1, (tickTimer_progressStale _ c).symm.trans h2⟩
  · rintro ⟨c, hc, h1, h2⟩
    exact ⟨_, ⟨c, hc, rfl⟩, (tickTimer_silent _ c).trans h1, (tickTimer_progressStale _ c).trans h2⟩

/-- The tick owes a report: the chain region is valid and a value differs from the last report's (R190). -/
def State.tellsAtTick (s : State) : Prop := s.ctl.regionValid = true ∧ s.ctl.lastReport ≠ some s.ticked.reportValues

/-- What a tick has readied in a state in which nothing was left over. -/
structure TickReadied (s u : State) : Prop where
  apart : ∃ ctl ready, u = { s.ticked with ctl := ctl, ready := ready }
  ready : u.ready.wf = true
  slots : ∀ i, u.readyOf i = [.progress] ∨ u.readyOf i = []
  owes : ∀ i, u.readyOf i = [.progress] ↔ s.owesAtTick i
  control : u.ctl = { s.ctl with reportOwed := u.ctl.reportOwed }
  values : u.reportValues = s.ticked.reportValues
  tells : u.reportReady = true ↔ s.tellsAtTick

theorem tick_readied {s : State} (h : Calm s) : TickReadied s s.tick := by
  obtain ⟨r, hr, hwf⟩ := oweStale_apart s.ticked.ctxs.keys s.ticked
  have hreadyOf := fun j => oweStale_readyOf (s := s.ticked) s.ticked.ctxs.keys (calm_progressAlone h.ready) j
  have hnone : ∀ j, s.ticked.readyOf j = [] := fun j => by
    show (findRow j s.ready.rows).getD [] = []
    rw [h.ready]; rfl
  have hkeys : ∀ j, s.ticked.owesAtTick j → j ∈ s.ticked.ctxs.keys := fun j ⟨c, hc, _⟩ => Table.mem_keys_of_get hc
  have hticked : (State.oweStale s.ticked.ctxs.keys s.ticked).reportValues = s.ticked.reportValues := by rw [hr]; rfl
  have hctl : (State.oweStale s.ticked.ctxs.keys s.ticked).ctl = s.ctl := by rw [hr]; rfl
  have hmiss : s.ticked.ready.wf = true := by
    show risingRows s.ready.rows = true
    rw [h.ready]; rfl
  obtain ⟨ctl, hu, hcontrol, htells⟩ : ∃ ctl, s.tick = { State.oweStale s.ticked.ctxs.keys s.ticked with ctl := ctl } ∧
      ctl = { s.ctl with reportOwed := ctl.reportOwed } ∧ ((ctl.reportOwed && ctl.regionValid) = true ↔ s.tellsAtTick) := by
    rw [tick_eq, State.oweStaleReport, hticked, State.oweReport, hctl]
    split
    · next hsame => exact ⟨s.ctl, by rw [← hctl], rfl, by simp [h.owed, State.tellsAtTick, hsame]⟩
    · next hdiff =>
      split
      · next hvalid => exact ⟨{ s.ctl with reportOwed := true }, rfl, rfl, by
          show (true && s.ctl.regionValid) = true ↔ _
          simp [State.tellsAtTick, hvalid, hdiff]⟩
      · next hinvalid => exact ⟨s.ctl, by rw [← hctl], rfl, by simp [h.owed, State.tellsAtTick, hinvalid]⟩
  have hready : ∀ j, s.tick.readyOf j = (State.oweStale s.ticked.ctxs.keys s.ticked).readyOf j := fun j => by rw [hu]; rfl
  refine ⟨⟨ctl, r, by rw [hu, hr]⟩, by rw [hu, hr]; exact hwf hmiss, fun i => ?_, fun i => ?_, by rw [hu]; exact hcontrol,
    by rw [← hticked, hu, State.reportValues, hcontrol, State.reportValues, hctl], by rw [hu]; exact htells⟩
  · rw [hready, hreadyOf, hnone]
    split
    · exact .inl rfl
    · exact .inr rfl
  · rw [hready, hreadyOf, hnone, ← owesAtTick_ticked s i]
    split
    · next hi => exact ⟨fun _ => hi.2, fun _ => rfl⟩
    · next hi => exact ⟨fun e => by simp at e, fun ho => absurd ⟨hkeys i ho, ho⟩ hi⟩

section Tick

variable {s u : State} (hcalm : Calm s) (h : TickReadied s u)
include hcalm h

theorem tickReadied_slot {i : Nat} : .slot i ∈ u.newWriters ↔ s.owesAtTick i := by
  obtain ⟨ctl, ready, hu⟩ := h.apart
  rw [newWriters_eq (by rw [hu]; exact hcalm.line), ← h.owes]
  simp only [List.mem_filter, List.mem_append, List.mem_map]
  constructor
  · rintro ⟨-, hn⟩
    rcases h.slots i with hr | hr
    · exact hr
    · rw [nextWrite_slot_nil hr] at hn; cases hn
  · intro hr
    obtain ⟨c, hc, -⟩ := (h.owes i).mp hr
    have hget : u.ctxs.get i = some (c.tickTimer s.gov.level) := by rw [hu]; exact ticked_get hc
    refine ⟨.inr ⟨i, ?_, rfl⟩, by rw [nextWrite_progress hget hr]; rfl⟩
    cases hg : u.ready.get i with
    | none => simp [State.readyOf, hg] at hr
    | some ws => exact Table.mem_keys_of_get hg

theorem tickReadied_control : .control ∈ u.newWriters ↔ s.tellsAtTick := by
  obtain ⟨ctl, ready, hu⟩ := h.apart
  have hmessages : u.ctl.messages = 0 := by rw [h.control]; exact hcalm.messages
  rw [newWriters_eq (by rw [hu]; exact hcalm.line), ← h.tells]
  cases hr : u.reportReady <;> simp [State.nextWrite, hr, hmessages]

theorem tickReadied_sole {w : Writer} (hw : w ∈ u.newWriters) :
    (∃ i c, w = .slot i ∧ s.ctxs.get i = some c ∧ s.owesAtTick i ∧ SoleWrite u w (progressWrite i c)) ∨
    (w = .control ∧ s.tellsAtTick ∧ SoleWrite u w u.reportWrite) := by
  obtain ⟨ctl, ready, hu⟩ := h.apart
  cases w with
  | slot i =>
    have ho := (tickReadied_slot hcalm h).mp hw
    obtain ⟨c, hc, -⟩ := id ho
    have hget : u.ctxs.get i = some (c.tickTimer s.gov.level) := by rw [hu]; exact ticked_get hc
    refine .inl ⟨i, c, rfl, hc, ho, ?_⟩
    rw [← tickTimer_progressWrite s.gov.level]
    exact .progress hget ((h.owes i).mpr ho)
  | control =>
    have ht := (tickReadied_control hcalm h).mp hw
    exact .inr ⟨rfl, ht, .report (h.tells.mpr ht) (by rw [h.control]; exact hcalm.messages)⟩
  | walker => simp [State.newWriters] at hw
  | registry =>
    have hn := (List.mem_filter.mp hw).2
    rw [nextWrite_registry_none (by rw [hu]; exact hcalm.statuses)] at hn
    cases hn
  | emit =>
    have hn := (List.mem_filter.mp hw).2
    rw [nextWrite_emit_none (by rw [hu]; exact hcalm.units)] at hn
    cases hn

theorem tickReadied_length : u.newWriters.length ≤ s.ctxs.size + 1 := by
  have hsub : u.newWriters ⊆ .control :: s.ctxs.keys.map Writer.slot := fun w hw => by
    rcases tickReadied_sole hcalm h hw with ⟨i, c, rfl, hc, -⟩ | ⟨rfl, -⟩
    · exact List.mem_cons_of_mem _ (List.mem_map_of_mem (Table.mem_keys_of_get hc))
    · exact List.mem_cons_self
  have hlength := (List.subperm_of_subset (newWriters_nodup h.ready) hsub).length_le
  simpa [Table.keys, Table.size] using hlength

end Tick

theorem ticked_wf {s : State} (h : s.ctxs.wf = true) : s.ticked.ctxs.wf = true := Table.wf_mapValues _ _ h

/-- Settles O13: the tick's writers have one write each, and all of them are placed. -/
theorem tickRunsTimers : Obligations.TickRunsTimers := by
  intro s
  have hplacing : Placing s.ticked s.tick.offerReady := (tick_placing s).trans (offerReady_placing _)
  have hgov : s.tick.offerReady.gov = s.gov.refill := (congrArg State.gov hplacing.steady :)
  refine ⟨s.tick.offerReady, rfl, (congrArg (fun x : State => x.walker.blockedTimer) hplacing.steady :), fun i c hc hholds => ?_,
    fun hwf hcalm hready hroom => ?_⟩
  · obtain ⟨c', hc', hsteady⟩ := hplacing.ctx (ticked_get hc) (ticked_holds hholds)
    exact ⟨c', hc', by rw [hsteady, tickTimer_eq]; rfl⟩
  · have hcalm := s.calm_iff.mp hcalm
    have hu := tick_readied hcalm
    obtain ⟨ctl, ready, happart⟩ := hu.apart
    have hlength := tickReadied_length hcalm hu
    obtain ⟨ws, n, hperm, hplaced⟩ := offerReady_sole (s := s.tick) hu.ready
      (fun w hw => by rcases tickReadied_sole hcalm hu hw with ⟨i, c, -, -, -, hq⟩ | ⟨-, -, hq⟩ <;> exact ⟨_, hq⟩)
      (by rw [happart]; exact hcalm.line) (by rw [happart]; exact hready)
      (by rw [happart]; show s.port.writeQueue.length + _ ≤ 64; rw [← happart]; omega)
      (fun _ => by rw [happart]; exact ticked_wf hwf)
    have howes : ∀ i c, s.ctxs.get i = some c → (s.owesAtTick i ↔ ¬(c.state = .draining ∧ c.cells = [] ∧ c.teardown ≠ .closing) ∧
        ∃ last, c.lastProgress = some last ∧ last ≠ (c.retired, c.counters)) := fun i c hc => by
      rw [← silent_eq_false_iff, ← progressStale_iff, State.owesAtTick, hc]
      simp
    have hvalues : s.tick.reportValues = { s.reportValues with credit := s.tick.offerReady.gov.credit } := by
      rw [hgov, ← ticked_reportValues, hu.values]
    have htells : s.tellsAtTick ↔ chainRegionValid s.ctl.chnBase s.ctl.chnSize = true ∧
        s.ctl.lastReport ≠ some { s.reportValues with credit := s.tick.offerReady.gov.credit } := by
      rw [State.tellsAtTick, ticked_reportValues, hgov]; rfl
    have hreport : s.tick.reportWrite = { writer := .control, kind := .report, spans :=
        [{ addr := s.ctl.chnBase.toNat, bytes := reportBytes ({ s.reportValues with credit := s.tick.offerReady.gov.credit }) }] } := by
      rw [State.reportWrite, hvalues, hu.control]
    have hqueue : s.tick.offerReady.port.writeQueue = s.port.writeQueue ++ ws.map s.tick.readied := by
      obtain ⟨ctl', ctxs', ready', ht⟩ := hplaced.apart
      rw [ht, happart]; rfl
    intro owes progress values report tells
    refine ⟨ws.map s.tick.readied, hqueue, ?_, fun q => ?_, fun i c hc ho => ?_, fun ht => ?_⟩
    · refine List.Nodup.map_on (fun w hw v hv e => ?_) (hperm.nodup_iff.mpr (newWriters_nodup hu.ready))
      have hwriter : ∀ x ∈ ws, (s.tick.readied x).writer = x := fun x hx => by
        rcases tickReadied_sole hcalm hu (hperm.mem_iff.mp hx) with ⟨i, c, -, -, -, hq⟩ | ⟨-, -, hq⟩ <;>
          rw [hq.readied, hq.writer]
      rw [← hwriter w hw, e, hwriter v hv]
    · rw [List.mem_map]
      constructor
      · rintro ⟨w, hw, rfl⟩
        rcases tickReadied_sole hcalm hu (hperm.mem_iff.mp hw) with ⟨i, c, -, hc, ho, hq⟩ | ⟨-, ht, hq⟩
        · exact .inl ⟨i, c, hc, (howes i c hc).mp ho, hq.readied⟩
        · exact .inr ⟨htells.mp ht, hq.readied.trans hreport⟩
      · rintro (⟨i, c, hc, ho, rfl⟩ | ⟨ht, rfl⟩)
        · have hw := (tickReadied_slot hcalm hu).mpr ((howes i c hc).mpr ho)
          refine ⟨.slot i, hperm.mem_iff.mpr hw, ?_⟩
          rcases tickReadied_sole hcalm hu hw with ⟨j, d, hj, hd, -, hq⟩ | ⟨hj, -⟩
          · cases hj
            cases hc.symm.trans hd
            exact hq.readied
          · cases hj
        · have hw := (tickReadied_control hcalm hu).mpr (htells.mpr ht)
          refine ⟨.control, hperm.mem_iff.mpr hw, ?_⟩
          rcases tickReadied_sole hcalm hu hw with ⟨j, d, hj, -⟩ | ⟨-, -, hq⟩
          · cases hj
          · exact hq.readied.trans hreport
    · have hw := hperm.mem_iff.mpr ((tickReadied_slot hcalm hu).mpr ((howes i c hc).mpr ho))
      have hget : s.tick.ctxs.get i = some (c.tickTimer s.gov.level) := by rw [happart]; exact ticked_get hc
      rw [hplaced.ctxs, if_pos hw]
      show ((s.tick.ctxs.get i).map Ctx.reported).bind _ = _
      rw [hget]
      exact tickTimer_reported _ c
    · have hw := hperm.mem_iff.mpr ((tickReadied_control hcalm hu).mpr (htells.mpr ht))
      exact (hplaced.told hw).2.trans (congrArg some hvalues)

end Sys2Proof.Machine
end

section
/-! PROOFS. Opening positions and scanning the feed list (R51, R53, R54). -/

namespace Sys2Proof.Machine

/-! ### Tables and cells -/

theorem putRow_putRow {α : Type} (k : Nat) (u v : α) (rows : List (Nat × α)) : putRow k v (putRow k u rows) = putRow k v rows := by
  induction rows with
  | nil => simp [putRow]
  | cons r rest ih =>
    obtain ⟨j, w⟩ := r
    by_cases hlt : k < j
    · simp [putRow, hlt]
    · by_cases hj : j = k
      · simp [putRow, hj]
      · simp [putRow, hlt, hj, ih]

/-- Of two writes of one entry the later one stands. -/
theorem Table.set_set {α : Type} (t : Table α) (k : Nat) (u v : α) : (t.set k u).set k v = t.set k v :=
  congrArg Table.mk (putRow_putRow k u v t.rows)

theorem zeroCells_get (cells : List Nat) (store : Table (List Byte)) (n : Nat) :
    (zeroCells store cells).get n = if n ∈ cells then none else store.get n := by
  unfold zeroCells
  induction cells generalizing store with
  | nil => simp
  | cons m cells ih =>
    rw [List.foldl_cons, ih, Table.get_erase]
    by_cases hm : n = m
    · simp [hm]
    · simp [hm]

/-- Zeroed cells hold 00 throughout, the others what they held (R51, R61). -/
theorem cellBytesOf_zeroCells (cells : List Nat) (store : Table (List Byte)) (n : Nat) :
    cellBytesOf (zeroCells store cells) n = if n ∈ cells then List.replicate 4096 0 else cellBytesOf store n := by
  rw [cellBytesOf, zeroCells_get]
  split <;> rfl

/-! ### What a classification can do -/

/-- A position classified into, with nothing but LOGGED entries, as those of a position being opened. -/
structure Classified (s : State) (i e f seg : Nat) (t : State) : Prop where
  cases : t = s ∨ t = s.countLate i e ∨ t = s.feedOutcome e .unused ∨ t = s.countDuplicate i e ∨
    ∃ c p, s.ctxs.get i = some c ∧ c.holding seg = some p ∧ t = s.putEntry i seg f (some ⟨.logged, e, false⟩)

theorem classify_cases (s : State) (i e f seg : Nat) : Classified s i e f seg (s.classify i e f seg) := by
  refine ⟨?_⟩
  unfold State.classify
  split
  · exact .inl rfl
  · next c hc =>
    split
    · exact .inl rfl
    · split
      · exact .inr (.inl rfl)
      · split
        · exact .inl rfl
        · split
          · exact .inl rfl
          · next p hp =>
            split
            · exact .inr (.inl rfl)
            · split
              · exact .inr (.inr (.inl rfl))
              · split
                · exact .inr (.inr (.inr (.inr ⟨c, p, hc, hp, rfl⟩)))
                · split
                  · exact .inr (.inr (.inr (.inr ⟨c, p, hc, hp, rfl⟩)))
                  · exact .inr (.inr (.inr (.inr ⟨c, p, hc, hp, rfl⟩)))
                  · exact .inr (.inr (.inr (.inl rfl)))
                  · exact .inr (.inr (.inr (.inl rfl)))
                  · exact .inr (.inr (.inr (.inl rfl)))

/-- What handing outcomes and logging at segment `seg` of context `i` leaves: all but counters, entries and the one position. -/
structure ScanFrame (i seg : Nat) (s t : State) : Prop where
  only : OutcomesOnly s t
  spines : SpinesKept s t
  sinks : t.sinks = s.sinks
  others : ∀ j n, (j = i → ∀ c, s.ctxs.get i = some c → n ≠ seg % c.geo.width) → t.posAt j n = s.posAt j n

namespace ScanFrame

variable {i seg : Nat} {s t u : State}

theorem refl (i seg : Nat) (s : State) : ScanFrame i seg s s := ⟨.refl s, .refl s, rfl, fun _ _ _ => rfl⟩

theorem trans (h1 : ScanFrame i seg s t) (h2 : ScanFrame i seg t u) : ScanFrame i seg s u where
  only := h1.only.trans h2.only
  spines := h1.spines.trans h2.spines
  sinks := h2.sinks.trans h1.sinks
  others j n h := by
    rw [h2.others j n (fun hj c' hc' => ?_), h1.others j n h]
    cases hc : s.ctxs.get i with
    | none =>
      have hi := h1.spines i
      rw [hc, hc'] at hi
      cases hi
    | some c =>
      obtain ⟨d, hd, hspine⟩ := h1.spines.ctx hc
      cases hc'.symm.trans hd
      rw [spine_geo hspine]
      exact h hj c hc

theorem feedOutcome (i seg : Nat) (s : State) (e : Nat) (o : FeedOutcome) : ScanFrame i seg s (s.feedOutcome e o) :=
  ⟨feedOutcome_outcomesOnly s e o, (feedOutcome_bones s e o).spines, feedOutcome_sinks s e o, fun j n _ => feedOutcome_posAt s e o j n⟩

theorem counters (seg : Nat) (s : State) (i : Nat) (f : Ctx → Ctx) (hspine : ∀ c, (f c).spine = c.spine)
    (hslots : ∀ c, (f c).slots = c.slots) : ScanFrame i seg s (s.modCtx i f) :=
  ⟨modCtx_outcomesOnly s i f, modCtx_spines s i f hspine, modCtx_sinks s i f, fun j n _ => modCtx_posAt hslots j n⟩

theorem countLate (s : State) (i seg e : Nat) : ScanFrame i seg s (s.countLate i e) := by
  unfold State.countLate
  refine .trans ?_ (.feedOutcome i seg _ e .late)
  exact .counters seg s i _ (fun _ => rfl) (fun _ => rfl)

theorem countDuplicate (s : State) (i seg e : Nat) : ScanFrame i seg s (s.countDuplicate i e) := by
  unfold State.countDuplicate
  refine .trans ?_ (.feedOutcome i seg _ e .duplicate)
  exact .counters seg s i _ (fun _ => rfl) (fun _ => rfl)

end ScanFrame

theorem classify_scanFrame (s : State) (i e f seg : Nat) : ScanFrame i seg s (s.classify i e f seg) := by
  have h := classify_cases s i e f seg
  generalize s.classify i e f seg = t at h
  obtain rfl | rfl | rfl | rfl | ⟨c, p, hc, hp, rfl⟩ := h.cases
  · exact .refl i seg _
  · exact .countLate s i seg e
  · exact .feedOutcome i seg s e .unused
  · exact .countDuplicate s i seg e
  · refine ⟨putEntry_outcomesOnly s i seg f _, (putEntry_bones s i seg f _).spines, putEntry_sinks s i seg f _, fun j n h => ?_⟩
    rw [putEntry_posAt hc hp, if_neg (fun hjn => h hjn.1 c hc hjn.2)]

/-- One entry of the feed list is looked at (R54). -/
def State.scanOne (i seg e : Nat) (s : State) : State :=
  match s.feeds.get e with
  | some g => if inRange g.first g.count seg then s.classify i e g.frag seg else s
  | none => s

theorem scanFeeds_cons (i seg e : Nat) (es : List Nat) (s : State) :
    State.scanFeeds i seg (e :: es) s = State.scanFeeds i seg es (s.scanOne i seg e) := rfl

theorem scanOne_scanFrame (i seg e : Nat) (s : State) : ScanFrame i seg s (s.scanOne i seg e) := by
  unfold State.scanOne
  split
  · split
    · exact classify_scanFrame s i e _ seg
    · exact .refl i seg s
  · exact .refl i seg s

theorem scanFeeds_scanFrame (i seg : Nat) (es : List Nat) (s : State) : ScanFrame i seg s (State.scanFeeds i seg es s) := by
  induction es generalizing s with
  | nil => exact .refl i seg s
  | cons e es ih => rw [scanFeeds_cons]; exact (scanOne_scanFrame i seg e s).trans (ih _)

/-! ### Classification at a position being opened -/

/-- In `s` the position `p` of context `i`, which stands as `c` but for its lists and counters, is being opened for segment `seg`. -/
structure Opening (i seg : Nat) (c : Ctx) (s : State) (p : Position) : Prop where
  ctx : ∃ d, s.ctxs.get i = some d ∧ d.spine = c.spine
  holds : s.posAt i (seg % c.geo.width) = some p
  seg : p.seg = seg
  opened : p.state = .opened
  binds : p.binds = Table.empty
  logged : ∀ f en, p.row.get f = some en → en.state = .logged

/-- Segment `seg` lies in the window of a context whose window is open (R49). -/
structure Ctx.inWindow (c : Ctx) (seg : Nat) : Prop where
  live : c.state ≠ .pending
  base : c.base ≤ seg
  width : seg < c.base + c.geo.width

section Opening

variable {i seg : Nat} {c : Ctx} {s : State} {p : Position}

/-- A context that keeps its spine and holds the position is still being opened. -/
theorem Opening.step {t : State} {p' : Position} (h : Opening i seg c s p) (hspines : SpinesKept s t)
    (hp : t.posAt i (seg % c.geo.width) = some p') (hseg : p'.seg = p.seg) (hstate : p'.state = p.state) (hbinds : p'.binds = p.binds)
    (hlogged : ∀ f en, p'.row.get f = some en → en.state = .logged) : Opening i seg c t p' := by
  obtain ⟨d, hd, hspine⟩ := h.ctx
  obtain ⟨d', hd', hspine'⟩ := hspines.ctx hd
  exact ⟨⟨d', hd', hspine'.trans hspine⟩, hp, hseg.trans h.seg, hstate.trans h.opened, hbinds.trans h.binds, hlogged⟩

theorem Opening.holding {d : Ctx} (h : Opening i seg c s p) (hd : s.ctxs.get i = some d) (hspine : d.spine = c.spine) :
    d.holding seg = some p := by
  have hp := h.holds
  rw [posAt_some hd, ← spine_geo hspine] at hp
  exact holding_iff.mpr ⟨hp, h.seg⟩

/-- What the segment of an entry for fragment `f` becomes at a position being opened (R53): unused, if the fragment has FAILED; duplicate, if it
is logged already; logged, else, which is no outcome. -/
def Ctx.scanOutcome (c : Ctx) (p : Position) (f : Nat) : Option FeedOutcome :=
  if c.role f = .failed then some .unused else if (p.row.get f).isSome then some .duplicate else none

/-- The position once the segment of entry `e` for fragment `f` has been classified. -/
def Ctx.scanPut (c : Ctx) (p : Position) (e f : Nat) : Position :=
  if c.scanOutcome p f = none then p.putEntry f (some ⟨.logged, e, false⟩) else p

theorem scanOutcome_eq_none {f : Nat} : c.scanOutcome p f = none ↔ c.role f ≠ .failed ∧ p.row.get f = none := by
  unfold Ctx.scanOutcome
  split
  · next h => simp [h]
  · next h =>
    rw [ite_eq_right_iff, Option.isSome_iff_ne_none]
    simp [h]

theorem scanPut_row_get (e f g : Nat) :
    (c.scanPut p e f).row.get g = if g = f ∧ c.scanOutcome p f = none then some ⟨.logged, e, false⟩ else p.row.get g := by
  unfold Ctx.scanPut
  by_cases h : c.scanOutcome p f = none
  · simp [h, putEntry_row_get]
  · simp [h]

/-- The Feed Table once entry `e` has been handed that outcome, if any. -/
def State.feedsAfter (s : State) (e : Nat) : Option FeedOutcome → Table FeedEntry
  | none => s.feeds
  | some o => (s.feedOutcome e o).feeds

theorem feedsAfter_other {e d : Nat} (h : d ≠ e) (o : Option FeedOutcome) : (s.feedsAfter e o).get d = s.feeds.get d := by
  cases o with
  | none => rfl
  | some o =>
    have hl := congrArg Ledger.feeds (feedOutcome_ledger s e o)
    show (s.feedOutcome e o).ledger.feeds.get d = _
    rw [hl]
    exact hand_get_other s.ledger (x := (e, o)) h

/-- An entry handed an outcome, if it still stands, covers what it covered. -/
theorem feedsAfter_same {e : Nat} {g g' : FeedEntry} (hg : s.feeds.get e = some g) (o : Option FeedOutcome)
    (h : (s.feedsAfter e o).get e = some g') : g'.frag = g.frag ∧ g'.first = g.first ∧ g'.count = g.count := by
  cases o with
  | none => cases hg.symm.trans h; exact ⟨rfl, rfl, rfl⟩
  | some o =>
    have hl := congrArg Ledger.feeds (feedOutcome_ledger s e o)
    have h' : (s.feedOutcome e o).ledger.feeds.get e = some g' := h
    rw [hl, hand_get_same s.ledger (e, o)] at h'
    have hg' : s.ledger.feeds.get e = some g := hg
    simp only [hg', Option.bind_some] at h'
    split at h'
    · cases h'
    · cases h'; exact ⟨rfl, rfl, rfl⟩

theorem classify_opening (h : Opening i seg c s p) (hw : c.inWindow seg) (e f : Nat) :
    Opening i seg c (s.classify i e f seg) (c.scanPut p e f) ∧
    (s.classify i e f seg).feeds = s.feedsAfter e (c.scanOutcome p f) := by
  obtain ⟨d, hd, hspine⟩ := h.ctx
  have hhold := h.holding hd hspine
  have hlive : d.state ≠ .pending := by rw [spine_state hspine]; exact hw.live
  have hbase : ¬ seg < d.base := by rw [spine_base hspine]; exact Nat.not_lt.mpr hw.base
  have hwidth : ¬ d.base + d.geo.width ≤ seg := by rw [spine_base hspine, spine_geo hspine]; exact Nat.not_le.mpr hw.width
  have hopened : ¬ p.state ≠ .opened := not_not.mpr h.opened
  have hframe := classify_scanFrame s i e f seg
  simp only [State.classify, hd, hlive, hbase, hwidth, hhold, hopened, if_false, spine_role hspine f] at hframe ⊢
  unfold Ctx.scanPut Ctx.scanOutcome
  by_cases hfailed : c.role f = .failed
  · simp only [hfailed, if_true] at hframe ⊢
    exact ⟨h.step hframe.spines ((feedOutcome_posAt s e _ _ _).trans h.holds) rfl rfl rfl h.logged, rfl⟩
  · simp only [hfailed, if_false] at hframe ⊢
    cases hrow : p.row.get f with
    | none =>
      simp only [hrow] at hframe ⊢
      refine ⟨h.step hframe.spines ?_ rfl rfl rfl (fun g en hg => ?_), putEntry_feeds s i seg f _⟩
      · rw [putEntry_posAt hd hhold, if_pos ⟨rfl, by rw [spine_geo hspine]⟩]
        rfl
      · have hg' : (p.putEntry f (some ⟨.logged, e, false⟩)).row.get g = some en := hg
        rw [putEntry_row_get] at hg'
        split at hg'
        · cases hg'; rfl
        · exact h.logged g en hg'
    | some en =>
      have hen := h.logged f en hrow
      simp only [hrow, hen] at hframe ⊢
      refine ⟨h.step hframe.spines ?_ rfl rfl rfl h.logged, ?_⟩
      · exact ((feedOutcome_posAt _ e _ _ _).trans (modCtx_posAt (f := fun c => { c with
          counters := { c.counters with duplicate := bump16 c.counters.duplicate } }) (fun _ => rfl) _ _)).trans h.holds
      · show (State.countDuplicate s i e).ledger.feeds = (s.feedOutcome e .duplicate).ledger.feeds
        rw [State.countDuplicate, feedOutcome_ledger, modCtx_ledger, feedOutcome_ledger]

theorem covers_iff {g : FeedEntry} {f : Nat} : g.covers f seg = true ↔ g.frag = f ∧ inRange g.first g.count seg = true := by
  simp only [FeedEntry.covers, inRange, Bool.and_eq_true, beq_iff_eq, and_assoc]

/-- What looking at entry `e` of the feed list makes of the position. -/
def State.scanOnePut (s : State) (c : Ctx) (seg : Nat) (p : Position) (e : Nat) : Position :=
  match s.feeds.get e with
  | some g => if g.covers g.frag seg then c.scanPut p e g.frag else p
  | none => p

/-- What looking at entry `e` of the feed list hands it. -/
def State.scanOneOutcome (s : State) (c : Ctx) (seg : Nat) (p : Position) (e : Nat) : Option FeedOutcome :=
  match s.feeds.get e with
  | some g => if g.covers g.frag seg then c.scanOutcome p g.frag else none
  | none => none

theorem scanOneOutcome_none {e : Nat} (h : s.feeds.get e = none) : s.scanOneOutcome c seg p e = none := by
  simp [State.scanOneOutcome, h]

theorem scanOneOutcome_some {e : Nat} {g : FeedEntry} (h : s.feeds.get e = some g) :
    s.scanOneOutcome c seg p e = if g.covers g.frag seg then c.scanOutcome p g.frag else none := by
  simp [State.scanOneOutcome, h]

theorem scanOne_opening (h : Opening i seg c s p) (hw : c.inWindow seg) (e : Nat) :
    Opening i seg c (s.scanOne i seg e) (s.scanOnePut c seg p e) ∧
    (s.scanOne i seg e).feeds = s.feedsAfter e (s.scanOneOutcome c seg p e) := by
  unfold State.scanOne State.scanOnePut State.scanOneOutcome
  cases hg : s.feeds.get e with
  | none => exact ⟨h, rfl⟩
  | some g =>
    by_cases hr : inRange g.first g.count seg = true
    · simp only [hr, covers_iff.mpr ⟨rfl, hr⟩, if_true]
      exact classify_opening h hw e g.frag
    · have hcov : ¬ g.covers g.frag seg = true := fun hc => hr (covers_iff.mp hc).2
      simp only [hr, hcov]
      exact ⟨h, rfl⟩

/-- Entry `e` of `feeds` covers segment `seg` of fragment `f`. -/
def coversIn (feeds : Table FeedEntry) (f seg e : Nat) : Bool := (feeds.get e).any (fun g => g.covers f seg)

theorem coversIn_some {feeds : Table FeedEntry} {f e : Nat} {g : FeedEntry} (h : feeds.get e = some g) :
    coversIn feeds f seg e = g.covers f seg := by simp [coversIn, h]

/-- The entry of fragment `f` after one look. -/
theorem scanOnePut_row_get (e f : Nat) : (s.scanOnePut c seg p e).row.get f = (p.row.get f).or
    (if c.role f ≠ .failed ∧ coversIn s.feeds f seg e = true then some ⟨.logged, e, false⟩ else none) := by
  unfold State.scanOnePut
  cases hg : s.feeds.get e with
  | none => simp [coversIn, hg]
  | some g =>
    simp only [coversIn_some hg]
    by_cases hr : inRange g.first g.count seg = true
    · simp only [covers_iff.mpr ⟨rfl, hr⟩, if_true, scanPut_row_get, scanOutcome_eq_none, covers_iff, hr, and_true]
      by_cases hf : g.frag = f
      · subst hf
        by_cases hrole : c.role g.frag = .failed
        · simp [hrole]
        · cases hrow : p.row.get g.frag <;> simp [hrole]
      · simp [hf, Ne.symm hf]
    · simp [covers_iff, hr]

/-- A look does not change which entries cover a segment of a fragment that is not FAILED and is not logged yet. -/
theorem coversIn_scanOne (h : Opening i seg c s p) (hw : c.inWindow seg) (e : Nat) {f : Nat} (hrole : c.role f ≠ .failed)
    (hrow : (s.scanOnePut c seg p e).row.get f = none) (d : Nat) :
    coversIn (s.scanOne i seg e).feeds f seg d = coversIn s.feeds f seg d := by
  have hfeeds := (scanOne_opening h hw e).2
  by_cases hd : d = e
  · subst hd
    have hnot : coversIn s.feeds f seg d = false := by
      rw [scanOnePut_row_get] at hrow
      by_contra hcov
      simp [hrole, hcov] at hrow
    rw [hnot]
    cases hg' : (s.scanOne i seg d).feeds.get d with
    | none => simp [coversIn, hg']
    | some g' =>
      cases hg : s.feeds.get d with
      | none =>
        rw [hfeeds] at hg'
        simp [State.scanOneOutcome, hg, State.feedsAfter] at hg'
      | some g =>
        rw [hfeeds] at hg'
        obtain ⟨hfrag, hfirst, hcount⟩ := feedsAfter_same hg _ hg'
        rw [coversIn_some hg] at hnot
        rw [coversIn, hfeeds, hg', ← hnot]
        simp only [Option.any_some, FeedEntry.covers, hfrag, hfirst, hcount]
  · rw [coversIn, hfeeds, feedsAfter_other hd]
    rfl

/-- The entry that the oldest covering one of `es` gives fragment `f` (R54). -/
def Ctx.scannedIn (c : Ctx) (es : List Nat) (feeds : Table FeedEntry) (seg f : Nat) : Option LogEntry :=
  if c.role f = .failed then none else (es.find? (coversIn feeds f seg)).map (fun e => ⟨.logged, e, false⟩)

theorem scanned_eq (c : Ctx) (feeds : Table FeedEntry) (seg f : Nat) : c.scanned feeds seg f = c.scannedIn c.feedList feeds seg f := rfl

/-- The scan of the feed list gives each fragment the oldest entry that covers the segment (R54). -/
theorem scanFeeds_opening (es : List Nat) {s : State} {p : Position} (h : Opening i seg c s p) (hw : c.inWindow seg) :
    ∃ q, Opening i seg c (State.scanFeeds i seg es s) q ∧ ∀ f, q.row.get f = (p.row.get f).or (c.scannedIn es s.feeds seg f) := by
  induction es generalizing s p with
  | nil => exact ⟨p, h, fun f => by simp [Ctx.scannedIn]⟩
  | cons e es ih =>
    obtain ⟨q, hq, hrow⟩ := ih (scanOne_opening h hw e).1
    refine ⟨q, hq, fun f => ?_⟩
    rw [hrow]
    by_cases hfailed : c.role f = .failed
    · simp [Ctx.scannedIn, hfailed, scanOnePut_row_get]
    · cases hput : (s.scanOnePut c seg p e).row.get f with
      | none =>
        have hcov := funext (coversIn_scanOne h hw e hfailed hput)
        rw [scanOnePut_row_get] at hput
        have hnone : p.row.get f = none ∧ coversIn s.feeds f seg e = false := by
          simpa [hfailed] using hput
        simp [Ctx.scannedIn, hfailed, hcov, hnone]
      | some en =>
        rw [scanOnePut_row_get] at hput
        cases hp : p.row.get f with
        | some en' => simpa [hp] using hput.symm
        | none =>
          have hcov : coversIn s.feeds f seg e = true := by
            by_contra hcov
            simp [hp, hcov] at hput
          simp [hp, hfailed, hcov] at hput
          simp [Ctx.scannedIn, hfailed, hcov, hput]

/-- An entry that is not in the list, or does not cover the segment, is handed nothing by the scan. -/
theorem scanFeeds_feeds_other (es : List Nat) {s : State} {p : Position} (h : Opening i seg c s p) (hw : c.inWindow seg) {e : Nat}
    (he : e ∉ es ∨ ∀ g, s.feeds.get e = some g → inRange g.first g.count seg = false) :
    (State.scanFeeds i seg es s).feeds.get e = s.feeds.get e := by
  induction es generalizing s p with
  | nil => rfl
  | cons d es ih =>
    have hone := scanOne_opening h hw d
    have hsame : (s.scanOne i seg d).feeds.get e = s.feeds.get e := by
      rw [hone.2]
      by_cases hed : e = d
      · subst hed
        rcases he with he | he
        · exact absurd List.mem_cons_self he
        · cases hg : s.feeds.get e with
          | none => rw [scanOneOutcome_none hg]; exact hg
          | some g =>
            have hcov : ¬ g.covers g.frag seg = true := fun hc => Bool.false_ne_true ((he g hg).symm.trans (covers_iff.mp hc).2)
            rw [scanOneOutcome_some hg, if_neg hcov]; exact hg
      · exact feedsAfter_other hed _
    rw [scanFeeds_cons, ih hone.1, hsame]
    rw [hsame]
    exact he.imp_left (fun he hmem => he (List.mem_cons_of_mem _ hmem))

/-- A position has one content. -/
theorem Opening.unique {q : Position} (h : Opening i seg c s p) (h' : Opening i seg c s q) : p = q :=
  Option.some.inj (h.holds.symm.trans h'.holds)

/-- The scan counts a covered segment against its entry, unless it logs the segment under that entry (R53, R54). -/
theorem scanFeeds_feeds (es : List Nat) {s : State} {p q : Position} (h : Opening i seg c s p) (hw : c.inWindow seg) (hes : es.Nodup)
    (hfresh : ∀ f en, p.row.get f = some en → en.feed ∉ es) (hq : Opening i seg c (State.scanFeeds i seg es s) q) {e : Nat} {g : FeedEntry}
    (he : e ∈ es) (hg : s.feeds.get e = some g) :
    (State.scanFeeds i seg es s).feeds.get e =
      if g.covers g.frag seg = true ∧ q.row.get g.frag ≠ some ⟨.logged, e, false⟩ then
        (s.feedOutcome e (if c.role g.frag = .failed then .unused else .duplicate)).feeds.get e
      else some g := by
  induction es generalizing s p with
  | nil => cases he
  | cons d es ih =>
    obtain ⟨hd, hes⟩ := List.nodup_cons.mp hes
    have hone := scanOne_opening h hw d
    rw [scanFeeds_cons] at hq ⊢
    obtain ⟨q', hq', hrow⟩ := scanFeeds_opening es hone.1 hw
    cases hq.unique hq'
    rcases List.mem_cons.mp he with rfl | he
    · rw [scanFeeds_feeds_other es hone.1 hw (.inl hd), hone.2, scanOneOutcome_some hg]
      by_cases hcov : g.covers g.frag seg = true
      · simp only [hcov, if_true, true_and, hrow, scanOnePut_row_get, coversIn_some hg, and_true]
        unfold Ctx.scanOutcome
        have hne : ∀ en, p.row.get g.frag = some en → en ≠ ⟨.logged, e, false⟩ := fun en hen heq =>
          hfresh g.frag en hen (by rw [heq]; exact List.mem_cons_self)
        cases hp : p.row.get g.frag with
        | none => by_cases hfailed : c.role g.frag = .failed <;> simp [hfailed, Ctx.scannedIn, State.feedsAfter, hg]
        | some en => by_cases hfailed : c.role g.frag = .failed <;> simp [hfailed, hne en hp, State.feedsAfter]
      · simp [hcov, State.feedsAfter, hg]
    · have hed : e ≠ d := ne_of_mem_of_not_mem he hd
      have hg1 : (s.scanOne i seg d).feeds.get e = some g := by rw [hone.2, feedsAfter_other hed, hg]
      have hfresh1 : ∀ f en, (s.scanOnePut c seg p d).row.get f = some en → en.feed ∉ es := by
        intro f en hen
        rw [scanOnePut_row_get, Option.or_eq_some_iff] at hen
        rcases hen with hen | ⟨-, hen⟩
        · exact fun hmem => hfresh f en hen (List.mem_cons_of_mem _ hmem)
        · split at hen
          · cases hen; exact hd
          · cases hen
      have hhand : ∀ o, ((s.scanOne i seg d).feedOutcome e o).feeds.get e = (s.feedOutcome e o).feeds.get e := fun o => by
        show ((s.scanOne i seg d).feedOutcome e o).ledger.feeds.get e = (s.feedOutcome e o).ledger.feeds.get e
        rw [feedOutcome_ledger, feedOutcome_ledger]
        exact hand_get_congr (hg1.trans hg.symm) o
      rw [ih hone.1 hes hfresh1 hq he hg1, hhand]

/-! ### A position is opened -/

/-- A position just opened (R51). -/
def freshPosition (seg : Nat) : Position := ⟨.opened, seg, Table.empty, Table.empty⟩

/-- The position has been opened, the feed list still to be scanned. -/
def State.freshAt (s : State) (i seg : Nat) (c : Ctx) : State :=
  { s with ctxs := s.ctxs.set i (c.putPosition seg (freshPosition seg)), store := zeroCells s.store (c.cellsOf seg) }

theorem openPosition_eq (hc : s.ctxs.get i = some c) (seg : Nat) :
    s.openPosition i seg = State.scanFeeds i seg c.feedList (s.freshAt i seg c) := by
  simp only [State.openPosition, hc]
  rfl

theorem openPosition_free (hc : s.ctxs.get i = none) (seg : Nat) : s.openPosition i seg = s := by
  simp only [State.openPosition, hc]

theorem freshAt_spines (hc : s.ctxs.get i = some c) (seg : Nat) : SpinesKept s (s.freshAt i seg c) := by
  intro j
  show ((s.ctxs.set i _).get j).map _ = _
  rw [Table.get_set]
  split
  · next hj => rw [hj, hc]; rfl
  · rfl

theorem freshAt_posAt (seg j n : Nat) : (s.freshAt i seg c).posAt j n =
    if j = i then (if n = seg % c.geo.width then some (freshPosition seg) else c.slots.get n) else s.posAt j n := by
  rw [setCtx_posAt (s := s) (i := i) (c' := c.putPosition seg (freshPosition seg)) rfl, Ctx.putPosition, Table.get_set]

theorem freshAt_opening (hc : s.ctxs.get i = some c) (seg : Nat) : Opening i seg c (s.freshAt i seg c) (freshPosition seg) where
  ctx := (freshAt_spines hc seg).ctx hc
  holds := by rw [freshAt_posAt, if_pos rfl, if_pos rfl]
  seg := rfl
  opened := rfl
  binds := rfl
  logged _ _ h := by cases h

/-- What opening positions of context `i` leaves: spines, Sink entries, and all that an event at the window leaves. -/
structure OpenFrame (s t : State) : Prop where
  only : WindowOnly s t
  spines : SpinesKept s t
  sinks : t.sinks = s.sinks

theorem OpenFrame.refl (s : State) : OpenFrame s s := ⟨.refl s, .refl s, rfl⟩

theorem OpenFrame.trans {s t u : State} (h1 : OpenFrame s t) (h2 : OpenFrame t u) : OpenFrame s u :=
  ⟨h1.only.trans h2.only, h1.spines.trans h2.spines, h2.sinks.trans h1.sinks⟩

theorem openPosition_openFrame (s : State) (i seg : Nat) : OpenFrame s (s.openPosition i seg) := by
  cases hc : s.ctxs.get i with
  | none => rw [openPosition_free hc]; exact .refl s
  | some c =>
    have hscan := scanFeeds_scanFrame i seg c.feedList (s.freshAt i seg c)
    rw [openPosition_eq hc]
    exact OpenFrame.trans (t := s.freshAt i seg c) ⟨⟨rfl⟩, freshAt_spines hc seg, rfl⟩ ⟨hscan.only.toWindowOnly, hscan.spines, hscan.sinks⟩

theorem openRun_openFrame (i n seg : Nat) (s : State) : OpenFrame s (State.openRun i n seg s) := by
  induction n generalizing seg s with
  | zero => exact .refl s
  | succ n ih => exact (openPosition_openFrame s i seg).trans (ih (seg + 1) _)

/-- Opening touches one position. -/
theorem openPosition_posAt (hc : s.ctxs.get i = some c) (seg : Nat) {j n : Nat} (h : j = i → n ≠ seg % c.geo.width) :
    (s.openPosition i seg).posAt j n = s.posAt j n := by
  rw [openPosition_eq hc, (scanFeeds_scanFrame i seg c.feedList _).others j n (fun hj d hd => ?_), freshAt_posAt]
  · split
    · next hj => rw [if_neg (h hj), hj, posAt_some hc]
    · rfl
  · cases (Table.get_set_same s.ctxs i _).symm.trans hd
    exact h hj

/-- The position opened: OPEN and unbound, logged from the feed list (R51, R54). -/
theorem openPosition_opening (hc : s.ctxs.get i = some c) {seg : Nat} (hw : c.inWindow seg) :
    ∃ q, Opening i seg c (s.openPosition i seg) q ∧ ∀ f, q.row.get f = c.scanned s.feeds seg f := by
  obtain ⟨q, hq, hrow⟩ := scanFeeds_opening c.feedList (freshAt_opening hc seg) hw
  rw [openPosition_eq hc]
  refine ⟨q, hq, fun f => ?_⟩
  rw [hrow]
  exact Option.none_or

/-- What opening a position counts against the entries of the feed list (R53, R54). -/
theorem openPosition_feeds (hc : s.ctxs.get i = some c) {seg : Nat} (hw : c.inWindow seg) (hlist : c.feedList.Nodup) {e : Nat}
    {g : FeedEntry} (he : e ∈ c.feedList) (hg : s.feeds.get e = some g) : (s.openPosition i seg).feeds.get e =
      if g.covers g.frag seg = true ∧ c.scanned s.feeds seg g.frag ≠ some ⟨.logged, e, false⟩ then
        (s.feedOutcome e (if c.role g.frag = .failed then .unused else .duplicate)).feeds.get e
      else some g := by
  obtain ⟨q, hq, hrow⟩ := openPosition_opening hc hw
  rw [openPosition_eq hc] at hq ⊢
  have hhand : ∀ o, ((s.freshAt i seg c).feedOutcome e o).feeds.get e = (s.feedOutcome e o).feeds.get e := fun o => by
    show ((s.freshAt i seg c).feedOutcome e o).ledger.feeds.get e = (s.feedOutcome e o).ledger.feeds.get e
    rw [feedOutcome_ledger, feedOutcome_ledger]
    rfl
  rw [scanFeeds_feeds c.feedList (freshAt_opening hc seg) hw hlist (fun _ _ h => by cases h) hq he hg, hrow, hhand]

theorem openPosition_feeds_other (hc : s.ctxs.get i = some c) {seg : Nat} (hw : c.inWindow seg) {e : Nat}
    (he : e ∉ c.feedList ∨ ∀ g, s.feeds.get e = some g → inRange g.first g.count seg = false) :
    (s.openPosition i seg).feeds.get e = s.feeds.get e := by
  rw [openPosition_eq hc, scanFeeds_feeds_other c.feedList (freshAt_opening hc seg) hw he]
  rfl

end Opening

end Sys2Proof.Machine
end

section
/-! PROOFS. An OPEN accepted: the context it fills, the cells it takes or waits for, and the writes placed (R23, R24, R27, R31, R51, R124, R125). -/

namespace Sys2Proof.Machine

/-! ### Positions opened while the feed list is empty -/

/-- The context with the `n` positions from segment `seg` on opened and nothing logged. -/
def Ctx.openedRun : (n seg : Nat) → Ctx → Ctx
  | 0, _, c => c
  | n + 1, seg, c => Ctx.openedRun n (seg + 1) (c.putPosition seg (freshPosition seg))

theorem openedRun_bones (n seg : Nat) (c : Ctx) : (c.openedRun n seg).bones = c.bones := by
  induction n generalizing seg c with
  | zero => rfl
  | succ n ih => exact (ih (seg + 1) _).trans rfl

theorem openedRun_feedList (n seg : Nat) (c : Ctx) : (c.openedRun n seg).feedList = c.feedList := by
  induction n generalizing seg c with
  | zero => rfl
  | succ n ih => exact (ih (seg + 1) _).trans rfl

theorem openedRun_sinkList (n seg : Nat) (c : Ctx) : (c.openedRun n seg).sinkList = c.sinkList := by
  induction n generalizing seg c with
  | zero => rfl
  | succ n ih => exact (ih (seg + 1) _).trans rfl

theorem openedRun_slots (n seg : Nat) (c : Ctx) (h : seg + n ≤ c.geo.width) (m : Nat) :
    (c.openedRun n seg).slots.get m = if seg ≤ m ∧ m < seg + n then some (freshPosition m) else c.slots.get m := by
  induction n generalizing seg c with
  | zero => rw [if_neg (by omega)]; rfl
  | succ n ih =>
    have hmod : seg % c.geo.width = seg := Nat.mod_eq_of_lt (by omega)
    have hput : (c.putPosition seg (freshPosition seg)).slots = c.slots.set seg (freshPosition seg) := by
      rw [Ctx.putPosition, hmod]
    rw [Ctx.openedRun, ih (seg + 1) _ (by show seg + 1 + n ≤ c.geo.width; omega), hput, Table.get_set]
    by_cases hm : m = seg
    · subst hm; rw [if_neg (by omega), if_pos rfl, if_pos (by omega)]
    · rw [if_neg hm]
      by_cases hin : seg + 1 ≤ m ∧ m < seg + 1 + n
      · rw [if_pos hin, if_pos (by omega)]
      · rw [if_neg hin, if_neg (by omega)]

/-- Of an empty position table, the segments opened are held and no others. -/
theorem openedRun_holding {n : Nat} {c : Ctx} (h : n ≤ c.geo.width) (hslots : c.slots = Table.empty) (seg : Nat) :
    (c.openedRun n 0).holding seg = if seg < n then some (freshPosition seg) else none := by
  have hgeo : (c.openedRun n 0).geo = c.geo := (congrArg Ctx.geo (openedRun_bones n 0 c) :)
  have hget := openedRun_slots n 0 c (by omega) (seg % c.geo.width)
  rw [hslots] at hget
  simp only [Ctx.holding, hgeo, hget]
  by_cases hseg : seg < n
  · rw [Nat.mod_eq_of_lt (by omega), if_pos (by omega), if_pos hseg]
    simp [freshPosition]
  · rw [if_neg hseg]
    by_cases hin : 0 ≤ seg % c.geo.width ∧ seg % c.geo.width < 0 + n
    · rw [if_pos hin]
      simp [freshPosition, show seg % c.geo.width ≠ seg by omega]
    · rw [if_neg hin]
      rfl

theorem zeroCells_append (store : Table (List Byte)) (xs ys : List Nat) :
    zeroCells store (xs ++ ys) = zeroCells (zeroCells store xs) ys := List.foldl_append

/-- The state with these contexts and cells. -/
def State.holdingCtxs (s : State) (ctxs : Table Ctx) (store : Table (List Byte)) : State := { s with ctxs := ctxs, store := store }

/-- Opening positions of a context with an empty feed list touches that context's position table and the positions' cells. -/
theorem openRun_unlisted (i n seg : Nat) (s : State) (ctxs : Table Ctx) (store : Table (List Byte)) (c : Ctx)
    (hfeed : c.feedList = []) :
    State.openRun i n seg (s.holdingCtxs (ctxs.set i c) store) =
      s.holdingCtxs (ctxs.set i (c.openedRun n seg)) (zeroCells store ((List.range' seg n).flatMap c.cellsOf)) := by
  induction n generalizing seg store c with
  | zero => rfl
  | succ n ih =>
    have hfresh : (s.holdingCtxs (ctxs.set i c) store).openPosition i seg =
        s.holdingCtxs (ctxs.set i (c.putPosition seg (freshPosition seg))) (zeroCells store (c.cellsOf seg)) := by
      rw [openPosition_eq (s := s.holdingCtxs (ctxs.set i c) store) (Table.get_set_same _ _ _), hfeed, State.scanFeeds, State.freshAt]
      simp only [State.holdingCtxs, Table.set_set]
    rw [State.openRun, hfresh, ih (seg + 1) _ (c.putPosition seg (freshPosition seg)) hfeed, List.range'_succ, List.flatMap_cons, zeroCells_append]
    rfl

/-! ### The free cells -/

theorem any_putRow_new {α : Type} (p : α → Bool) {k : Nat} {v : α} {rows : List (Nat × α)} (h : findRow k rows = none) (hp : p v = false) :
    (putRow k v rows).any (fun r => p r.2) = rows.any (fun r => p r.2) := by
  induction rows with
  | nil => simp [putRow, hp]
  | cons r rest ih =>
    obtain ⟨j, u⟩ := r
    simp only [findRow] at h
    split at h
    · cases h
    · next hj =>
      rw [putRow]
      split
      · simp [hp]
      · rw [List.any_cons, List.any_cons, ih h]

/-- A context without cells, filled into a FREE slot, leaves the free cells. -/
theorem freeCellList_fill {s : State} {i : Nat} {c : Ctx} (hfree : s.ctxs.get i = none) (hcells : c.cells = []) :
    State.freeCellList { s with ctxs := s.ctxs.set i c } = s.freeCellList := by
  refine List.filter_congr (fun n _ => ?_)
  exact congrArg (!·) (any_putRow_new (fun d : Ctx => d.cells.contains n) hfree (by simp [hcells]))

/-! ### The context is placed -/

/-- The context that has just taken its cells (R27, R51). -/
def Ctx.seatedIn (c : Ctx) (cells : List Nat) : Ctx :=
  Ctx.openedRun (min c.geo.width c.geo.segCount) 0 { c with state := .solving, cells := cells }

/-- Context `c`, filled into slot `i`, has taken its cells and queues for the Solver, its progress owed. -/
def State.seatedAt (s : State) (i : Nat) (c : Ctx) : State :=
  { s with
    ctxs := s.ctxs.set i (c.seatedIn (s.freeCellList.take c.cellNeed)), freeCells := s.freeCells - c.cellNeed
    store := zeroCells s.store ((List.range' 0 (min c.geo.width c.geo.segCount)).flatMap
      (Ctx.cellsOf { c with state := .solving, cells := s.freeCellList.take c.cellNeed }))
    solveQueue := s.solveQueue ++ [i], ready := ⟨[(i, [.progress])]⟩ }

/-- Context `c`, filled into slot `i`, waits for cells, its progress owed. -/
def State.waitingAt (s : State) (i : Nat) (c : Ctx) : State :=
  { s with ctxs := s.ctxs.set i c, cellWait := s.cellWait ++ [i], ready := ⟨[(i, [.progress])]⟩ }

theorem placeContext_fits {s : State} {i : Nat} {c : Ctx} (hfree : s.ctxs.get i = none) (hready : s.ready.rows = [])
    (hfeed : c.feedList = []) (hcells : c.cells = []) (hfit : s.cellWait = [] ∧ c.cellNeed ≤ s.freeCells) :
    State.placeContext { s with ctxs := s.ctxs.set i c } i = s.seatedAt i c := by
  have hget : (s.ctxs.set i c).get i = some c := Table.get_set_same _ _ _
  have hlist := freeCellList_fill (s := s) (i := i) hfree hcells
  rw [State.placeContext]
  simp only [hget]
  rw [if_pos hfit, State.enterSolving]
  simp only [hget, hlist, Table.set_set]
  have hrun := openRun_unlisted i (min c.geo.width c.geo.segCount) 0 { s with freeCells := s.freeCells - c.cellNeed } s.ctxs s.store
    { c with state := .solving, cells := s.freeCellList.take c.cellNeed } hfeed
  simp only [State.holdingCtxs] at hrun
  rw [hrun]
  refine oweProgress_calm (s := State.joinSolve _ i) hready (Table.get_set_same _ _ _) ?_
  have hstate : (c.seatedIn (s.freeCellList.take c.cellNeed)).state = .solving := (congrArg Ctx.state (openedRun_bones _ 0 _) :)
  show (c.seatedIn _).silent = false
  simp [Ctx.silent, hstate]

theorem placeContext_waits {s : State} {i : Nat} {c : Ctx} (hready : s.ready.rows = []) (hstate : c.state = .pending)
    (hfit : ¬(s.cellWait = [] ∧ c.cellNeed ≤ s.freeCells)) :
    State.placeContext { s with ctxs := s.ctxs.set i c } i = s.waitingAt i c := by
  have hget : (s.ctxs.set i c).get i = some c := Table.get_set_same _ _ _
  rw [State.placeContext]
  simp only [hget]
  rw [if_neg hfit]
  exact oweProgress_calm (s := { s with ctxs := s.ctxs.set i c, cellWait := s.cellWait ++ [i] }) hready hget (by simp [Ctx.silent, hstate])

/-! ### The Walker's write first, then a slot's progress -/

/-- The write `q` that the Walker had ready has been placed. -/
def State.walkerPlaced (s : State) (q : QWrite) : State :=
  State.enqueue { s with walker := { s.walker with ready := none, dropped := none } } q

/-- The Walker places first; the others then do as if it had had nothing (R172). -/
theorem offerReady_walker {s : State} {q : QWrite} (hline : s.port.claimLine = []) (hq : s.walker.ready = some q)
    (hroom : s.port.writeQueue.length + 1 ≤ 64) : s.offerReady = (s.walkerPlaced q).offerReady := by
  have hfirst : s.offer .walker = s.walkerPlaced q := offer_walker s q hline hq hroom
  have hnone : (s.walkerPlaced q).offer .walker = s.walkerPlaced q := offer_none _ .walker rfl
  simp only [State.offerReady, hfirst, hnone]

/-- At the end of an event that readied the Walker's write and one context's progress, both are placed, in this order (R24, R36). -/
theorem offerReady_walker_progress {s : State} {q : QWrite} {i : Nat} {c : Ctx} (hline : s.port.claimLine = [])
    (hq : s.walker.ready = some q) (hready : s.ready.rows = [(i, [.progress])]) (hstatus : s.statusQueue = [])
    (howed : s.ctl.reportOwed = false) (hmessages : s.ctl.messages = 0) (hunits : ∀ e, s.emit = some e → e.targetsLeft = [])
    (hroom : s.port.writeQueue.length + 2 ≤ 64) (hc : s.ctxs.get i = some c) :
    s.offerReady = (s.walkerPlaced q).progressPlaced i c := by
  rw [offerReady_walker hline hq (by omega)]
  refine offerReady_progress hline hready hstatus howed hmessages hunits rfl ?_ hc
  show (s.port.writeQueue ++ [q]).length + 1 ≤ 64
  simp only [List.length_append, List.length_singleton]
  omega

/-! ### OPEN accepted -/

/-- The record's TAKEN, readied. -/
def State.takenReadied (s : State) (b : List Byte) : State := (s.fetched b).handle .taken 0 []

theorem dispatchOpen_accepted {s : State} {b : List Byte} (h : s.openRefusal b = none) : (s.fetched b).dispatchOpen b =
    State.placeContext { s.takenReadied b with ctxs := s.ctxs.set (recContext b) (newContext s.walker.next b) } (recContext b) := by
  have h' : (s.fetched b).openRefusal b = none := h
  rw [State.dispatchOpen, h']
  rfl

/-- The TAKEN write of the record at `addr` (R172, R196). -/
def takenWrite (addr : Word64) : QWrite := { writer := .walker, kind := .taken, spans := [outcomeBytes addr 1 0] }

/-- The end of an event that accepted an OPEN: the TAKEN and the context's progress are placed. -/
theorem settle_opened {s u : State} {b : List Byte} {i : Nat} {c : Ctx} (h : Calm s) (hroom : s.port.writeQueue.length + 2 ≤ 64)
    (hready : u.ready.rows = [(i, [.progress])]) (hc : u.ctxs.get i = some c)
    (hu : ∃ ctxs freeCells cellWait ready solveQueue store, u = { s.takenReadied b with
      ctxs := ctxs, freeCells := freeCells, cellWait := cellWait, ready := ready, solveQueue := solveQueue, store := store }) :
    u.settle = (u.startSolve.walkerPlaced (takenWrite s.walker.next)).progressPlaced i c := by
  obtain ⟨ctxs, freeCells, cellWait, ready, solveQueue, store, hu⟩ := hu
  obtain ⟨queue, solve, hstart⟩ := startSolve_apart u
  rw [settle_of_startSolve (s := u) rfl (by rw [hstart, hu]; exact h.combines) (by rw [hstart, hu]; exact h.emits)]
  rw [hu] at hstart
  rw [hu] at hready hc
  exact offerReady_walker_progress (by rw [hu, hstart]; exact h.line) (by rw [hu, hstart]; rfl) (by rw [hu, hstart]; exact hready)
    (by rw [hu, hstart]; exact h.statuses) (by rw [hu, hstart]; exact h.owed) (by rw [hu, hstart]; exact h.messages)
    (by rw [hu, hstart]; exact h.units) (by rw [hu, hstart]; exact hroom) (by rw [hu, hstart]; exact hc)

theorem recGeometry_eq (addr : Word64) (b : List Byte) : recGeometry addr b =
    { openAddr := addr, notify := recNotify b, stripe := BitVec.ofNat 64 (fieldAt b 16 8),
      epoch := BitVec.ofNat 32 (fieldAt b 24 4), k := fieldAt b 32 1, m := fieldAt b 33 1, sizeCode := fieldAt b 34 1,
      fragLength := fieldAt b 28 4, width := fieldAt b 35 1,
      errorLimit := if fieldAt b 36 1 = 0 then 1 else if 15 < fieldAt b 36 1 then 15 else fieldAt b 36 1,
      stallLimit := if 60000 < fieldAt b 40 2 then 60000 else fieldAt b 40 2 } := by
  have herror : max 1 (min 15 (fieldAt b 36 1)) = if fieldAt b 36 1 = 0 then 1 else if 15 < fieldAt b 36 1 then 15 else fieldAt b 36 1 := by
    split
    · omega
    · split <;> omega
  have hstall : min 60000 (fieldAt b 40 2) = if 60000 < fieldAt b 40 2 then 60000 else fieldAt b 40 2 := by
    split <;> omega
  simp only [recGeometry, recStripe, herror, hstall]

/-- An accepted record's role bytes name the roles of its context (R22, R24). -/
theorem roleOfByte_newContext (addr : Word64) {b : List Byte} (h : openBodyValid b = true) {f : Nat} (hf : f < 24) :
    roleOfByte (byteAt b (48 + f)) = some ((newContext addr b).role f) := by
  obtain ⟨-, -, -, -, -, -, -, -, hroles, -⟩ := (openBodyValid_iff b).mp h
  obtain ⟨r, hr⟩ := Option.isSome_iff_exists.mp ((roleOfByte_isSome_iff _).mpr (hroles f hf))
  rw [role_newContext addr b hf, hr]
  rfl

/-- What an accepted OPEN's context keeps of the record, wherever it is placed. -/
structure Ctx.asRecorded (c : Ctx) (addr : Word64) (b : List Byte) : Prop where
  bones : { c.bones with state := .pending, cells := [] } = (newContext addr b).bones
  feedList : c.feedList = []
  sinkList : c.sinkList = []

theorem asRecorded_new (addr : Word64) (b : List Byte) : (newContext addr b).asRecorded addr b := ⟨rfl, rfl, rfl⟩

theorem asRecorded_seatedIn (addr : Word64) (b : List Byte) (cells : List Nat) :
    ((newContext addr b).seatedIn cells).asRecorded addr b :=
  ⟨by rw [Ctx.seatedIn, openedRun_bones]; rfl, openedRun_feedList _ _ _, openedRun_sinkList _ _ _⟩

/-- What `Obligations.OpenAccepted` says of the context in every case. -/
theorem asRecorded_fields {c : Ctx} {addr : Word64} {b : List Byte} (h : c.asRecorded addr b) (hvalid : openBodyValid b = true) :
    c.geo = recGeometry addr b ∧ (∀ f < 24, roleOfByte (byteAt b (48 + f)) = some (c.role f)) ∧
    c.counters = Counters.zero ∧ (∀ n ∈ c.counters.values, n = 0) ∧ c.base = 0 ∧ c.retired = 0 ∧ c.aborts = [] ∧ c.outcome = none ∧
    c.stalled = false ∧ c.exposed = c.noSpare ∧ c.feedList = [] ∧ c.sinkList = [] ∧ c.table = none ∧ c.timerRuns = false := by
  have hroles : c.roles = (newContext addr b).roles := (congrArg Ctx.roles h.bones :)
  have hcounters : c.counters = Counters.zero := (congrArg Ctx.counters h.bones :)
  have hrole : ∀ f, c.role f = (newContext addr b).role f := fun f => by rw [Ctx.role, hroles]; rfl
  have hspare : c.noSpare = (newContext addr b).noSpare := by simp only [Ctx.noSpare, Ctx.fragmentsIn, hrole]
  refine ⟨(congrArg Ctx.geo h.bones :), fun f hf => by rw [hrole]; exact roleOfByte_newContext addr hvalid hf, hcounters,
    by rw [hcounters]; decide, (congrArg Ctx.base h.bones :), (congrArg Ctx.retired h.bones :), (congrArg Ctx.aborts h.bones :),
    (congrArg Ctx.outcome h.bones :), (congrArg Ctx.stalled h.bones :), ?_, h.feedList, h.sinkList, (congrArg Ctx.table h.bones :),
    (congrArg Ctx.timerRuns h.bones :)⟩
  rw [hspare, ← newContext_exposed]
  exact (congrArg Ctx.exposed h.bones :)

theorem exec_open_accepted {s : State} {half : List Byte} (ha : s.awaitsTail = true) (hl : half.length = 64)
    (hd : recDisposition (s.walker.buffer ++ half) = 0) (hclean : headerClean (s.walker.buffer ++ half) = true)
    (hrefusal : s.openRefusal (s.walker.buffer ++ half) = none) : exec (.openRecord half) s =
      .next (State.placeContext { s.takenReadied (s.walker.buffer ++ half) with
        ctxs := s.ctxs.set (recContext (s.walker.buffer ++ half)) (newContext s.walker.next (s.walker.buffer ++ half)) }
        (recContext (s.walker.buffer ++ half))).settle := by
  have hcheck := checkRecord_open (s := s.fetched (s.walker.buffer ++ half)) (recKind_tail ha) hd
  have hfetched : (s.fetched (s.walker.buffer ++ half)).walker.buffer = s.walker.buffer ++ half := rfl
  have hclean' : ¬ headerClean (s.fetched (s.walker.buffer ++ half)).walker.buffer = false := by rw [hfetched, hclean]; decide
  rw [if_neg hclean'] at hcheck
  rw [exec_openRecord_second ha hl, hcheck]
  exact congrArg (fun x : State => Host.Outcome.next x.settle) (dispatchOpen_accepted hrefusal)

theorem reported_cellNeed (c : Ctx) : c.reported.cellNeed = c.cellNeed := rfl

/-- The context that has taken cells: its state, its cells, its window (R27, R51). -/
theorem seatedIn_fields (cells : List Nat) {c : Ctx} (hslots : c.slots = Table.empty) :
    (c.seatedIn cells).geo = c.geo ∧ (c.seatedIn cells).cellNeed = c.cellNeed ∧
    (c.seatedIn cells).state = .solving ∧ (c.seatedIn cells).cells = cells ∧
    (∀ seg, (c.seatedIn cells).holding seg = if seg < min (c.seatedIn cells).geo.width (c.seatedIn cells).geo.segCount then
      some (freshPosition seg) else none) ∧
    (c.seatedIn cells).cellsOf = Ctx.cellsOf { c with state := .solving, cells := cells } := by
  have hspine := bones_spine (openedRun_bones (min c.geo.width c.geo.segCount) 0 { c with state := .solving, cells := cells })
  have hgeo : (c.seatedIn cells).geo = c.geo := (spine_geo hspine :)
  refine ⟨hgeo, ?_, spine_state hspine, spine_cells hspine, fun seg => ?_, funext (spine_cellsOf hspine)⟩
  · rw [Ctx.cellNeed, Ctx.targetCount, Ctx.targets, hgeo, Ctx.seatedIn, spine_fragmentsIn hspine]
    rfl
  · rw [hgeo]
    exact openedRun_holding (c := { c with state := .solving, cells := cells }) (Nat.min_le_left _ _) hslots seg

/-- An OPEN's TAKEN and its context's progress, both placed. -/
def State.openPlaced (s : State) (addr : Word64) (i : Nat) (c : Ctx) : State := (s.walkerPlaced (takenWrite addr)).progressPlaced i c

theorem openPlaced_writeQueue {s : State} {addr : Word64} {i : Nat} {c : Ctx} (hc : c.geo.openAddr = addr) :
    (s.openPlaced addr i c).port.writeQueue = s.port.writeQueue ++
      [takenWrite addr, { writer := .slot i, kind := .progress, spans := [{ addr := addr.toNat + 72, bytes := progressBytes c.reported }] }] := by
  subst hc
  show (s.port.writeQueue ++ [takenWrite c.geo.openAddr]) ++ [progressWrite i c] = _
  rw [List.append_assoc]
  rfl

theorem openPlaced_ctx (s : State) (addr : Word64) (i : Nat) (c : Ctx) : (s.openPlaced addr i c).ctxs.get i = some c.reported :=
  Table.get_set_same _ _ _

theorem openPlaced_ctx_other (s : State) (addr : Word64) (c : Ctx) {i j : Nat} (hj : j ≠ i) :
    (s.openPlaced addr i c).ctxs.get j = s.ctxs.get j := Table.get_set_other _ hj _

/-- Settles O32: the context takes its cells or waits for them; the TAKEN and then its progress are placed. -/
theorem openAccepted : Obligations.OpenAccepted := by
  intro s half ha hr hl b i hd hclean hrefusal
  obtain ⟨hcalm, hready, hroom⟩ := (s.atRest_iff 2).1 hr
  obtain ⟨hfree, hvalid⟩ := openRefusal_none hrefusal
  have hexec := exec_open_accepted ha hl hd hclean hrefusal
  obtain ⟨c0, hc0⟩ : ∃ c0, c0 = newContext s.walker.next b := ⟨_, rfl⟩
  by_cases hfit : s.cellWait = [] ∧ c0.cellNeed ≤ s.freeCells
  · obtain ⟨c, hc⟩ : ∃ c, c = c0.seatedIn (s.freeCellList.take c0.cellNeed) := ⟨_, rfl⟩
    have hplace : State.placeContext { s.takenReadied b with ctxs := s.ctxs.set i c0 } i = (s.takenReadied b).seatedAt i c0 :=
      placeContext_fits hfree hcalm.ready (by rw [hc0]; rfl) (by rw [hc0]; rfl) hfit
    have hrecorded : c.asRecorded s.walker.next b := by rw [hc, hc0]; exact asRecorded_seatedIn _ _ _
    obtain ⟨hgeo, hroles, h1, h2, h3, h4, h5, h6, h7, h8, h9, h10, h11, h12⟩ := asRecorded_fields hrecorded hvalid
    have hget : ((s.takenReadied b).seatedAt i c0).ctxs.get i = some c := by rw [hc]; exact Table.get_set_same _ _ _
    obtain ⟨u, hu⟩ : ∃ u, u = ((s.takenReadied b).seatedAt i c0).startSolve := ⟨_, rfl⟩
    have hsettle := settle_opened (b := b) hcalm hroom (u := (s.takenReadied b).seatedAt i c0) rfl hget ⟨_, _, _, _, _, _, rfl⟩
    rw [← hu] at hsettle
    obtain ⟨queue, solve, hstart⟩ := startSolve_apart ((s.takenReadied b).seatedAt i c0)
    have hu' := hu.trans hstart
    refine ⟨u.openPlaced s.walker.next i c, c.reported, ?_, openPlaced_ctx _ _ _ _,
      hgeo.trans (recGeometry_eq _ _), hgeo, hroles, h1, h2, h3, h4, h5, h6, h7, h8, h9, h10, h11, h12, ?_, ?_, ?_, fun j hj => ?_,
      ?_, ?_, ?_, ?_, ?_, ?_⟩
    · rw [hexec, ← hc0, hplace, hsettle]; rfl
    · obtain ⟨hsame, hneed, hseated⟩ := seatedIn_fields (s.freeCellList.take c0.cellNeed) (c := c0) (by rw [hc0]; rfl)
      rw [← hc] at hsame hneed hseated
      rw [if_pos (c := s.cellWait = [] ∧ c.reported.cellNeed ≤ s.freeCells) (by rw [reported_cellNeed, hneed]; exact hfit), reported_cellNeed, hneed]
      obtain ⟨hstate, hcells, hholding, hcellsOf⟩ := hseated
      have hstore : (u.openPlaced s.walker.next i c).store = zeroCells s.store
          ((List.range' 0 (min c.geo.width c.geo.segCount)).flatMap c.cellsOf) := by
        rw [State.openPlaced, hu', hcellsOf, hsame]; rfl
      refine ⟨hstate, hcells, ?_, ?_, hholding, fun seg hseg n hn => ?_, fun n hn => ?_, ?_⟩
      · rw [State.openPlaced, hu']; rfl
      · rw [State.openPlaced, hu']; rfl
      · have hin : seg ∈ List.range' 0 (min c.geo.width c.geo.segCount) := List.mem_range'_1.mpr ⟨Nat.zero_le _, by rw [Nat.zero_add]; exact hseg⟩
        have hmem : n ∈ (List.range' 0 (min c.geo.width c.geo.segCount)).flatMap c.cellsOf := List.mem_flatMap.mpr ⟨seg, hin, hn⟩
        rw [hstore, cellBytesOf_zeroCells, if_pos hmem]
      · rw [hstore, cellBytesOf_zeroCells, if_neg]
        intro hmem
        obtain ⟨seg, hseg, hn'⟩ := List.mem_flatMap.mp hmem
        exact hn seg (by rw [← Nat.zero_add (min _ _)]; exact (List.mem_range'_1.mp hseg).2) hn'
      · by_cases hsolving : s.solving = none
        · rw [if_pos hsolving]
          have hhead := hu.trans (startSolve_head (rest := []) hsolving (by show s.solveQueue ++ [i] = _; rw [hcalm.solves hsolving]; rfl) hget)
          rw [State.openPlaced, hhead]
          exact ⟨rfl, rfl⟩
        · rw [if_neg hsolving]
          have hbusy := hu.trans (startSolve_idle (s := (s.takenReadied b).seatedAt i c0) (fun h => absurd h hsolving))
          rw [State.openPlaced, hbusy]
          exact ⟨rfl, rfl⟩
    · rw [openPlaced_writeQueue (by rw [hgeo]; rfl), hu']; rfl
    · rw [State.openPlaced, hu']; rfl
    · rw [openPlaced_ctx_other _ _ _ hj, hu']; exact Table.get_set_other _ hj _
    · rw [State.openPlaced, hu']; rfl
    · rw [State.openPlaced, hu']; rfl
    · rw [State.openPlaced, hu']; exact hcalm.statuses
    · rw [State.openPlaced, hu']; rfl
    · rw [State.openPlaced, hu']; rfl
    · rw [State.openPlaced, hu']; rfl
  · have hplace : State.placeContext { s.takenReadied b with ctxs := s.ctxs.set i c0 } i = (s.takenReadied b).waitingAt i c0 :=
      placeContext_waits hcalm.ready (by rw [hc0]; rfl) hfit
    have hrecorded : c0.asRecorded s.walker.next b := by rw [hc0]; exact asRecorded_new _ _
    obtain ⟨hgeo, hroles, h1, h2, h3, h4, h5, h6, h7, h8, h9, h10, h11, h12⟩ := asRecorded_fields hrecorded hvalid
    have hsettle := settle_opened (b := b) hcalm hroom (u := (s.takenReadied b).waitingAt i c0) rfl (Table.get_set_same _ _ _)
      ⟨_, _, _, _, _, _, rfl⟩
    have hstart : ((s.takenReadied b).waitingAt i c0).startSolve = (s.takenReadied b).waitingAt i c0 := startSolve_idle hcalm.solves
    rw [hstart] at hsettle
    refine ⟨((s.takenReadied b).waitingAt i c0).openPlaced s.walker.next i c0, c0.reported, ?_, openPlaced_ctx _ _ _ _,
      hgeo.trans (recGeometry_eq _ _), hgeo, hroles, h1, h2, h3, h4, h5, h6, h7, h8, h9, h10, h11, h12, ?_,
      openPlaced_writeQueue (by rw [hgeo]; rfl), rfl, fun j hj => ?_, rfl, rfl, hcalm.statuses, rfl, rfl, rfl⟩
    · rw [hexec, ← hc0, hplace, hsettle]; rfl
    · rw [if_neg (c := s.cellWait = [] ∧ c0.reported.cellNeed ≤ s.freeCells) hfit]
      subst hc0
      exact ⟨rfl, rfl, rfl, rfl, rfl, rfl, rfl, rfl⟩
    · rw [openPlaced_ctx_other _ _ _ hj]; exact Table.get_set_other _ hj _

end Sys2Proof.Machine
end

section
/-! PROOFS. Several positions opened while entries are used up, and serving the cell wait queue (R32, R51, R54). -/

namespace Sys2Proof.Machine

/-! ### Feed lists lose only entries that are gone -/

/-- Entries that are free stay free, and the feed list of context `i` loses only entries that are free afterwards. -/
structure ListKept (i : Nat) (s t : State) : Prop where
  free : ∀ e, s.feeds.get e = none → t.feeds.get e = none
  list : ∀ d, s.ctxs.get i = some d → ∃ d', t.ctxs.get i = some d' ∧ d'.feedList.Sublist d.feedList ∧
    ∀ e ∈ d.feedList, e ∈ d'.feedList ∨ t.feeds.get e = none

namespace ListKept

variable {i : Nat} {s t u : State}

theorem refl (i : Nat) (s : State) : ListKept i s s :=
  ⟨fun _ h => h, fun d hd => ⟨d, hd, .refl _, fun _ h => .inl h⟩⟩

theorem trans (h1 : ListKept i s t) (h2 : ListKept i t u) : ListKept i s u where
  free e h := h2.free e (h1.free e h)
  list d hd := by
    obtain ⟨d1, hd1, hsub1, hmem1⟩ := h1.list d hd
    obtain ⟨d2, hd2, hsub2, hmem2⟩ := h2.list d1 hd1
    refine ⟨d2, hd2, hsub2.trans hsub1, fun e he => ?_⟩
    rcases hmem1 e he with h | h
    · exact hmem2 e h
    · exact .inr (h2.free e h)

theorem modCtx (i : Nat) (s : State) (j : Nat) (f : Ctx → Ctx) (hf : ∀ c, (f c).feedList = c.feedList) : ListKept i s (s.modCtx j f) where
  free e h := by rw [modCtx_feeds]; exact h
  list d hd := by
    by_cases hij : i = j
    · subst hij
      exact ⟨f d, by rw [modCtx_get_same, hd]; rfl, by rw [hf], fun e he => .inl (by rw [hf]; exact he)⟩
    · exact ⟨d, by rw [modCtx_get_other s hij]; exact hd, .refl _, fun _ h => .inl h⟩

theorem feedOutcome (i : Nat) (s : State) (e : Nat) (o : FeedOutcome) : ListKept i s (s.feedOutcome e o) := by
  cases hf : s.feeds.get e with
  | none => rw [feedOutcome_none hf]; exact .refl i s
  | some f =>
    rw [feedOutcome_some hf]
    split
    · refine ⟨fun d h => ?_, fun d hd => ?_⟩
      · rw [finaliseFeed_feeds, Table.get_erase]
        split
        · rfl
        · exact h
      · rw [finaliseFeed_ctxs]
        by_cases hi : i = (f.hand o).ctx
        · refine ⟨{ d with feedList := d.feedList.filter (· ≠ e) }, by rw [← hi, modCtx_get_same, hd]; rfl, List.filter_sublist, fun x hx => ?_⟩
          by_cases hxe : x = e
          · exact .inr (by rw [finaliseFeed_feeds, hxe, Table.get_erase_same])
          · exact .inl (List.mem_filter.mpr ⟨hx, by simpa using hxe⟩)
        · exact ⟨d, by rw [modCtx_get_other _ hi]; exact hd, .refl _, fun _ h => .inl h⟩
    · refine ⟨fun d h => ?_, fun d hd => ⟨d, hd, .refl _, fun _ h => .inl h⟩⟩
      have hde : d ≠ e := fun hde => by rw [hde, hf] at h; cases h
      exact (Table.get_set_other _ hde _).trans h

end ListKept

theorem classify_listKept (s : State) (i e f seg : Nat) : ListKept i s (s.classify i e f seg) := by
  have h := classify_cases s i e f seg
  generalize s.classify i e f seg = t at h
  obtain rfl | rfl | rfl | rfl | ⟨c, p, hc, hp, rfl⟩ := h.cases
  · exact .refl i _
  · exact .trans (.modCtx i s i (fun c => { c with counters := { c.counters with late := bump16 c.counters.late } }) (fun _ => rfl))
      (.feedOutcome i _ e .late)
  · exact .feedOutcome i s e .unused
  · exact .trans (.modCtx i s i (fun c => { c with counters := { c.counters with duplicate := bump16 c.counters.duplicate } }) (fun _ => rfl))
      (.feedOutcome i _ e .duplicate)
  · refine .modCtx i s i _ (fun c => ?_)
    split <;> rfl

theorem scanFeeds_listKept (i seg : Nat) (es : List Nat) (s : State) : ListKept i s (State.scanFeeds i seg es s) := by
  induction es generalizing s with
  | nil => exact .refl i s
  | cons e es ih =>
    rw [scanFeeds_cons]
    refine .trans ?_ (ih _)
    unfold State.scanOne
    split
    · split
      · exact classify_listKept s i e _ seg
      · exact .refl i s
    · exact .refl i s

theorem openPosition_listKept (s : State) (i seg : Nat) : ListKept i s (s.openPosition i seg) := by
  cases hc : s.ctxs.get i with
  | none => rw [openPosition_free hc]; exact .refl i s
  | some c =>
    rw [openPosition_eq hc]
    refine .trans (t := s.freshAt i seg c) ⟨fun _ h => h, fun d hd => ?_⟩ (scanFeeds_listKept i seg c.feedList _)
    cases hc.symm.trans hd
    exact ⟨_, Table.get_set_same _ _ _, .refl _, fun _ h => .inl h⟩

/-! ### Entries that still owe every segment to come -/

theorem find?_sublist {α : Type} {p : α → Bool} {l l' : List α} (h : l'.Sublist l) (hnodup : l.Nodup) (hp : ∀ e ∈ l, p e = true → e ∈ l') :
    l'.find? p = l.find? p := by
  induction h with
  | slnil => rfl
  | cons x h ih =>
    obtain ⟨hx, hnodup⟩ := List.nodup_cons.mp hnodup
    have hnot : p x = false := by
      by_contra hpx
      exact hx (h.subset (hp x List.mem_cons_self (by simpa using hpx)))
    rw [List.find?_cons_of_neg (by simp [hnot])]
    exact ih hnodup (fun e he => hp e (List.mem_cons_of_mem _ he))
  | cons_cons x h ih =>
    obtain ⟨hx, hnodup⟩ := List.nodup_cons.mp hnodup
    rw [List.find?_cons, List.find?_cons]
    split
    · rfl
    · refine ih hnodup (fun e he hpe => ?_)
      rcases List.mem_cons.mp (hp e (List.mem_cons_of_mem _ he) hpe) with rfl | hmem
      · exact absurd he hx
      · exact hmem

/-- How many of the segments from `a` on the entry covers. -/
def FeedEntry.ahead (g : FeedEntry) (a : Nat) : Nat := (g.first + g.count) - max a g.first

/-- Two values of an entry over one run of one fragment. -/
def FeedEntry.sameRun (g g' : FeedEntry) : Prop := g'.frag = g.frag ∧ g'.first = g.first ∧ g'.count = g.count

theorem sameRun_covers {g g' : FeedEntry} (h : g.sameRun g') (f seg : Nat) : g'.covers f seg = g.covers f seg := by
  obtain ⟨h1, h2, h3⟩ := h
  simp only [FeedEntry.covers, h1, h2, h3]

/-- In `s`, the positions before `a` opened, each entry of context `i` that covers a segment from `a` on still owes all of these: what stood in
`feeds` and in the feed list `es` at the start is what the scans to come will find. -/
structure Unspent (i a : Nat) (feeds : Table FeedEntry) (es : List Nat) (s : State) : Prop where
  owes : ∀ e ∈ es, ∀ g, feeds.get e = some g → 0 < g.ahead a → ∃ g', s.feeds.get e = some g' ∧ g.sameRun g' ∧ g.ahead a ≤ g'.pending
  runs : ∀ e ∈ es, ∀ g', s.feeds.get e = some g' → ∃ g, feeds.get e = some g ∧ g.sameRun g'
  list : ∀ d, s.ctxs.get i = some d → d.feedList.Sublist es ∧ ∀ e ∈ es, e ∈ d.feedList ∨ s.feeds.get e = none

theorem ahead_pos_of_covers {g : FeedEntry} {f a seg : Nat} (h : g.covers f seg = true) (ha : a ≤ seg) : 0 < g.ahead a := by
  simp only [FeedEntry.covers, Bool.and_eq_true, decide_eq_true_eq] at h
  simp only [FeedEntry.ahead]
  omega

section Unspent

variable {i a : Nat} {feeds : Table FeedEntry} {es : List Nat} {s : State}

/-- The scans to come find what stood at the start. -/
theorem Unspent.scanned (h : Unspent i a feeds es s) (hes : es.Nodup) {c d : Ctx} (hd : s.ctxs.get i = some d) (hc : c.feedList = es)
    (hrole : ∀ f, d.role f = c.role f) {seg : Nat} (ha : a ≤ seg) (f : Nat) : d.scanned s.feeds seg f = c.scanned feeds seg f := by
  obtain ⟨hsub, hmem⟩ := h.list d hd
  have hcovers : ∀ e ∈ es, coversIn s.feeds f seg e = coversIn feeds f seg e := fun e he => by
    cases hg' : s.feeds.get e with
    | some g' =>
      obtain ⟨g, hg, hrun⟩ := h.runs e he g' hg'
      rw [coversIn_some hg', coversIn_some hg, sameRun_covers hrun]
    | none =>
      cases hg : feeds.get e with
      | none => simp [coversIn, hg, hg']
      | some g =>
        rw [coversIn_some hg]
        have hnot : g.covers f seg = false := by
          by_contra hcov
          obtain ⟨g', hg'', -⟩ := h.owes e he g hg (ahead_pos_of_covers (by simpa using hcov) ha)
          rw [hg'] at hg''
          cases hg''
        simp [coversIn, hg', hnot]
  have hfind : d.feedList.find? (coversIn s.feeds f seg) = es.find? (coversIn feeds f seg) := by
    rw [find?_sublist hsub hes (fun e he hcov => ?_), List.find?_congr hcovers]
    rcases hmem e he with hin | hnone
    · exact hin
    · simp [coversIn, hnone] at hcov
  rw [scanned_eq, scanned_eq, Ctx.scannedIn, Ctx.scannedIn, hrole, hfind, hc]

/-- One more position opened: each entry has been handed at most the one segment. -/
theorem Unspent.step (h : Unspent i a feeds es s) (hes : es.Nodup) {d : Ctx} (hd : s.ctxs.get i = some d) (hw : d.inWindow a) :
    Unspent i (a + 1) feeds es (s.openPosition i a) := by
  obtain ⟨hsub, hmem⟩ := h.list d hd
  have hkept := openPosition_listKept s i a
  have hafter : ∀ e g', s.feeds.get e = some g' → (s.openPosition i a).feeds.get e = some g' ∨
      (g'.covers g'.frag a = true ∧ ∃ o, (s.openPosition i a).feeds.get e = if g'.pending - 1 = 0 then none else some (g'.hand o)) := by
    intro e g' hg'
    by_cases he : e ∈ d.feedList
    · rw [openPosition_feeds hd hw (hsub.nodup hes) he hg']
      split
      · next hagain =>
        refine .inr ⟨hagain.1, if d.role g'.frag = .failed then .unused else .duplicate, ?_⟩
        show (State.feedOutcome s e _).ledger.feeds.get e = _
        have hg'' : s.ledger.feeds.get e = some g' := hg'
        rw [feedOutcome_ledger, hand_get_same s.ledger (e, _)]
        simp only [hg'', Option.bind_some]
        rfl
      · exact .inl rfl
    · exact .inl (by rw [openPosition_feeds_other hd hw (.inl he), hg'])
  refine ⟨fun e he g hg hahead => ?_, fun e he g'' hg'' => ?_, fun d' hd' => ?_⟩
  · have hahead' : 0 < g.ahead a := by simp only [FeedEntry.ahead] at hahead ⊢; omega
    obtain ⟨g', hg', hrun, hpending⟩ := h.owes e he g hg hahead'
    rcases hafter e g' hg' with hsame | ⟨hcov, o, hhand⟩
    · exact ⟨g', hsame, hrun, by simp only [FeedEntry.ahead] at hpending ⊢; omega⟩
    · rw [sameRun_covers hrun] at hcov
      simp only [FeedEntry.covers, Bool.and_eq_true, decide_eq_true_eq] at hcov
      simp only [FeedEntry.ahead] at hahead hpending ⊢
      rw [if_neg (by omega)] at hhand
      exact ⟨g'.hand o, hhand, hrun, by simp only [FeedEntry.hand]; omega⟩
  · cases hg' : s.feeds.get e with
    | none => rw [hkept.free e hg'] at hg''; cases hg''
    | some g' =>
      obtain ⟨g, hg, hrun⟩ := h.runs e he g' hg'
      rcases hafter e g' hg' with hsame | ⟨-, o, hhand⟩
      · rw [hsame] at hg''; cases hg''; exact ⟨g, hg, hrun⟩
      · rw [hhand] at hg''
        split at hg''
        · cases hg''
        · cases hg''; exact ⟨g, hg, hrun⟩
  · obtain ⟨d1, hd1, hsub1, hmem1⟩ := hkept.list d hd
    cases hd'.symm.trans hd1
    refine ⟨hsub1.trans hsub, fun e he => ?_⟩
    rcases hmem e he with hin | hnone
    · exact hmem1 e hin
    · exact .inr (hkept.free e hnone)

end Unspent

/-- The positions from `a` on opened one after another in an empty window from segment 0 on (R51, R54). -/
theorem openRun_opened {i n a : Nat} {s : State} {d : Ctx} (hd : s.ctxs.get i = some d) (hlive : d.state ≠ .pending) (hbase : d.base = 0)
    (hwidth : a + n ≤ d.geo.width) :
    (∀ m, m < a ∨ a + n ≤ m → (State.openRun i n a s).posAt i m = s.posAt i m) ∧
    ∀ seg, a ≤ seg → seg < a + n → ∃ q, (State.openRun i n a s).posAt i seg = some q ∧ q.seg = seg ∧ q.state = .opened ∧
      q.binds = Table.empty ∧ ∀ (c : Ctx) feeds, Unspent i a feeds c.feedList s → c.feedList.Nodup → (∀ f, d.role f = c.role f) →
        ∀ f, q.row.get f = c.scanned feeds seg f := by
  induction n generalizing a s d with
  | zero => exact ⟨fun _ _ => rfl, fun seg h1 h2 => by omega⟩
  | succ n ih =>
    have hw : d.inWindow a := ⟨hlive, by omega, by omega⟩
    have hmod : a % d.geo.width = a := Nat.mod_eq_of_lt (by omega)
    obtain ⟨d', hd', hspine⟩ := (openPosition_openFrame s i a).spines.ctx hd
    obtain ⟨q, hq, hrow⟩ := openPosition_opening hd hw
    obtain ⟨hothers, hopened⟩ := ih hd' (by rw [spine_state hspine]; exact hlive) (by rw [spine_base hspine]; exact hbase)
      (a := a + 1) (by rw [spine_geo hspine]; omega)
    refine ⟨fun m hm => ?_, fun seg h1 h2 => ?_⟩
    · rw [State.openRun, hothers m (by omega), openPosition_posAt hd a (fun _ => by rw [hmod]; omega)]
    · rw [State.openRun]
      by_cases hseg : seg = a
      · subst hseg
        refine ⟨q, ?_, hq.seg, hq.opened, hq.binds, fun c feeds hunspent hlist hrole f => ?_⟩
        · rw [hothers seg (.inl (by omega))]
          have hholds := hq.holds
          rwa [hmod] at hholds
        · rw [hrow, hunspent.scanned hlist hd rfl hrole (Nat.le_refl _)]
      · obtain ⟨q, hat, hqseg, hstate, hbinds, hscan⟩ := hopened seg (by omega) (by omega)
        refine ⟨q, hat, hqseg, hstate, hbinds, fun c feeds hunspent hlist hrole => ?_⟩
        exact hscan c feeds (hunspent.step hlist hd hw) hlist (fun f => (spine_role hspine f).trans (hrole f))

/-! ### A context takes its cells -/

/-- A context given its cells, its window still to be opened (R27). -/
def State.takenCells (s : State) (i : Nat) (c : Ctx) : State :=
  { s with ctxs := s.ctxs.set i { c with state := .solving, cells := s.freeCellList.take c.cellNeed }, freeCells := s.freeCells - c.cellNeed }

theorem enterSolving_eq {s : State} {i : Nat} {c : Ctx} (hc : s.ctxs.get i = some c) : s.enterSolving i =
    ((State.openRun i (min c.geo.width c.geo.segCount) 0 (s.takenCells i c)).joinSolve i).oweProgress i := by
  simp only [State.enterSolving, hc]
  rfl

theorem takenCells_get (s : State) (i : Nat) (c : Ctx) :
    (s.takenCells i c).ctxs.get i = some { c with state := .solving, cells := s.freeCellList.take c.cellNeed } := Table.get_set_same _ _ _

/-- The context that takes its cells: SOLVING, its window opened and scanned (R27, R51, R54). -/
theorem enterSolving_ctx {s : State} {i : Nat} {c : Ctx} (hc : s.ctxs.get i = some c) :
    ∃ c', (s.enterSolving i).ctxs.get i = some c' ∧ c'.state = .solving ∧ c'.cells = s.freeCellList.take c.cellNeed ∧
      c'.geo = c.geo ∧ c'.roles = c.roles ∧
      (c.base = 0 → ∀ seg, seg < min c.geo.width c.geo.segCount → ∃ q, c'.holding seg = some q ∧ q.state = .opened ∧
        q.binds = Table.empty ∧
        (c.feedList.Nodup → (∀ e ∈ c.feedList, ∀ g, s.feeds.get e = some g → g.pending = g.count) →
          ∀ f, q.row.get f = c.scanned s.feeds seg f)) := by
  have hget := takenCells_get s i c
  obtain ⟨c', hc', hspine⟩ := (openRun_openFrame i (min c.geo.width c.geo.segCount) 0 _).spines.ctx hget
  have hget' : (s.enterSolving i).ctxs.get i = some c' := by rw [enterSolving_eq hc, oweProgress_ctxs]; exact hc'
  refine ⟨c', hget', (spine_state hspine :), (spine_cells hspine :), (spine_geo hspine :), (spine_roles hspine :), fun hbase seg hseg => ?_⟩
  have hgeo : c'.geo = c.geo := (spine_geo hspine :)
  obtain ⟨-, hopened⟩ := openRun_opened (n := min c.geo.width c.geo.segCount) (a := 0) hget (by simp) hbase
    (by rw [Nat.zero_add]; exact Nat.min_le_left _ _)
  obtain ⟨q, hat, hqseg, hstate, hbinds, hscan⟩ := hopened seg (Nat.zero_le _) (by omega)
  rw [posAt_some hc'] at hat
  refine ⟨q, holding_iff.mpr ⟨?_, hqseg⟩, hstate, hbinds, fun hlist hfull => ?_⟩
  · rw [hgeo, Nat.mod_eq_of_lt (by omega)]; exact hat
  · refine hscan c s.feeds ⟨fun e he g hg hahead => ⟨g, hg, ⟨rfl, rfl, rfl⟩, ?_⟩, fun e he g hg => ⟨g, hg, rfl, rfl, rfl⟩, fun d hd => ?_⟩
      hlist (fun f => rfl)
    · rw [hfull e he g hg, FeedEntry.ahead]; omega
    · cases hget.symm.trans hd
      exact ⟨.refl _, fun e he => .inl he⟩

end Sys2Proof.Machine
end

section
/-! PROOFS. The cell wait queue served and a context closed (R32, R43, R44, R54). -/

namespace Sys2Proof.Machine

/-! ### A slot's last writes -/

theorem Table.erase_set {α : Type} (t : Table α) (k : Nat) (v : α) : (t.set k v).erase k = t.erase k := by
  have hrows : ∀ rows : List (Nat × α), (putRow k v rows).filter (fun r => r.1 ≠ k) = rows.filter (fun r => r.1 ≠ k) := by
    intro rows
    induction rows with
    | nil => simp [putRow]
    | cons r rest ih =>
      obtain ⟨j, u⟩ := r
      rw [putRow]
      split
      · simp
      · split
        · next hj => simp [hj]
        · rw [List.filter_cons, List.filter_cons, ih]
  exact congrArg Table.mk (hrows t.rows)

section Closing

variable {s : State} {i : Nat} {ctxs : Table Ctx} {c d : Ctx} {ws rest : List CtxWrite} {more : List QWrite}

/-- The write of an ABORT's DONE (R44). -/
def abortWrite (i : Nat) (a : Word64 × Bool) : QWrite := { writer := .slot i, kind := .final a.2, spans := [outcomeBytes a.1 2 0] }

/-- The write of an OPEN's DONE with outcome `o` (R44). -/
def doneWrite (i : Nat) (g : Geometry) (o : EndOutcome) : QWrite :=
  { writer := .slot i, kind := .final g.notify, spans := [outcomeBytes g.openAddr 2 o.code] }

/-- The contexts are `ctxs`, slot `i` alone has writes ready, `ws`, and `more` stands behind the write queue. -/
def State.slotLeft (s : State) (ctxs : Table Ctx) (i : Nat) (ws : List CtxWrite) (more : List QWrite) : State :=
  { s with ctxs := ctxs, ready := ⟨if ws = [] then [] else [(i, ws)]⟩, port := { s.port with writeQueue := s.port.writeQueue ++ more } }

theorem slotLeft_readyOf : (s.slotLeft ctxs i ws more).readyOf i = ws := by
  by_cases h : ws = [] <;> simp [State.slotLeft, State.readyOf, Table.get, findRow, h]

theorem slotLeft_setReady (vs : List CtxWrite) : (s.slotLeft ctxs i ws more).setReady i vs = s.slotLeft ctxs i vs more := by
  by_cases h : ws = [] <;> by_cases hv : vs = [] <;>
    simp [State.slotLeft, State.setReady, Table.set, Table.erase, putRow, h, hv]

/-- A writer that may place its next write does so while there is a place. -/
theorem placeReady_entered {w : Writer} {q : QWrite} (n : Nat) (hwait : s.mustWait w = false) (hq : s.nextWrite w = some q) :
    State.placeReady w (n + 1) s = State.placeReady w n (s.entered w q) := by
  rw [State.placeReady, placeable_free s w hwait, hq]
  rfl

theorem placeReady_done {w : Writer} (n : Nat) (hq : s.nextWrite w = none) : State.placeReady w n s = s := by
  cases n with
  | zero => rfl
  | succ n => rw [State.placeReady, placeable_none s w hq]

theorem slotLeft_mustWait (h : s.walker.ready = none) : (s.slotLeft ctxs i ws more).mustWait (.slot i) = false :=
  mustWait_slot (s := s.slotLeft ctxs i ws more) h i

theorem slotLeft_nextWrite {w : CtxWrite} : (s.slotLeft ctxs i (w :: rest) more).nextWrite (.slot i) =
    (s.slotLeft ctxs i (w :: rest) more).slotWrite i w := by
  simp [State.nextWrite, slotLeft_readyOf]

theorem slotLeft_placed {w : CtxWrite} : (s.slotLeft ctxs i (w :: rest) more).placed (.slot i) =
    (match w with
      | .progress => (s.slotLeft ctxs i rest more).modCtx i Ctx.reported
      | .openDone _ _ _ => (s.slotLeft ctxs i rest more).freeContext i
      | .abortDone _ _ => s.slotLeft ctxs i rest more) := by
  simp only [State.placed, State.slotPlaced, slotLeft_readyOf, slotLeft_setReady]
  cases w <;> rfl

theorem slotLeft_enqueue (q : QWrite) : (s.slotLeft ctxs i ws more).enqueue q = s.slotLeft ctxs i ws (more ++ [q]) := by
  simp [State.enqueue, State.slotLeft]

theorem placeReady_slot_progress (n : Nat) (h : s.walker.ready = none) (hd : ctxs.get i = some d) :
    State.placeReady (.slot i) (n + 1) (s.slotLeft ctxs i (.progress :: rest) more) =
      State.placeReady (.slot i) n (s.slotLeft (ctxs.set i d.reported) i rest (more ++ [progressWrite i d])) := by
  have hd' : (s.slotLeft ctxs i rest more).ctxs.get i = some d := hd
  rw [placeReady_entered n (slotLeft_mustWait h) (nextWrite_progress (s := s.slotLeft ctxs i (.progress :: rest) more) hd slotLeft_readyOf), State.entered, slotLeft_placed,
    State.modCtx, hd', ← slotLeft_enqueue]
  rfl

theorem placeReady_slot_done (n : Nat) (h : s.walker.ready = none) (hd : ctxs.get i = some d) (g : Geometry) (o : EndOutcome) :
    State.placeReady (.slot i) (n + 1) (s.slotLeft ctxs i [.openDone g.openAddr o g.notify] more) =
      State.placeReady (.slot i) n (s.slotLeft (ctxs.erase i) i d.abortWrites (more ++ [doneWrite i g o])) := by
  have hd' : (s.slotLeft ctxs i [] more).ctxs.get i = some d := hd
  have hnext : (s.slotLeft ctxs i [.openDone g.openAddr o g.notify] more).nextWrite (.slot i) = some (doneWrite i g o) := by
    rw [slotLeft_nextWrite]; rfl
  have herase : { s.slotLeft ctxs i [] more with ctxs := (s.slotLeft ctxs i [] more).ctxs.erase i } =
      s.slotLeft (ctxs.erase i) i [] more := rfl
  rw [placeReady_entered n (slotLeft_mustWait h) hnext, State.entered, slotLeft_placed]
  simp only [State.freeContext, hd', herase, slotLeft_setReady, slotLeft_readyOf, List.nil_append, slotLeft_enqueue]

theorem placeReady_slot_aborts (n : Nat) (h : s.walker.ready = none) (aborts : List (Word64 × Bool)) :
    State.placeReady (.slot i) (n + aborts.length)
        (s.slotLeft ctxs i (aborts.map (fun a => CtxWrite.abortDone a.1 a.2)) more) =
      s.slotLeft ctxs i [] (more ++ aborts.map (abortWrite i)) := by
  induction aborts generalizing more with
  | nil => rw [List.map_nil, List.map_nil, List.append_nil]; exact placeReady_done _ (nextWrite_slot_nil slotLeft_readyOf)
  | cons a aborts ih =>
    have hnext : (s.slotLeft ctxs i (.abortDone a.1 a.2 :: aborts.map (fun a => CtxWrite.abortDone a.1 a.2)) more).nextWrite (.slot i) =
        some (abortWrite i a) := by rw [slotLeft_nextWrite]; rfl
    rw [List.length_cons, ← Nat.add_assoc, List.map_cons, placeReady_entered _ (slotLeft_mustWait h) hnext, State.entered, slotLeft_placed]
    simp only [slotLeft_enqueue]
    rw [ih, List.append_assoc]
    rfl

/-- The final progress write, the OPEN's DONE and the ABORTs' DONEs, as they are placed (R43, R44). -/
def closingWrites (i : Nat) (c d : Ctx) (o : EndOutcome) : List QWrite :=
  progressWrite i d :: doneWrite i c.geo o :: d.aborts.map (abortWrite i)

/-- A context that is being closed has its last writes placed and its slot is FREE, when there is room (R43, R44). -/
theorem closeContext_offerReady (hline : s.port.claimLine = []) (hstatus : s.statusQueue = []) (hready : s.ready.rows = [])
    (howed : s.ctl.reportOwed = false) (hmessages : s.ctl.messages = 0) (hunits : ∀ e, s.emit = some e → e.targetsLeft = [])
    (h : s.walker.ready = none) (hd : s.ctxs.get i = some d) (hclosing : d.teardown = .closing) {o : EndOutcome} (ho : c.outcome = some o)
    (hroom : s.port.writeQueue.length + (2 + d.aborts.length) ≤ 64) :
    (s.closeContext i c).offerReady = s.slotLeft (s.ctxs.erase i) i [] (closingWrites i c d o) := by
  have hclose : s.closeContext i c = s.slotLeft s.ctxs i [.progress, .openDone c.geo.openAddr o c.geo.notify] [] := by
    have howe := oweProgress_calm hready hd (by simp [Ctx.silent, hclosing])
    have hleft : { s with ready := ⟨[(i, [.progress])]⟩ } = s.slotLeft s.ctxs i [.progress] [] := by simp [State.slotLeft]
    rw [State.closeContext, howe, hleft]
    simp only [slotLeft_readyOf, slotLeft_setReady, ho]
    rfl
  obtain ⟨n, hn⟩ := freePlaces_pos hroom
  have hplace : State.placeReady (.slot i) (s.closeContext i c).freePlaces (s.closeContext i c) =
      s.slotLeft (s.ctxs.erase i) i [] (closingWrites i c d o) := by
    have hplaces : (s.closeContext i c).freePlaces = n + d.aborts.length + 1 + 1 := by
      rw [hclose, State.freePlaces, State.slotLeft]
      simp only [List.append_nil]
      rw [State.freePlaces] at hn
      omega
    rw [hplaces, hclose, placeReady_slot_progress _ h hd, placeReady_slot_done _ h (Table.get_set_same _ _ _), Table.erase_set]
    exact placeReady_slot_aborts n h d.aborts
  rw [← hplace, hclose]
  rw [hclose] at hplace
  have hnext : (s.slotLeft s.ctxs i [.progress, .openDone c.geo.openAddr o c.geo.notify] []).nextWrite (.slot i) =
      some (progressWrite i d) := nextWrite_progress hd slotLeft_readyOf
  have hoffer : (s.slotLeft s.ctxs i [.progress, .openDone c.geo.openAddr o c.geo.notify] []).offerReady =
      (s.slotLeft s.ctxs i [.progress, .openDone c.geo.openAddr o c.geo.notify] []).offer (.slot i) :=
    offerReady_slot hline rfl hstatus howed hmessages hunits h (by rw [hnext]; rfl)
  rw [hoffer]
  exact (offer_of_placed (s := s.slotLeft s.ctxs i _ []) hline hplace (nextWrite_slot_nil slotLeft_readyOf)).trans hplace.symm

end Closing

/-! ### What serving the cell wait queue leaves -/

/-- The state but for what giving contexts their cells touches: the window's part, cells, the two queues, what slots have ready. -/
def State.besideServing (s : State) : State :=
  { s.besideWindow with freeCells := 0, cellWait := [], ready := Table.empty, solveQueue := [] }

/-- Between `s` and `t` contexts of `waits` may have taken cells, and no other context has changed but for positions, lists and counters. -/
structure Serving (waits : List Nat) (s t : State) : Prop where
  same : t.besideServing = s.besideServing
  spines : ∀ j, j ∉ waits → (t.ctxs.get j).map Ctx.spine = (s.ctxs.get j).map Ctx.spine
  ready : s.progressAlone → t.progressAlone

namespace Serving

variable {waits : List Nat} {s t u : State}

theorem refl (waits : List Nat) (s : State) : Serving waits s s := ⟨rfl, fun _ _ => rfl, id⟩

theorem trans (h1 : Serving waits s t) (h2 : Serving waits t u) : Serving waits s u :=
  ⟨h2.same.trans h1.same, fun j hj => (h2.spines j hj).trans (h1.spines j hj), h2.ready ∘ h1.ready⟩

theorem port (h : Serving waits s t) : t.port = s.port := (congrArg State.port h.same :)
theorem emit (h : Serving waits s t) : t.emit = s.emit := (congrArg State.emit h.same :)
theorem emitQueue (h : Serving waits s t) : t.emitQueue = s.emitQueue := (congrArg State.emitQueue h.same :)
theorem combining (h : Serving waits s t) : t.combining = s.combining := (congrArg State.combining h.same :)
theorem combineQueue (h : Serving waits s t) : t.combineQueue = s.combineQueue := (congrArg State.combineQueue h.same :)

theorem of_openFrame (h : OpenFrame s t) : Serving waits s t where
  same := (congrArg (fun x : State => { x with freeCells := 0, cellWait := [], ready := Table.empty, solveQueue := [] }) h.only.same :)
  spines j _ := h.spines j
  ready hs j := by rw [h.only.readyOf]; exact hs j

theorem of_joinSolve (s : State) (i : Nat) : Serving waits s (s.joinSolve i) := ⟨rfl, fun _ _ => rfl, id⟩

theorem of_oweProgress (s : State) (i : Nat) : Serving waits s (s.oweProgress i) := by
  obtain ⟨r, hr, -⟩ := oweProgress_apart s i
  refine ⟨by rw [hr]; rfl, fun j _ => by rw [hr], fun hs => ?_⟩
  cases hc : s.ctxs.get i with
  | none => rw [State.oweProgress, hc]; exact hs
  | some c =>
    cases hsilent : c.silent with
    | true => rw [oweProgress_silent hc hsilent]; exact hs
    | false =>
      intro j
      rw [oweProgress_readyOf hc hsilent (hs i)]
      split
      · exact .inr rfl
      · exact hs j

end Serving

theorem enterSolving_serving {waits : List Nat} {i : Nat} (hi : i ∈ waits) (s : State) (rest : List Nat) :
    Serving waits s (State.enterSolving { s with cellWait := rest } i) := by
  cases hc : s.ctxs.get i with
  | none =>
    have hsame : State.enterSolving { s with cellWait := rest } i = { s with cellWait := rest } := by simp only [State.enterSolving, hc]
    rw [hsame]
    exact ⟨rfl, fun _ _ => rfl, id⟩
  | some c =>
    rw [enterSolving_eq (s := { s with cellWait := rest }) hc]
    have htaken : Serving waits s (State.takenCells { s with cellWait := rest } i c) := by
      refine ⟨rfl, fun j hj => ?_, id⟩
      have hji : j ≠ i := fun e => hj (e ▸ hi)
      show ((s.ctxs.set i _).get j).map _ = _
      rw [Table.get_set_other _ hji]
    have hrun := openRun_openFrame i (min c.geo.width c.geo.segCount) 0 (State.takenCells { s with cellWait := rest } i c)
    exact ((htaken.trans (.of_openFrame hrun)).trans (.of_joinSolve _ i)).trans (.of_oweProgress _ i)

/-- What a context that takes its cells leaves of the pool and the queues (R27, R29, R32). -/
theorem enterSolving_pool {s : State} {i : Nat} {c : Ctx} (hc : s.ctxs.get i = some c) :
    (s.enterSolving i).cellWait = s.cellWait ∧ (s.enterSolving i).freeCells = s.freeCells - c.cellNeed ∧
    (s.enterSolving i).solveQueue = s.solveQueue ++ [i] := by
  have hrun := (openRun_openFrame i (min c.geo.width c.geo.segCount) 0 (s.takenCells i c)).only
  rw [enterSolving_eq hc, oweProgress_cellWait, oweProgress_freeCells, oweProgress_solveQueue, joinSolve_cellWait, joinSolve_freeCells,
    joinSolve_solveQueue, hrun.cellWait, hrun.freeCells, hrun.solveQueue]
  exact ⟨rfl, rfl, rfl⟩

theorem enterSolving_cellWait (s : State) (i : Nat) : (s.enterSolving i).cellWait = s.cellWait := by
  cases hc : s.ctxs.get i with
  | none => simp only [State.enterSolving, hc]
  | some c => exact (enterSolving_pool hc).1

/-- What each context served keeps true stays true while the queue is served. -/
theorem serveCells_induct {P : State → Prop} (n : Nat) {waits : List Nat}
    (hstep : ∀ s i rest c, P s → i ∈ waits → s.ctxs.get i = some c → P (State.enterSolving { s with cellWait := rest } i)) :
    ∀ s, P s → (∀ j ∈ s.cellWait, j ∈ waits) → P (State.serveCells n s) := by
  induction n with
  | zero => exact fun s hs _ => hs
  | succ n ih =>
    intro s hs hwaits
    rw [State.serveCells]
    split
    · exact hs
    · next i rest hwait =>
      split
      · exact hs
      · next c hc =>
        split
        · exact hs
        · have hi : i ∈ waits := hwaits i (by rw [hwait]; exact List.mem_cons_self)
          refine ih _ (hstep s i rest c hs hi hc) (fun j hj => hwaits j ?_)
          rw [enterSolving_cellWait] at hj
          rw [hwait]
          exact List.mem_cons_of_mem _ hj

theorem serveCellWait_serving (s : State) : Serving s.cellWait s s.serveCellWait :=
  serveCells_induct _ (fun t _ rest _ ht hi _ => ht.trans (enterSolving_serving hi t rest)) s (.refl _ s) (fun _ h => h)

end Sys2Proof.Machine
end

section
/-! PROOFS. TEARDOWN_RESUME (R32, R43, R44, R54). -/

namespace Sys2Proof.Machine

/-! ### What every placing keeps -/

section Placing

variable {P : State → Prop} (hplace : ∀ s w q, s.placeable w = some q → P s → P (s.entered w q)) (hline : ∀ s line, P s → P (s.setLine line))
  (hdraws : ∀ s n, P s → P { s with draws := n })

include hplace in
theorem placeReady_induct (w : Writer) (n : Nat) (s : State) (hs : P s) : P (State.placeReady w n s) := by
  induction n generalizing s with
  | zero => exact hs
  | succ n ih =>
    rw [State.placeReady]
    split
    · exact hs
    · next q hq => exact ih _ (hplace s w q hq hs)

include hline in
theorem joinLine_induct (w : Writer) (s : State) (hs : P s) : P (s.joinLine w) := by
  rw [State.joinLine]
  split
  · exact hline s _ hs
  · exact hs

include hplace hline in
theorem offer_induct (w : Writer) (s : State) (hs : P s) : P (s.offer w) := by
  rw [State.offer]
  split
  · exact hs
  · split
    · exact joinLine_induct hline w _ (placeReady_induct hplace w _ s hs)
    · exact joinLine_induct hline w s hs

include hplace hline in
theorem offerEach_induct (ws : List Writer) (s : State) (hs : P s) : P (State.offerEach ws s) := by
  induction ws generalizing s with
  | nil => exact hs
  | cons w ws ih => exact ih _ (offer_induct hplace hline w s hs)

include hplace hline hdraws in
/-- What a write's placing, a claim and a free value keep is kept by all the placing of an event. -/
theorem offerReady_induct (s : State) (hs : P s) : P s.offerReady := by
  rw [State.offerReady]
  refine offerEach_induct hplace hline _ _ ?_
  have hfirst := offer_induct hplace hline .walker s hs
  split
  · exact hdraws _ _ hfirst
  · exact hfirst

end Placing

theorem freeContext_emit (s : State) (i : Nat) : (s.freeContext i).emit = s.emit := by
  unfold State.freeContext
  split <;> rfl

theorem slotPlaced_emit (s : State) (i : Nat) : (s.slotPlaced i).emit = s.emit := by
  unfold State.slotPlaced
  split
  · rfl
  · exact modCtx_emit _ i _
  · exact freeContext_emit _ i
  · rfl

/-- Placing writes neither ends nor begins an emit. -/
theorem offerReady_emit (s : State) : s.offerReady.emit.isSome = s.emit.isSome := by
  refine offerReady_induct (P := fun t => t.emit.isSome = s.emit.isSome) (fun t w q _ ht => ?_) (fun _ _ ht => ht) (fun _ _ ht => ht) s rfl
  rw [← ht]
  show (t.placed w).emit.isSome = _
  cases w with
  | emit => cases he : t.emit <;> simp [State.placed, he]
  | slot i => rw [State.placed, slotPlaced_emit]
  | control => rw [State.placed]; split <;> rfl
  | walker => rfl
  | registry => rfl

/-- A context whose slot's writes free no slot is there after placing, the same but for its last progress write; a FREE slot stays FREE. -/
theorem Placing.ctx_steady {s t : State} (h : Placing s t) {j : Nat} (hj : (s.ctxs.get j).isSome = true → s.holds j) :
    (t.ctxs.get j).map Ctx.steady = (s.ctxs.get j).map Ctx.steady := by
  rcases h.ctxs j with hsame | ⟨hnone, hfree⟩
  · exact hsame
  · cases hc : s.ctxs.get j with
    | none => rw [hnone]
    | some c => exact absurd (hj (by rw [hc]; rfl)) hfree

section

variable {s t : State} (h : Placing s t)
include h
theorem Placing.freeCells : t.freeCells = s.freeCells := (congrArg State.freeCells h.steady :)
theorem Placing.cellWait : t.cellWait = s.cellWait := (congrArg State.cellWait h.steady :)
theorem Placing.store : t.store = s.store := (congrArg State.store h.steady :)
theorem Placing.emitQueue : t.emitQueue = s.emitQueue := (congrArg State.emitQueue h.steady :)
theorem Placing.combining : t.combining = s.combining := (congrArg State.combining h.steady :)
theorem Placing.combineQueue : t.combineQueue = s.combineQueue := (congrArg State.combineQueue h.steady :)

end

theorem holds_of_progressAlone {s : State} (h : s.progressAlone) {j : Nat} (hj : (s.ctxs.get j).isSome = true) : s.holds j := by
  refine ⟨hj, ?_⟩
  rcases h j with hr | hr <;> rw [hr] <;> rfl

/-- An event's end, when neither the Combine Unit nor the Emit Unit is idle with work waiting: the Solver may start, and writes are placed. -/
theorem settle_placing {s : State} (hcombines : s.combining = none → s.combineQueue = []) (hemits : s.emit = none → s.emitQueue = []) :
    ∃ q j, s.startSolve = { s with solveQueue := q, solving := j } ∧ s.settle = State.offerReady { s with solveQueue := q, solving := j } := by
  obtain ⟨q, j, hstart⟩ := startSolve_apart s
  exact ⟨q, j, hstart, settle_of_startSolve hstart hcombines hemits⟩

/-! ### The context's cells return, the queue is served -/

/-- The context's cells have returned to the pool, the cell wait queue still to be served (R43, step 4). -/
def State.cellsReturned (s : State) (i : Nat) (c : Ctx) : State :=
  { s with ctxs := s.ctxs.set i { c with cells := [], teardown := .closing }, freeCells := s.freeCells + c.cells.length }

theorem returnCells_eq (s : State) (i : Nat) (c : Ctx) : s.returnCells i c = (s.cellsReturned i c).serveCellWait := rfl

theorem closeContext_readyOf_other (s : State) (c : Ctx) {i j : Nat} (hj : j ≠ i) : (s.closeContext i c).readyOf j = s.readyOf j := by
  have howe : (s.oweProgress i).readyOf j = s.readyOf j := by
    unfold State.oweProgress
    split
    · split
      · rfl
      · rw [readyOf_setReady, if_neg hj]
    · rfl
  rw [State.closeContext, readyOf_setReady, if_neg hj, howe]

theorem closeContext_ctxs (s : State) (i : Nat) (c : Ctx) : (s.closeContext i c).ctxs = s.ctxs := oweProgress_ctxs s i

theorem closeContext_apart (s : State) (i : Nat) (c : Ctx) : ∃ r, s.closeContext i c = { s with ready := r } := by
  obtain ⟨r, hr, -⟩ := oweProgress_apart s i
  exact ⟨_, by rw [State.closeContext, hr, State.setReady]⟩

/-- What TEARDOWN_RESUME does once the context's statuses are out (R43, R44). -/
def State.resumed (s : State) (i : Nat) (c : Ctx) : State := (((s.returnCells i c).settle).closeContext i c).settle

section Resume

variable {s : State} {i : Nat} {c : Ctx}

theorem returnCells_serving : Serving s.cellWait (s.cellsReturned i c) (s.returnCells i c) := serveCellWait_serving (s.cellsReturned i c)

/-- Between `u` and `v` writes have been placed and no context has changed but for its last progress write; no unit of `v` is idle with work. -/
structure Rested (u v : State) : Prop where
  ctxs : ∀ k, (v.ctxs.get k).map Ctx.steady = (u.ctxs.get k).map Ctx.steady
  holds : ∀ k, (v.ctxs.get k).isSome = true → v.holds k
  freeCells : v.freeCells = u.freeCells
  cellWait : v.cellWait = u.cellWait
  store : v.store = u.store
  queue : u.queueExtends v
  emits : v.emit = none → v.emitQueue = []
  combines : v.combining = none → v.combineQueue = []

theorem settle_rested {u : State} (halone : u.progressAlone) (hcombines : u.combining = none → u.combineQueue = [])
    (hemits : u.emit = none → u.emitQueue = []) : Rested u u.settle := by
  obtain ⟨q, j, -, hsettle⟩ := settle_placing hcombines hemits
  have hplacing := offerReady_placing { u with solveQueue := q, solving := j }
  have hemit := offerReady_emit { u with solveQueue := q, solving := j }
  rw [← hsettle] at hplacing hemit
  have hholds : ∀ k, (u.ctxs.get k).isSome = true → State.holds { u with solveQueue := q, solving := j } k := fun k hk =>
    holds_of_progressAlone (s := { u with solveQueue := q, solving := j }) halone hk
  have hctxs : ∀ k, (u.settle.ctxs.get k).map Ctx.steady = (u.ctxs.get k).map Ctx.steady := fun k => hplacing.ctx_steady (hholds k)
  refine ⟨hctxs, fun k hk => hplacing.stays k (hholds k ?_), hplacing.freeCells, hplacing.cellWait, hplacing.store, hplacing.queue,
    fun hnone => ?_, ?_⟩
  · have hsome := congrArg Option.isSome (hctxs k)
    rwa [Option.isSome_map, Option.isSome_map, hk, eq_comm] at hsome
  · rw [hnone] at hemit
    rw [hplacing.emitQueue]
    exact hemits (Option.isSome_eq_false_iff.mp hemit.symm |> Option.isNone_iff_eq_none.mp)
  · rw [hplacing.combining, hplacing.combineQueue]
    exact hcombines

/-- What a resumed teardown of slot `i` leaves, in every case, `u` being the state with its cells back and the queue served. -/
structure ResumeFrame (s : State) (i : Nat) (u t : State) : Prop where
  others : ∀ j, j ≠ i → (t.ctxs.get j).map Ctx.steady = (u.ctxs.get j).map Ctx.steady
  freeCells : t.freeCells = u.freeCells
  cellWait : t.cellWait = u.cellWait
  store : t.store = u.store
  queue : s.queueExtends t
  own : t.ctxs.get i = none ∨ ∃ c', t.ctxs.get i = some c' ∧ c'.teardown = .closing ∧ c'.cells = []

/-- A context is closed in a state at rest: the others stay, its own slot is FREE or waits to be. -/
theorem closeContext_frame {u v : State} (h : Rested u v) {d : Ctx} (hd : v.ctxs.get i = some d) (hteardown : d.teardown = .closing)
    (hcells : d.cells = []) : ResumeFrame u i u (v.closeContext i c).settle := by
  obtain ⟨r, hclose⟩ := closeContext_apart v i c
  obtain ⟨w, hw⟩ : ∃ w, w = v.closeContext i c := ⟨_, rfl⟩
  have hctxs : w.ctxs = v.ctxs := by rw [hw, closeContext_ctxs]
  obtain ⟨q, j, -, hsettle⟩ := settle_placing (s := w) (by rw [hw, hclose]; exact h.combines) (by rw [hw, hclose]; exact h.emits)
  have hplacing := offerReady_placing { w with solveQueue := q, solving := j }
  rw [← hw, hsettle]
  generalize State.offerReady { w with solveQueue := q, solving := j } = t at hplacing
  refine ⟨fun k hk => ?_, ?_, ?_, ?_, ?_, ?_⟩
  · rw [← h.ctxs k, ← hctxs]
    refine hplacing.ctx_steady (fun hsome => ⟨hsome, ?_⟩)
    show (w.readyOf k).all CtxWrite.notDone = true
    rw [hw, closeContext_readyOf_other v c hk]
    exact (h.holds k (by rw [← hctxs]; exact hsome)).2
  · exact hplacing.freeCells.trans ((show w.freeCells = v.freeCells by rw [hw, hclose]).trans h.freeCells)
  · exact hplacing.cellWait.trans ((show w.cellWait = v.cellWait by rw [hw, hclose]).trans h.cellWait)
  · exact hplacing.store.trans ((show w.store = v.store by rw [hw, hclose]).trans h.store)
  · obtain ⟨m1, h1⟩ := h.queue
    obtain ⟨m2, h2⟩ := hplacing.queue
    have hport : w.port = v.port := by rw [hw, hclose]
    refine ⟨m1 ++ m2, ?_⟩
    rw [h2, ← List.append_assoc, ← h1, ← hport]
  · rcases hplacing.ctxs i with hsame | ⟨hnone, -⟩
    · right
      rw [show ({ w with solveQueue := q, solving := j } : State).ctxs.get i = some d by rw [← hd, ← hctxs]] at hsame
      obtain ⟨c', hc', hsteady⟩ := Option.map_eq_some_iff.mp hsame
      exact ⟨c', hc', (congrArg Ctx.teardown hsteady :).trans hteardown, (congrArg Ctx.cells hsteady :).trans hcells⟩
    · exact .inl hnone

theorem resumed_frame (hcalm : Calm s) (hi : i ∉ s.cellWait) : ResumeFrame s i (s.returnCells i c) (s.resumed i c) := by
  obtain ⟨u, hu⟩ : ∃ u, u = s.returnCells i c := ⟨_, rfl⟩
  have hserving : Serving s.cellWait (s.cellsReturned i c) u := hu ▸ returnCells_serving
  have hrested : Rested u u.settle := settle_rested (hserving.ready (calm_progressAlone (s := s.cellsReturned i c) hcalm.ready))
    (by rw [hserving.combining, hserving.combineQueue]; exact hcalm.combines) (by rw [hserving.emit, hserving.emitQueue]; exact hcalm.emits)
  have hspine := hserving.spines i hi
  rw [show (s.cellsReturned i c).ctxs.get i = some { c with cells := [], teardown := .closing } from Table.get_set_same _ _ _] at hspine
  obtain ⟨c1, hc1, hspine⟩ := Option.map_eq_some_iff.mp hspine
  have hsteady := hrested.ctxs i
  rw [hc1] at hsteady
  obtain ⟨d, hd, hsteady⟩ := Option.map_eq_some_iff.mp hsteady
  have hframe := closeContext_frame (c := c) hrested hd ((congrArg Ctx.teardown hsteady :).trans (congrArg Ctx.teardown hspine :))
    ((congrArg Ctx.cells hsteady :).trans (congrArg Ctx.cells hspine :))
  rw [State.resumed, ← hu]
  refine ⟨hframe.others, hframe.freeCells, hframe.cellWait, hframe.store, ?_, hframe.own⟩
  obtain ⟨more, hmore⟩ := hframe.queue
  exact ⟨more, by rw [hmore, hserving.port]; rfl⟩

end Resume

/-! ### Contexts served that have no Feed entries -/

/-- Between `s`, in which no slot had a write ready, and `t` contexts of `waits` that list no entry may have taken cells. -/
structure ServingUnlisted (waits : List Nat) (s t : State) : Prop where
  apart : ∃ ctxs freeCells cellWait ready solveQueue store, t =
    { s with ctxs := ctxs, freeCells := freeCells, cellWait := cellWait, ready := ready, solveQueue := solveQueue, store := store }
  others : ∀ j, j ∉ waits → t.ctxs.get j = s.ctxs.get j
  lists : ∀ j ∈ waits, ∀ d, t.ctxs.get j = some d → d.feedList = []
  ready : t.ready.wf = true
  rows : ∀ r ∈ t.ready.rows, r.2 = [.progress] ∧ r.1 ∈ waits ∧ (t.ctxs.get r.1).isSome = true

theorem enterSolving_unlisted {s : State} {i : Nat} {c : Ctx} (hc : s.ctxs.get i = some c) (hfeed : c.feedList = []) :
    ∃ store, s.enterSolving i = State.oweProgress
      { s with ctxs := s.ctxs.set i (c.seatedIn (s.freeCellList.take c.cellNeed)), freeCells := s.freeCells - c.cellNeed,
               solveQueue := s.solveQueue ++ [i], store := store } i := by
  have hrun := openRun_unlisted i (min c.geo.width c.geo.segCount) 0 { s with freeCells := s.freeCells - c.cellNeed } s.ctxs s.store
    { c with state := .solving, cells := s.freeCellList.take c.cellNeed } hfeed
  rw [enterSolving_eq hc]
  exact ⟨_, congrArg (fun x : State => (x.joinSolve i).oweProgress i) hrun⟩

theorem oweProgress_rows {s : State} {i : Nat} (hrows : ∀ r ∈ s.ready.rows, r.2 = [.progress]) :
    ∀ r ∈ (s.oweProgress i).ready.rows, r ∈ s.ready.rows ∨ r = (i, [.progress]) ∧ (s.ctxs.get i).isSome = true := by
  intro r hr
  unfold State.oweProgress at hr
  split at hr
  · next c hc =>
    split at hr
    · exact .inl hr
    · next hnot =>
      have hready : s.readyOf i = [] := by
        cases hget : s.ready.get i with
        | none => simp [State.readyOf, hget]
        | some ws =>
          have hws : ws = [.progress] := hrows _ (Table.mem_of_get hget)
          exact absurd (.inr (by simp [State.readyOf, hget, hws])) hnot
      rw [hready] at hr
      rcases mem_putRow hr with heq | hmem
      · exact .inr ⟨heq, by rw [hc]; rfl⟩
      · exact .inl hmem
  · exact .inl hr

theorem ServingUnlisted.step {waits : List Nat} {s t : State} (h : ServingUnlisted waits s t) {i : Nat} (rest : List Nat) {c : Ctx}
    (hi : i ∈ waits) (hc : t.ctxs.get i = some c) : ServingUnlisted waits s (State.enterSolving { t with cellWait := rest } i) := by
  obtain ⟨store, henter⟩ := enterSolving_unlisted (s := { t with cellWait := rest }) hc (h.lists i hi c hc)
  obtain ⟨ctxs, freeCells, cellWait, ready, solveQueue, store', happart⟩ := h.apart
  rw [henter]
  generalize hset : t.ctxs.set i (c.seatedIn _) = ctxs'
  have hctxs : ∀ j, ctxs'.get j = if j = i then some (c.seatedIn (State.freeCellList { t with cellWait := rest } |>.take c.cellNeed))
      else t.ctxs.get j := fun j => by rw [← hset, Table.get_set]
  obtain ⟨u, hu⟩ : ∃ u, u = ({ t with cellWait := rest, ctxs := ctxs', freeCells := t.freeCells - c.cellNeed,
                                      solveQueue := t.solveQueue ++ [i], store := store } : State) := ⟨_, rfl⟩
  show ServingUnlisted waits s (State.oweProgress { t with cellWait := rest, ctxs := ctxs', freeCells := t.freeCells - c.cellNeed,
                                                           solveQueue := t.solveQueue ++ [i], store := store } i)
  rw [← hu]
  have hget : ∀ j, (u.oweProgress i).ctxs.get j = ctxs'.get j := fun j => by rw [oweProgress_ctxs, hu]
  obtain ⟨r, hr, hwf⟩ := oweProgress_apart u i
  refine ⟨⟨ctxs', t.freeCells - c.cellNeed, rest, r, t.solveQueue ++ [i], store, by rw [hr, hu, happart]⟩, fun j hj => ?_, fun j hj d hd => ?_, ?_,
    fun x hx => ?_⟩
  · rw [hget, hctxs, if_neg (fun e : j = i => hj (by rw [e]; exact hi)), h.others j hj]
  · rw [hget, hctxs] at hd
    split at hd
    · cases hd; exact (openedRun_feedList _ _ _).trans (h.lists i hi c hc)
    · exact h.lists j hj d hd
  · rw [hr]; exact hwf (by rw [hu]; exact h.ready)
  · have hrows := oweProgress_rows (s := u) (i := i) (fun y hy => (h.rows y (by rw [hu] at hy; exact hy)).1) x hx
    rw [hget, hctxs]
    rcases hrows with hold | ⟨rfl, -⟩
    · obtain ⟨h1, h2, h3⟩ := h.rows x (by rw [hu] at hold; exact hold)
      refine ⟨h1, h2, ?_⟩
      split
      · rfl
      · exact h3
    · exact ⟨rfl, hi, by rw [if_pos rfl]; rfl⟩

theorem serveCellWait_unlisted {s : State} (hready : s.ready.rows = []) (hlists : ∀ j ∈ s.cellWait, ∀ d, s.ctxs.get j = some d → d.feedList = []) :
    ServingUnlisted s.cellWait s s.serveCellWait := by
  refine serveCells_induct _ (fun t i rest c ht hi hc => ht.step rest hi hc) s ?_ (fun _ h => h)
  exact ⟨⟨_, _, _, _, _, _, rfl⟩, fun _ _ => rfl, hlists, by rw [Table.wf, hready]; rfl, fun r hr => by rw [hready] at hr; cases hr⟩

end Sys2Proof.Machine
end

section
/-! PROOFS. TEARDOWN_RESUME with room for every write (R43, R44, R54). -/

namespace Sys2Proof.Machine

/-! ### Closing a context beside the Solver -/

theorem startSolve_ready (s : State) (r : Table (List CtxWrite)) :
    State.startSolve { s with ready := r } = { s.startSolve with ready := r } := by
  rcases s with ⟨⟩
  simp only [State.startSolve]
  split
  · split <;> rfl
  · rfl

theorem closeContext_solver (s : State) (i : Nat) (c : Ctx) (q : List Nat) (j : Option Solve) :
    State.closeContext { s with solveQueue := q, solving := j } i c = { s.closeContext i c with solveQueue := q, solving := j } := by
  have howe : State.oweProgress { s with solveQueue := q, solving := j } i = { s.oweProgress i with solveQueue := q, solving := j } := by
    simp only [State.oweProgress]
    cases s.ctxs.get i with
    | none => rfl
    | some d =>
      show (if d.silent = true ∨ CtxWrite.progress ∈ s.readyOf i then _ else _) = _
      by_cases h : d.silent = true ∨ CtxWrite.progress ∈ s.readyOf i
      · simp only [if_pos h]
      · simp only [if_neg h]
        rfl
  rw [State.closeContext, howe]
  rfl

/-- A context is closed and its writes are placed; the Solver may have taken the head of its queue. -/
theorem closeContext_settle {s : State} {i : Nat} {c d : Ctx} {o : EndOutcome} (hline : s.port.claimLine = []) (hstatus : s.statusQueue = [])
    (hready : s.ready.rows = []) (howed : s.ctl.reportOwed = false) (hmessages : s.ctl.messages = 0)
    (hunits : ∀ e, s.emit = some e → e.targetsLeft = []) (hemits : s.emit = none → s.emitQueue = [])
    (hcombines : s.combining = none → s.combineQueue = []) (h : s.walker.ready = none) (hd : s.ctxs.get i = some d)
    (hclosing : d.teardown = .closing) (ho : c.outcome = some o) (hroom : s.port.writeQueue.length + (2 + d.aborts.length) ≤ 64) :
    ∃ q j, s.startSolve = { s with solveQueue := q, solving := j } ∧ (s.closeContext i c).settle =
      State.slotLeft { s with solveQueue := q, solving := j } (s.ctxs.erase i) i [] (closingWrites i c d o) := by
  obtain ⟨q, j, hstart⟩ := startSolve_apart s
  obtain ⟨r, hclose⟩ := closeContext_apart s i c
  have hstart' : (s.closeContext i c).startSolve = State.closeContext { s with solveQueue := q, solving := j } i c := by
    rw [closeContext_solver s i c q j, hclose]
    exact (startSolve_ready s r).trans (congrArg (fun x : State => { x with ready := r }) hstart)
  refine ⟨q, j, hstart, ?_⟩
  rw [settle_of_startSolve hstart' (by rw [closeContext_solver s i c q j, hclose]; exact hcombines) (by rw [closeContext_solver s i c q j, hclose]; exact hemits)]
  exact closeContext_offerReady (s := { s with solveQueue := q, solving := j }) hline hstatus hready howed hmessages hunits h hd hclosing ho hroom

/-! ### With no context waiting for cells -/

section Resumed

variable {s : State} {i : Nat} {c : Ctx} {o : EndOutcome}

theorem cellsReturned_get (s : State) (i : Nat) (c : Ctx) :
    (s.cellsReturned i c).ctxs.get i = some { c with cells := [], teardown := .closing } := Table.get_set_same _ _ _

/-- With no context waiting, the teardown ends at once: the slot is FREE, its cells are back, its last writes placed. -/
theorem resumed_alone (hrest : s.atRest (2 + c.aborts.length) = true) (hwait : s.cellWait = []) (ho : c.outcome = some o) :
    s.resumed i c = { s with
      ctxs := s.ctxs.erase i
      freeCells := s.freeCells + c.cells.length
      port := { s.port with writeQueue := s.port.writeQueue ++ closingWrites i c { c with cells := [], teardown := .closing } o } } := by
  obtain ⟨hcalm, hready, hroom⟩ := (s.atRest_iff _).1 hrest
  have hserve : s.returnCells i c = s.cellsReturned i c := by
    have hwait' : (s.cellsReturned i c).cellWait = [] := hwait
    rw [returnCells_eq, State.serveCellWait, hwait']
    rfl
  have hcalm' : Calm (s.cellsReturned i c) := { hcalm with }
  obtain ⟨q, j, hstart, hsettle⟩ := closeContext_settle hcalm'.line hcalm'.statuses hcalm'.ready hcalm'.owed hcalm'.messages hcalm'.units
    hcalm'.emits hcalm'.combines hready (cellsReturned_get s i c) rfl ho hroom
  have hidle := (startSolve_idle hcalm'.solves).symm.trans hstart
  rw [State.resumed, hserve, settle_calm _ hcalm' hready, hsettle, ← hidle, State.slotLeft]
  have hrows : s.ready = ⟨[]⟩ := by rw [← hcalm.ready]
  rw [State.cellsReturned, hrows, Table.erase_set]
  rfl

/-! ### With room for every context's write -/

/-- With nothing left over but what slots have readied, the writers that have something new are slots. -/
theorem newWriters_slots {u : State} (hline : u.port.claimLine = []) (hstatus : u.statusQueue = []) (howed : u.ctl.reportOwed = false)
    (hmessages : u.ctl.messages = 0) (hunits : ∀ e, u.emit = some e → e.targetsLeft = []) :
    ∀ w ∈ u.newWriters, ∃ k, k ∈ u.ready.keys ∧ w = .slot k := by
  intro w hw
  rw [newWriters_eq hline] at hw
  obtain ⟨hw, hnext⟩ := List.mem_filter.mp hw
  rcases List.mem_append.mp hw with hw | hw
  · have hw' : w = .registry ∨ w = .emit ∨ w = .control := by simpa using hw
    rcases hw' with rfl | rfl | rfl
    · rw [nextWrite_registry_none hstatus] at hnext; cases hnext
    · rw [nextWrite_emit_none hunits] at hnext; cases hnext
    · rw [nextWrite_control_none u howed hmessages] at hnext; cases hnext
  · obtain ⟨k, hk, rfl⟩ := List.mem_map.mp hw
    exact ⟨k, hk, rfl⟩

theorem readyOf_key {u : State} (hwf : u.ready.wf = true) (hrows : ∀ r ∈ u.ready.rows, r.2 = [.progress] ∧ (u.ctxs.get r.1).isSome = true)
    {k : Nat} (hk : k ∈ u.ready.keys) : ∃ d, u.ctxs.get k = some d ∧ u.readyOf k = [.progress] := by
  obtain ⟨r, hr, rfl⟩ := List.mem_map.mp hk
  obtain ⟨hws, hsome⟩ := hrows r hr
  obtain ⟨d, hd⟩ := Option.isSome_iff_exists.mp hsome
  refine ⟨d, hd, ?_⟩
  rw [State.readyOf, Table.get_of_mem hwf hr, hws]
  rfl

/-- When each slot that has something ready has one progress write, and no other writer has anything, all of them are placed. -/
theorem offerReady_progresses {u : State} (hline : u.port.claimLine = []) (hstatus : u.statusQueue = []) (howed : u.ctl.reportOwed = false)
    (hmessages : u.ctl.messages = 0) (hunits : ∀ e, u.emit = some e → e.targetsLeft = []) (hready : u.walker.ready = none)
    (hwf : u.ready.wf = true) (hrows : ∀ r ∈ u.ready.rows, r.2 = [.progress] ∧ (u.ctxs.get r.1).isSome = true)
    (hroom : u.port.writeQueue.length + u.ready.keys.length ≤ 64) :
    ∃ ctxs served n, u.offerReady =
        { u with ctxs := ctxs, ready := ⟨[]⟩, port := { u.port with writeQueue := u.port.writeQueue ++ served }, draws := n } ∧
      (∀ j, j ∉ u.ready.keys → ctxs.get j = u.ctxs.get j) ∧ served.length ≤ u.ready.keys.length ∧ ∀ q ∈ served, q.kind = .progress := by
  have hslots := newWriters_slots hline hstatus howed hmessages hunits
  have hsole : ∀ w ∈ u.newWriters, ∃ q, SoleWrite u w q ∧ q.kind = .progress := by
    intro w hw
    obtain ⟨k, hk, rfl⟩ := hslots w hw
    obtain ⟨d, hd, hrd⟩ := readyOf_key hwf hrows hk
    exact ⟨_, .progress hd hrd, rfl⟩
  have hcount : u.newWriters.length ≤ u.ready.keys.length := by
    have hsub : u.newWriters.Subperm (u.ready.keys.map Writer.slot) := by
      refine (newWriters_nodup hwf).subperm (fun w hw => ?_)
      obtain ⟨k, hk, rfl⟩ := hslots w hw
      exact List.mem_map_of_mem hk
    simpa using hsub.length_le
  have hnone : .control ∉ u.newWriters := fun h => by
    obtain ⟨k, -, hk⟩ := hslots _ h
    cases hk
  obtain ⟨ws, n, hperm, hplaced⟩ := offerReady_sole hwf (fun w hw => (hsole w hw).imp fun _ h => h.1) hline hready (by omega)
    (fun h => absurd h hnone)
  obtain ⟨ctl, ctxs, ready, hv⟩ := hplaced.apart
  have hctl : ctl = u.ctl := by
    have hctl := hplaced.untold (fun h => hnone (hperm.mem_iff.mp h))
    rwa [hv] at hctl
  have hempty : ready = ⟨[]⟩ := by
    have hnil : u.offerReady.ready.rows = [] := by
      refine List.eq_nil_iff_forall_not_mem.mpr (fun r hr => ?_)
      obtain ⟨hmem, hnot⟩ := hplaced.ready r hr
      have hkey : r.1 ∈ u.ready.keys := List.mem_map_of_mem hmem
      obtain ⟨d, hd, hrd⟩ := readyOf_key hwf hrows hkey
      refine hnot (hperm.mem_iff.mpr ?_)
      rw [newWriters_eq hline]
      refine List.mem_filter.mpr ⟨List.mem_append_right _ (List.mem_map_of_mem hkey), ?_⟩
      rw [nextWrite_progress hd hrd]
      rfl
    rw [hv] at hnil
    exact congrArg Table.mk hnil
  refine ⟨ctxs, ws.map u.readied, n, by rw [hv, hempty, hctl], fun j hj => ?_, ?_, fun x hx => ?_⟩
  · have hctx := hplaced.ctxs j
    rw [if_neg (fun h => ?_), hv] at hctx
    · exact hctx
    · obtain ⟨k, hk, hslot⟩ := hslots _ (hperm.mem_iff.mp h)
      exact hj (Writer.slot.inj hslot ▸ hk)
  · rw [List.length_map, hperm.length_eq]
    exact hcount
  · obtain ⟨w, hw, rfl⟩ := List.mem_map.mp hx
    obtain ⟨q, hq, hkind⟩ := hsole w (hperm.mem_iff.mp hw)
    rw [hq.readied]
    exact hkind

/-- The writes of contexts that were served and list no entry are all placed, when there is room. -/
theorem servedPlaced (hcalm : Calm s) (hready : s.walker.ready = none) (hi : i ∉ s.cellWait)
    (hroom : s.port.writeQueue.length + s.cellWait.length ≤ 64)
    (hlists : ∀ j ∈ s.cellWait, ∀ d, s.ctxs.get j = some d → d.feedList = []) :
    ∃ ctxs served q j n freeCells cellWait store, (s.returnCells i c).settle =
        { s with ctxs := ctxs, ready := ⟨[]⟩, port := { s.port with writeQueue := s.port.writeQueue ++ served },
                 solveQueue := q, solving := j, draws := n, freeCells := freeCells, cellWait := cellWait, store := store } ∧
      ctxs.get i = some { c with cells := [], teardown := .closing } ∧
      served.length ≤ s.cellWait.length ∧ ∀ q ∈ served, q.kind = .progress := by
  have hlists' : ∀ j ∈ (s.cellsReturned i c).cellWait, ∀ d, (s.cellsReturned i c).ctxs.get j = some d → d.feedList = [] := by
    intro j hj d hd
    have hji : j ≠ i := fun e => hi (e ▸ hj)
    exact hlists j hj d ((Table.get_set_other _ hji _).symm.trans hd)
  have hserve := serveCellWait_unlisted (s := s.cellsReturned i c) hcalm.ready hlists'
  rw [← returnCells_eq] at hserve
  obtain ⟨u, hu⟩ : ∃ u, u = s.returnCells i c := ⟨_, rfl⟩
  rw [← hu] at hserve ⊢
  obtain ⟨ctxs, freeCells, cellWait, ready, solveQueue, store, happart⟩ := hserve.apart
  obtain ⟨q, j, -, hsettle⟩ := settle_placing (s := u) (by rw [happart]; exact hcalm.combines) (by rw [happart]; exact hcalm.emits)
  have hkeys : ∀ k ∈ u.ready.keys, k ∈ s.cellWait := by
    intro k hk
    obtain ⟨r, hr, rfl⟩ := List.mem_map.mp hk
    exact (hserve.rows r hr).2.1
  have hcount : u.ready.keys.length ≤ s.cellWait.length := ((Table.keys_nodup hserve.ready).subperm hkeys).length_le
  have hport : u.port = s.port := by rw [happart]; rfl
  obtain ⟨ctxs', served, n, hv, hothers, hfew, hkinds⟩ := offerReady_progresses (u := { u with solveQueue := q, solving := j })
    (by rw [happart]; exact hcalm.line) (by rw [happart]; exact hcalm.statuses) (by rw [happart]; exact hcalm.owed)
    (by rw [happart]; exact hcalm.messages) (by rw [happart]; exact hcalm.units) (by rw [happart]; exact hready) hserve.ready
    (fun r hr => ⟨(hserve.rows r hr).1, (hserve.rows r hr).2.2⟩) (by show u.port.writeQueue.length + u.ready.keys.length ≤ 64; rw [hport]; omega)
  refine ⟨ctxs', served, q, j, n, freeCells, cellWait, store, ?_, ?_, Nat.le_trans hfew hcount, hkinds⟩
  · rw [hsettle, hv, happart]
    rfl
  · rw [hothers i (fun h => hi (hkeys i h))]
    exact (hserve.others i hi).trans (cellsReturned_get s i c)

theorem resumed_served (hrest : s.atRest (2 + c.aborts.length + s.cellWait.length) = true) (hi : i ∉ s.cellWait)
    (hlists : ∀ j ∈ s.cellWait, ∀ d, s.ctxs.get j = some d → d.feedList = []) (ho : c.outcome = some o) :
    (s.resumed i c).ctxs.get i = none ∧ ∃ served, served.length ≤ s.cellWait.length ∧ (∀ q ∈ served, q.kind = .progress) ∧
      (s.resumed i c).port.writeQueue = s.port.writeQueue ++ served ++
        closingWrites i c { c with cells := [], teardown := .closing } o := by
  obtain ⟨hcalm, hready, hroom⟩ := (s.atRest_iff _).1 hrest
  obtain ⟨ctxs, served, q, j, n, freeCells, cellWait, store, hv, hget, hcount, hkinds⟩ :=
    servedPlaced (c := c) hcalm hready hi (by omega) hlists
  obtain ⟨v, hvs⟩ : ∃ v, v = (s.returnCells i c).settle := ⟨_, rfl⟩
  rw [← hvs] at hv
  obtain ⟨q', j', -, hsettle⟩ := closeContext_settle (s := v) (i := i) (c := c) (o := o) (d := { c with cells := [], teardown := .closing })
    (by rw [hv]; exact hcalm.line) (by rw [hv]; exact hcalm.statuses) (by rw [hv]) (by rw [hv]; exact hcalm.owed)
    (by rw [hv]; exact hcalm.messages) (by rw [hv]; exact hcalm.units) (by rw [hv]; exact hcalm.emits) (by rw [hv]; exact hcalm.combines)
    (by rw [hv]; exact hready) (by rw [hv]; exact hget) rfl ho
    (by
      rw [hv]
      show (s.port.writeQueue ++ served).length + _ ≤ 64
      rw [List.length_append]
      show _ + (2 + c.aborts.length) ≤ 64
      omega)
  have hresumed : s.resumed i c = _ := (by rw [State.resumed, ← hvs] : _ = (v.closeContext i c).settle).trans hsettle
  rw [hresumed]
  exact ⟨Table.get_erase_same _ _, served, hcount, hkinds, by rw [hv]; rfl⟩

/-! ### When it acts, and the head of the cell wait queue -/

theorem exec_teardownResume_early {i : Fin 64} (hc : s.ctxs.get i = some c) (hteardown : c.teardown ≠ .statuses) :
    exec (.teardownResume i) s = .next s := by
  have hout : s.statusesOut i c = false := by simp [State.statusesOut, hteardown]
  show execTeardownResume i s = _
  rw [execTeardownResume, hc]
  simp only [hout]
  rfl

theorem exec_teardownResume_due {i : Fin 64} (hc : s.ctxs.get i = some c) (hstate : c.state = .draining) (hteardown : c.teardown = .statuses)
    (hqueue : s.statusQueue = []) : exec (.teardownResume i) s = .next (s.resumed i c) := by
  have hout : s.statusesOut i c = true := by simp [State.statusesOut, hstate, hteardown, hqueue]
  show execTeardownResume i s = _
  rw [execTeardownResume, hc]
  simp only [hout]
  rfl

theorem serveCellWait_stops {rest : List Nat} (hwait : s.cellWait = i :: rest) (hc : s.ctxs.get i = some c)
    (hfit : s.freeCells < c.cellNeed) : s.serveCellWait = s := by
  simp only [State.serveCellWait, hwait, List.length_cons, State.serveCells, hc]
  exact if_pos hfit

theorem serveCellWait_head {rest : List Nat} (hwait : s.cellWait = i :: rest) (hc : s.ctxs.get i = some c)
    (hfit : c.cellNeed ≤ s.freeCells) : s.serveCellWait = (State.enterSolving { s with cellWait := rest } i).serveCellWait := by
  have hrest : (State.enterSolving { s with cellWait := rest } i).cellWait = rest := enterSolving_cellWait _ i
  rw [State.serveCellWait, State.serveCellWait, hrest]
  simp only [hwait, List.length_cons, State.serveCells, hc]
  exact if_neg (by omega)

end Resumed

/-- Settles O53: the serving loop by the head of the queue, the last writes by what one slot places of its own. -/
theorem teardownResume : Obligations.TeardownResume := by
  refine ⟨fun s i c hc hstate => ⟨exec_teardownResume_early hc, ?_, ?_⟩, fun s i rest c hwait hc => ⟨serveCellWait_stops hwait hc, fun hfit => ?_⟩⟩
  · intro o hteardown ho hrest hwait
    obtain ⟨hcalm, -, -⟩ := (s.atRest_iff _).1 hrest
    rw [exec_teardownResume_due hc hstate hteardown hcalm.statuses, resumed_alone hrest hwait ho, List.append_assoc]
    rfl
  · intro o hteardown ho hcalm hready hi
    have hcalm := s.calm_iff.1 hcalm
    have hframe := resumed_frame (c := c) hcalm hi
    refine ⟨_, exec_teardownResume_due hc hstate hteardown hcalm.statuses, hframe.others, hframe.freeCells, hframe.cellWait, hframe.store,
      hframe.queue, hframe.own, fun hrest hlists => ?_⟩
    obtain ⟨hnone, served, hcount, hkinds, hqueue⟩ := resumed_served hrest hi hlists ho
    refine ⟨hnone, served, hcount, hkinds, ?_⟩
    rw [hqueue, List.append_assoc _ _ (_ :: _)]
    rfl
  · have hpool := enterSolving_pool (s := { s with cellWait := rest }) hc
    exact ⟨serveCellWait_head hwait hc hfit, hpool.1, hpool.2.1, hpool.2.2, enterSolving_ctx (s := { s with cellWait := rest }) hc⟩

end Sys2Proof.Machine
end

section
/-! PROOFS. A staging table that lists a slot twice: what marking a context's slots stale then discards (R113, R140, R150). -/

namespace Sys2Proof.Machine

/-! ### A state with one staging slot listed twice -/

/-- A RUNNING context of stripe `stripe` whose fragment 0 is a `role`. -/
def oneRoleContext (stripe : Word64) (role : Role) (slots : Table Position) : Ctx :=
  { geo := { openAddr := 0, notify := false, stripe := stripe, epoch := 0, k := 1, m := 0, sizeCode := 0, fragLength := 1, width := 1,
             errorLimit := 1, stallLimit := 0 }
    state := .running, cells := [], outcome := none, aborts := [], teardown := .draining, counters := ⟨0, 0, 0, 0, 0, 0, 0, 0, 0⟩, stalled := false,
    exposed := true, lastProgress := none, timerRuns := true, elapsed := 0, roles := ⟨[(0, role)]⟩, errors := Table.empty,
    cleanRuns := Table.empty, expiries := 0, base := 0, retired := 0, slots := slots, feedList := [], sinkList := [], table := none }

/-- An OPEN position whose entry of fragment 0 is being read from Feed entry 0. -/
def readPosition : Position :=
  { state := .opened, seg := 0, row := ⟨[(0, { state := .inflight, feed := 0, verified := false })]⟩, binds := Table.empty }

/-- A staging slot that waits for the reissue of its read of segment 0, fragment 0, for context `i`. -/
def retryingSlot (i : Nat) : Staging :=
  { ctx := i, seg := 0, frag := 0, feed := 0, addr := 0, length := 544, phase := .retrying, reissues := 1, stale := false, partner := none,
    data := [] }

/-- Two RUNNING contexts: context 0 reads nothing, fragment 0 of context 1 has FAILED with a read of it left to be discarded. The staging table
lists slot 0 twice, first for context 1 and then for context 0, which no canonical table does. A record's fetch is on the link. -/
def slotListedTwice : State :=
  { State.reset with
    walker := { Walker.reset with state := .fetching }
    port := { Port.reset with
      staging := ⟨[(0, retryingSlot 1), (0, retryingSlot 0)]⟩
      fetch := some ⟨⟨.firstHalf, 0, 1, false⟩, true⟩ }
    ctxs := ⟨[(0, oneRoleContext 0 .source Table.empty), (1, oneRoleContext 1 .failed ⟨[(0, readPosition)]⟩)]⟩
    feeds := ⟨[(0, { addr := 64, notify := false, ctx := 1, frag := 0, first := 0, count := 1, buffer := 0, region := 0, pending := 1,
                     counts := ⟨0, 0, 0, 0, 0, 0⟩ })]⟩ }

/-- A POSTED record of kind `kind` that names context 0, stripe 0 and fragment 0. -/
def plainRecord (kind : Byte) : List Byte := List.replicate 8 0 ++ kind :: List.replicate 55 0

/-- A position of segment 0 that is being emitted, with nothing logged. -/
def emittingPosition : Position := { state := .emitting, seg := 0, row := Table.empty, binds := Table.empty }

/-- The same state with the emit of context 0's one segment under way, its last unit placed. -/
def lastEmit : State :=
  { slotListedTwice with
    ctxs := ⟨[(0, oneRoleContext 0 .source ⟨[(0, emittingPosition)]⟩), (1, oneRoleContext 1 .failed ⟨[(0, readPosition)]⟩)]⟩
    emit := some { ctx := 0, seg := 0, targetsLeft := [] } }

/-! ### Marking context 0's slots stale discards context 1's read -/

theorem settle_feeds_of_idle {s : State} (hcombines : s.combining = none → s.combineQueue = []) (hemits : s.emit = none → s.emitQueue = []) :
    s.settle.feeds = s.feeds := by
  obtain ⟨q, j, -, hsettle⟩ := settle_placing hcombines hemits
  rw [hsettle]
  exact (congrArg State.feeds (offerReady_placing { s with solveQueue := q, solving := j }).steady :)

theorem drop_discards_other : ∃ t, exec (.drop (plainRecord 4)) slotListedTwice = .next t ∧ t.feeds.get 0 = none := by
  refine ⟨_, exec_drop_posted (by decide) (by decide), ?_⟩
  rw [settle_feeds_of_idle (fun _ => by rfl) (fun _ => by rfl)]
  rfl

theorem abort_discards_other : ∃ t, exec (.abort (plainRecord 5)) slotListedTwice = .next t ∧ t.feeds.get 0 = none := by
  refine ⟨_, exec_abort_posted (by decide) (by decide), ?_⟩
  rw [settle_feeds_of_idle (fun _ => by rfl) (fun _ => by rfl)]
  rfl

theorem emitComplete_discards_other : ∃ t, exec .emitComplete lastEmit = .next t ∧ t.feeds.get 0 = none := by
  refine ⟨_, (rfl : _ = Host.Outcome.next (lastEmit.finishEmit { ctx := 0, seg := 0, targetsLeft := [] }).settle), ?_⟩
  rw [settle_feeds_of_idle (fun _ => by rfl) (fun _ => by rfl)]
  rfl

theorem lastEmit_windowed : (oneRoleContext 0 .source ⟨[(0, emittingPosition)]⟩).windowed := by
  have hrow : ∀ n p, (oneRoleContext 0 .source ⟨[(0, emittingPosition)]⟩).slots.get n = some p → n = 0 ∧ p = emittingPosition := by
    intro n p hp
    have hmem := Table.mem_of_get hp
    simpa [oneRoleContext] using hmem
  refine ⟨by decide, ⟨rfl, fun n p hp => ?_⟩, fun n p hp => ?_, fun h => absurd rfl h⟩
  · obtain ⟨rfl, rfl⟩ := hrow n p hp
    rfl
  · obtain ⟨rfl, rfl⟩ := hrow n p hp
    decide

/-- Refutes O41, in the Feed entries of an ABORT of a RUNNING context: they stand only when no staging slot is listed twice, which this clause,
unlike the one on stale marks, does not ask. -/
theorem not_abortTaken : ¬ Obligations.AbortTaken := by
  intro h
  obtain ⟨t, hexec, hnone⟩ := abort_discards_other
  obtain ⟨-, htaken, -⟩ := h slotListedTwice (plainRecord 5) _ (by decide) (by decide) (by decide) ⟨by decide, rfl, rfl⟩
  obtain ⟨t', c', more, hexec', -, -, -, hrest, -⟩ := htaken (by decide) (by decide)
  obtain ⟨-, -, -, -, hfeeds, -⟩ := hrest (by decide)
  obtain rfl : t = t' := Host.Outcome.next.inj (hexec.symm.trans hexec')
  rw [hfeeds] at hnone
  cases hnone

/-- Refutes O40, in the release of a SOURCE's entries with no SPARE left: the Feed entries count as it says only when no staging slot is listed
twice, which this clause, unlike the one on stale marks, does not ask. -/
theorem not_dropTaken : ¬ Obligations.DropTaken := by
  intro h
  obtain ⟨t, hexec, hnone⟩ := drop_discards_other
  obtain ⟨-, hdropped, -⟩ := h slotListedTwice (plainRecord 4) _ (by decide) (by decide) (by decide) ⟨by decide, rfl, rfl⟩ (by decide) (by decide)
  obtain ⟨t', c', more, hexec', -, -, -, -, -, -, -, -, -, -, hshort⟩ := hdropped (by decide) (.inl (by decide))
  obtain ⟨-, -, -, -, hended⟩ := hshort (by decide) (by decide)
  obtain ⟨-, -, -, -, hreleased⟩ := hended (by decide)
  obtain ⟨-, hcounted⟩ := hreleased ⟨rfl, fun n p hp => nomatch hp⟩
  obtain rfl : t = t' := Host.Outcome.next.inj (hexec.symm.trans hexec')
  have hfeed := (hcounted 0 _ rfl (by decide)).1 (by decide)
  rw [hnone] at hfeed
  cases hfeed

/-- Refutes O50, in the Feed entries behind the retire of a context's last segment: its end marks the context's slots stale, and a Feed entry that
does not reach the window's next segment stands only when no staging slot is listed twice, which no premise asks. -/
theorem not_emitComplete : ¬ Obligations.EmitComplete := by
  rintro ⟨-, h, -⟩
  obtain ⟨t, hexec, hnone⟩ := emitComplete_discards_other
  obtain ⟨-, hburst⟩ := h lastEmit 0 0 _ emittingPosition rfl (by decide) rfl (by decide) rfl lastEmit_windowed rfl rfl (fun g hg => nomatch hg)
  obtain ⟨t', c', hexec', hrest⟩ := hburst 1 rfl (.inr rfl) (by decide) (by decide) (by decide) (fun j h1 h2 => absurd h1 (by omega))
    (fun q hq => nomatch hq)
  obtain ⟨-, -, -, -, -, -, -, -, -, -, -, -, -, hone⟩ := hrest
  obtain ⟨-, hfeeds, -⟩ := hone rfl
  obtain rfl : t = t' := Host.Outcome.next.inj (hexec.symm.trans hexec')
  have hfeed := hfeeds 0 _ rfl (by decide)
  rw [hnone] at hfeed
  cases hfeed

end Sys2Proof.Machine
end


section
/-! PROOFS. A combine that ends its context while a staging slot is listed twice (R98, R102, R140, R150). -/

namespace Sys2Proof.Machine

/-- An OPEN position of segment 0 with a verified entry of fragment 0 in the Combine Unit's hands. -/
def judgedPosition : Position :=
  { state := .opened, seg := 0, row := ⟨[(0, { state := .inflight, feed := 5, verified := true })]⟩, binds := Table.empty }

/-- The RUNNING context whose segment is being combined. -/
def judgedContext : Ctx := oneRoleContext 0 .source ⟨[(0, judgedPosition)]⟩

/-- The slot that is being combined, with no byte of a trailer. -/
def combiningSlot : Staging := { retryingSlot 0 with phase := .combining }

/-- `slotListedTwice` while the Combine Unit holds a segment of context 0 that was verified before and has changed since. -/
def judgingListedTwice : State :=
  { slotListedTwice with
    port := { slotListedTwice.port with staging := ⟨[(0, retryingSlot 1), (0, retryingSlot 0), (1, combiningSlot)]⟩ }
    ctxs := ⟨[(0, judgedContext), (1, oneRoleContext 1 .failed ⟨[(0, readPosition)]⟩)]⟩
    combining := some { slot := 1, judged := true } }

theorem combineComplete_discards_other : ∃ t, exec .combineComplete judgingListedTwice = .next t ∧ t.feeds.get 0 = none := by
  refine ⟨_, (rfl : _ = Host.Outcome.next (judgingListedTwice.finishCombine { slot := 1, judged := true }).settle), ?_⟩
  rw [settle_feeds_of_idle (fun _ => by rfl) (fun _ => by rfl)]
  rfl

/-- Refutes O48, in the Feed entries behind an end BUFFER_REUSED: it marks the context's slots stale, and the Feed entries stand as this clause
says only when no staging slot is listed twice, which it, unlike the clause on stale marks, does not ask. -/
theorem not_combineComplete : ¬ Obligations.CombineComplete := by
  rintro ⟨h, -⟩
  obtain ⟨t, hexec, hnone⟩ := combineComplete_discards_other
  obtain ⟨-, -, -, -, hreused⟩ :=
    h judgingListedTwice { slot := 1, judged := true } combiningSlot judgedContext judgedPosition
      { state := .inflight, feed := 5, verified := true } rfl rfl (by decide) rfl rfl rfl rfl rfl
  obtain ⟨t', c', p', hexec', -, -, -, -, -, -, -, -, -, -, -, hfeeds⟩ := hreused .malformed rfl (by decide) rfl rfl
  obtain rfl : t = t' := Host.Outcome.next.inj (hexec.symm.trans hexec')
  rw [hfeeds] at hnone
  cases hnone

end Sys2Proof.Machine
end


section
/-! PROOFS. One position of a context replaced (R49), one fed segment classified (R53), and a source-set change at the window (R61). -/

namespace Sys2Proof.Machine

/-! ### A position replaced -/

@[simp] theorem putPosition_geo (c : Ctx) (seg : Nat) (p : Position) : (c.putPosition seg p).geo = c.geo := rfl
@[simp] theorem putPosition_bones (c : Ctx) (seg : Nat) (p : Position) : (c.putPosition seg p).bones = c.bones := rfl

@[simp] theorem putEntry_seg (p : Position) (f : Nat) (e : Option LogEntry) : (p.putEntry f e).seg = p.seg := rfl
@[simp] theorem putEntry_state (p : Position) (f : Nat) (e : Option LogEntry) : (p.putEntry f e).state = p.state := rfl

theorem holding_seg {c : Ctx} {seg : Nat} {p : Position} (h : c.holding seg = some p) : p.seg = seg := (holding_iff.mp h).2

theorem holding_putPosition_same (c : Ctx) {seg : Nat} {q : Position} (hq : q.seg = seg) : (c.putPosition seg q).holding seg = some q :=
  holding_iff.mpr ⟨Table.get_set_same _ _ _, hq⟩

/-- A segment that shares the slot was not held before either. -/
theorem holding_putPosition_other {c : Ctx} {seg seg' : Nat} {p q : Position} (hp : c.holding seg = some p) (hq : q.seg = seg)
    (hne : seg' ≠ seg) : (c.putPosition seg q).holding seg' = c.holding seg' := by
  obtain ⟨hslot, hseg⟩ := holding_iff.mp hp
  have hget : (c.putPosition seg q).slots.get (seg' % c.geo.width) =
      if seg' % c.geo.width = seg % c.geo.width then some q else c.slots.get (seg' % c.geo.width) := Table.get_set _ _ _ _
  unfold Ctx.holding
  rw [putPosition_geo, hget]
  by_cases hmod : seg' % c.geo.width = seg % c.geo.width
  · rw [if_pos hmod, hmod, hslot]
    simp [hq, hseg, hne.symm]
  · rw [if_neg hmod]

theorem putEntry_ctxs {s : State} {i seg f : Nat} {c : Ctx} {p : Position} (hc : s.ctxs.get i = some c) (hp : c.holding seg = some p)
    (e : Option LogEntry) : (s.putEntry i seg f e).ctxs = s.ctxs.set i (c.putPosition seg (p.putEntry f e)) := by
  simp only [State.putEntry, State.modCtx, hc, hp]

/-! ### One fed segment -/

section Classify

variable {s : State} {i e f seg : Nat} {c : Ctx} (hc : s.ctxs.get i = some c)
include hc

theorem classify_waits (h : c.state = .pending ∨ c.base + c.geo.width ≤ seg) : s.classify i e f seg = s := by
  unfold State.classify
  rw [hc]
  by_cases hstate : c.state = .pending
  · simp [hstate]
  · have hwidth := h.resolve_left hstate
    have hbase : ¬ seg < c.base := by omega
    simp [hstate, hbase, hwidth]

theorem classify_behind (hstate : c.state ≠ .pending) (hseg : seg < c.base) : s.classify i e f seg = s.countLate i e := by
  simp [State.classify, hc, hstate, hseg]

theorem classify_held {p : Position} (hstate : c.state ≠ .pending) (hbase : c.base ≤ seg) (hwidth : seg < c.base + c.geo.width)
    (hp : c.holding seg = some p) :
    s.classify i e f seg =
      if p.state ≠ .opened then s.countLate i e
      else if c.role f = .failed then s.feedOutcome e .unused
      else if (p.row.get f).any (fun en => en.state == .logged || en.state == .inflight || en.state == .contributed) then s.countDuplicate i e
      else s.putEntry i seg f (some ⟨.logged, e, false⟩) := by
  have h1 : ¬ seg < c.base := by omega
  have h2 : ¬ c.base + c.geo.width ≤ seg := by omega
  simp only [State.classify, hc, hstate, h1, h2, hp, if_false]
  refine ite_congr rfl (fun _ => rfl) (fun _ => ite_congr rfl (fun _ => rfl) (fun _ => ?_))
  cases p.row.get f with
  | none => rfl
  | some en => cases hen : en.state <;> simp [hen]

theorem countLate_eq : s.countLate i e = State.feedOutcome
    { s with ctxs := s.ctxs.set i { c with counters := { c.counters with late := min 65535 (c.counters.late + 1) } } } e .late := by
  simp only [State.countLate, State.modCtx, hc]; rfl

theorem countDuplicate_eq : s.countDuplicate i e = State.feedOutcome
    { s with ctxs := s.ctxs.set i { c with counters := { c.counters with duplicate := min 65535 (c.counters.duplicate + 1) } } } e
      .duplicate := by
  simp only [State.countDuplicate, State.modCtx, hc]; rfl

end Classify

/-- Counting in context `i` and handing an outcome leave every other context's bones. -/
theorem counted_bones_other (s : State) {i j : Nat} (e : Nat) (o : FeedOutcome) (f : Ctx → Ctx) (hj : j ≠ i) :
    (((s.modCtx i f).feedOutcome e o).ctxs.get j).map Ctx.bones = (s.ctxs.get j).map Ctx.bones := by
  rw [feedOutcome_bones (s.modCtx i f) e o j, modCtx_get_other s hj]

theorem classify_bones_other (s : State) {i j : Nat} (e f seg : Nat) (hj : j ≠ i) :
    ((s.classify i e f seg).ctxs.get j).map Ctx.bones = (s.ctxs.get j).map Ctx.bones := by
  have h := classify_cases s i e f seg
  generalize s.classify i e f seg = t at h
  obtain rfl | rfl | rfl | rfl | ⟨c, p, -, -, rfl⟩ := h.cases
  · rfl
  · exact counted_bones_other s e .late _ hj
  · exact feedOutcome_bones s e .unused j
  · exact counted_bones_other s e .duplicate _ hj
  · exact putEntry_bones s i seg f _ j

/-- Settles O35: the branches of a classification, one equation each. -/
theorem feedClassification : Obligations.FeedClassification := by
  intro s i e f seg c hc counting late duplicate
  have hlate : s.countLate i e = late := countLate_eq hc
  have hduplicate : s.countDuplicate i e = duplicate := countDuplicate_eq hc
  refine ⟨classify_waits hc, fun hstate hseg => (classify_behind hc hstate hseg).trans hlate, fun p hstate hbase hwidth hp => ?_,
    fun j hj d hd => ?_⟩
  · rw [classify_held hc hstate hbase hwidth hp]
    refine ⟨fun hopen => ?_, fun hopen hrole => ?_, fun en hopen hrole hen hlive => ?_, fun hopen hrole hgone => ?_⟩
    · rw [if_pos hopen, hlate]
    · rw [if_neg (not_not_intro hopen), if_pos hrole]
    · rw [if_neg (not_not_intro hopen), if_neg hrole, hen, if_pos (by rcases hlive with h | h | h <;> simp [h]), hduplicate]
    · have hnone : ¬ (p.row.get f).any (fun en => en.state == .logged || en.state == .inflight || en.state == .contributed) = true := by
        cases hen : p.row.get f with
        | none => simp
        | some en => rcases hgone en hen with h | h <;> simp [h]
      rw [if_neg (not_not_intro hopen), if_neg hrole, if_neg hnone, putEntry_ctxs hc hp, putEntry_feeds]
      refine ⟨_, _, Table.get_set_same _ _ _, putPosition_bones _ _ _,
        holding_putPosition_same c ((putEntry_seg p f _).trans (holding_seg hp)), ?_, fun g hg => ?_, rfl⟩
      · rw [putEntry_row_get, if_pos rfl]
      · rw [putEntry_row_get, if_neg hg]
  · have hbones := classify_bones_other s e f seg hj
    rw [hd] at hbones
    obtain ⟨d', hd', hbones'⟩ := Option.map_eq_some_iff.mp hbones
    exact ⟨d', hd', hbones'⟩

/-! ### A source-set change at the window -/

theorem mem_insertBySeg {p q : Position} {ps : List Position} : q ∈ insertBySeg p ps ↔ q = p ∨ q ∈ ps := by
  induction ps with
  | nil => simp [insertBySeg]
  | cons r ps ih =>
    unfold insertBySeg
    split
    · simp
    · simp only [List.mem_cons, ih]; tauto

theorem mem_foldr_insertBySeg {q : Position} {ps : List Position} : q ∈ ps.foldr insertBySeg [] ↔ q ∈ ps := by
  induction ps with
  | nil => simp
  | cons p ps ih => rw [List.foldr_cons, mem_insertBySeg, ih, List.mem_cons]

theorem mem_positions {c : Ctx} {p : Position} : p ∈ c.positions ↔ ∃ n, (n, p) ∈ c.slots.rows := by
  simp [Ctx.positions, mem_foldr_insertBySeg]

theorem mem_positions_of_holding {c : Ctx} {seg : Nat} {p : Position} (h : c.holding seg = some p) : p ∈ c.positions :=
  mem_positions.mpr ⟨_, Table.mem_of_get (holding_iff.mp h).1⟩

/-- In a seated context the positions are those that hold their segments. -/
theorem holding_of_mem_positions {c : Ctx} (hs : c.seated) {p : Position} (h : p ∈ c.positions) : c.holding p.seg = some p := by
  obtain ⟨n, hn⟩ := mem_positions.mp h
  have hget := Table.get_of_mem hs.1 hn
  refine holding_iff.mpr ⟨?_, rfl⟩
  rw [hs.2 n p hget]
  exact hget

theorem mem_openSegs {c : Ctx} (hs : c.seated) {seg : Nat} : seg ∈ c.openSegs ↔ ∃ p, c.holding seg = some p ∧ p.state = .opened := by
  simp only [Ctx.openSegs, List.mem_map, List.mem_filter, beq_iff_eq]
  constructor
  · rintro ⟨p, ⟨hp, hopen⟩, rfl⟩
    exact ⟨p, holding_of_mem_positions hs hp, hopen⟩
  · rintro ⟨p, hp, hopen⟩
    exact ⟨p, ⟨mem_positions_of_holding hp, hopen⟩, holding_seg hp⟩

theorem mem_openSegs_of_holding {c : Ctx} {seg : Nat} {p : Position} (hp : c.holding seg = some p) (hopen : p.state = .opened) :
    seg ∈ c.openSegs :=
  List.mem_map.mpr ⟨p, List.mem_filter.mpr ⟨mem_positions_of_holding hp, by simp [hopen]⟩, holding_seg hp⟩

/-- The context of a source-set change, its positions reset. -/
def Ctx.resetPositions (c : Ctx) : Ctx := { c with slots := c.slots.mapValues Position.reset }

theorem resetContributions_eq {s : State} {i : Nat} {c : Ctx} (hc : s.ctxs.get i = some c) : s.resetContributions i =
    { s with ctxs := s.ctxs.set i c.resetPositions, store := zeroCells s.store (c.openSegs.flatMap c.cellsOf) } := by
  simp [State.resetContributions, hc, Ctx.resetPositions]

@[simp] theorem reset_state (p : Position) : p.reset.state = p.state := by unfold Position.reset; split <;> rfl
@[simp] theorem reset_seg (p : Position) : p.reset.seg = p.seg := by unfold Position.reset; split <;> rfl
@[simp] theorem reset_binds (p : Position) : p.reset.binds = p.binds := by unfold Position.reset; split <;> rfl

theorem reset_row_get (p : Position) (f : Nat) : p.reset.row.get f = (p.row.get f).map p.unread := by
  have hunread : p.unread = if p.state = .opened then LogEntry.reset else id := by
    funext en; rw [Position.unread_eq]; split <;> rfl
  rw [hunread]
  unfold Position.reset
  split
  · exact Table.get_mapValues _ _ _
  · exact Option.map_id'.symm

/-- The cells of OPEN positions are zeroed, and no other. -/
theorem cellBytesOf_zeroed {c : Ctx} (store : Table (List Byte)) :
    (∀ seg p, c.holding seg = some p → p.state = .opened → ∀ n ∈ c.cellsOf seg,
      cellBytesOf (zeroCells store (c.openSegs.flatMap c.cellsOf)) n = List.replicate 4096 0) ∧
    (c.seated → ∀ n, (∀ seg p, c.holding seg = some p → p.state = .opened → n ∉ c.cellsOf seg) →
      cellBytesOf (zeroCells store (c.openSegs.flatMap c.cellsOf)) n = cellBytesOf store n) := by
  constructor
  · intro seg p hp hopen n hn
    rw [cellBytesOf_zeroCells, if_pos (List.mem_flatMap.mpr ⟨seg, mem_openSegs_of_holding hp hopen, hn⟩)]
  · intro hs n hn
    rw [cellBytesOf_zeroCells, if_neg]
    intro hmem
    obtain ⟨seg, hseg, hcell⟩ := List.mem_flatMap.mp hmem
    obtain ⟨p, hp, hopen⟩ := (mem_openSegs hs).mp hseg
    exact hn seg p hp hopen hcell

/-- Settles O49: rows are reset entry by entry, cells are zeroed through the segments of OPEN positions. -/
theorem contributionsReset : Obligations.ContributionsReset := by
  intro s i c hc hs
  rw [resetContributions_eq hc]
  obtain ⟨hzeroed, hother⟩ := cellBytesOf_zeroed (c := c) s.store
  refine ⟨c.resetPositions, Table.get_set_same _ _ _, rfl, fun n p hp => ?_, fun seg p hp hopen t ht => ?_, hother hs, rfl⟩
  · refine ⟨p.reset, by simp [Ctx.resetPositions, hp], reset_state p, reset_seg p, reset_binds p, fun f en hen => ?_⟩
    refine ⟨p.unread en, by rw [reset_row_get, hen]; rfl, ?_⟩
    unfold Position.unread
    split <;> exact ⟨rfl, rfl, rfl⟩
  · exact hzeroed seg p hp hopen _ (List.mem_map.mpr ⟨t, List.mem_range.mpr ht, rfl⟩)

end Sys2Proof.Machine
end


section
/-! PROOFS. The read arbiter's choice and its offer (R58, R141 to R143). -/

namespace Sys2Proof.Machine

/-! ### What a context offers -/

theorem eligible_iff {c : Ctx} {p : Position} {f : Nat} : c.eligible p f = true ↔
    c.state = .running ∧ p.state = .opened ∧ c.role f = .source ∧ ∃ en, p.row.get f = some en ∧ en.state = .logged := by
  cases hen : p.row.get f <;> simp [Ctx.eligible, hen, and_assoc]

theorem offerAt_some_iff {c : Ctx} {p : Position} {seg f e : Nat} : c.offerAt p = some (seg, f, e) ↔
    p.seg = seg ∧ f < 24 ∧ c.eligible p f = true ∧ (∀ g < f, c.eligible p g = false) ∧ ∃ en, p.row.get f = some en ∧ en.feed = e := by
  simp only [Ctx.offerAt, Option.bind_eq_some_iff, Option.map_eq_some_iff, List.find?_range_eq_some, List.mem_range,
    Bool.not_eq_true', Prod.mk.injEq, Config.fragmentCount]
  constructor
  · rintro ⟨g, ⟨hg, hlt, hfirst⟩, en, hen, rfl, rfl, rfl⟩
    exact ⟨rfl, hlt, hg, hfirst, en, hen, rfl⟩
  · rintro ⟨rfl, hlt, hf, hfirst, en, hen, rfl⟩
    exact ⟨f, ⟨hf, hlt, hfirst⟩, en, hen, rfl, rfl, rfl⟩

theorem offerAt_none_iff {c : Ctx} {p : Position} : c.offerAt p = none ↔ ∀ f < 24, c.eligible p f = false := by
  have hrow : ∀ f, c.eligible p f = true → (p.row.get f).map (fun e => (p.seg, f, e.feed)) ≠ none := by
    intro f hf
    obtain ⟨-, -, -, en, hen, -⟩ := eligible_iff.mp hf
    simp [hen]
  simp only [Ctx.offerAt, Option.bind_eq_none_iff]
  constructor
  · intro h f hf
    by_contra helig
    cases hfind : (List.range Config.fragmentCount).find? (c.eligible p) with
    | none => exact helig (by simpa using List.find?_eq_none.mp hfind f (List.mem_range.mpr hf))
    | some g => exact hrow g (List.find?_some hfind) (h g hfind)
  · intro h g hfind
    have hmem := List.mem_range.mp (List.mem_of_find?_eq_some hfind)
    exact absurd (List.find?_some hfind) (by rw [h g hmem]; simp)

theorem offered_none_iff {c : Ctx} : c.offered = none ↔ ∀ p ∈ c.positions, ∀ f < 24, c.eligible p f = false := by
  simp only [Ctx.offered, List.findSome?_eq_none_iff, offerAt_none_iff]

/-! ### Positions stand in ascending segment order -/

theorem insertBySeg_sorted (p : Position) {ps : List Position} (h : ps.Pairwise (fun q r => q.seg ≤ r.seg)) :
    (insertBySeg p ps).Pairwise (fun q r => q.seg ≤ r.seg) := by
  induction ps with
  | nil => simp [insertBySeg]
  | cons q ps ih =>
    obtain ⟨hq, hps⟩ := List.pairwise_cons.mp h
    unfold insertBySeg
    split
    · next hle =>
      refine List.pairwise_cons.mpr ⟨fun r hr => ?_, h⟩
      rcases List.mem_cons.mp hr with rfl | hr
      · exact hle
      · exact hle.trans (hq r hr)
    · next hle =>
      refine List.pairwise_cons.mpr ⟨fun r hr => ?_, ih hps⟩
      rcases mem_insertBySeg.mp hr with rfl | hr
      · omega
      · exact hq r hr

theorem positions_sorted (c : Ctx) : c.positions.Pairwise (fun p q => p.seg ≤ q.seg) := by
  unfold Ctx.positions
  induction c.slots.rows.map (·.2) with
  | nil => exact .nil
  | cons p ps ih => exact insertBySeg_sorted p ih

/-- What stands at a position that no earlier one can offer stands at the lowest segment that offers it. -/
theorem lowest_of_split {c : Ctx} {ps qs : List Position} {p : Position} (h : c.positions = ps ++ p :: qs) {good : Position → Prop}
    (hearlier : ∀ q ∈ ps, ¬ good q) : ∀ q ∈ c.positions, good q → p.seg ≤ q.seg := by
  intro q hq hgood
  have hsorted := positions_sorted c
  rw [h] at hq hsorted
  rcases List.mem_append.mp hq with hq | hq
  · exact absurd hgood (hearlier q hq)
  · rcases List.mem_cons.mp hq with rfl | hq
    · exact le_rfl
    · exact (List.pairwise_cons.mp (List.pairwise_append.mp hsorted).2.1).1 q hq

/-! ### Rotation -/

/-- How far slot `i` stands behind a pointer, counting upward and wrapping (R142). -/
def turnsFrom (pointer i : Nat) : Nat := (i + 64 - pointer % 64) % 64

theorem rotation_turns (pointer : Nat) {i : Nat} (hi : i < 64) : (pointer + turnsFrom pointer i) % 64 = i := by
  unfold turnsFrom; omega

theorem turnsFrom_rotation (pointer : Nat) {n : Nat} (hn : n < 64) : turnsFrom pointer ((pointer + n) % 64) = n := by
  unfold turnsFrom; omega

theorem find_rotation_some {pointer i : Nat} {good : Nat → Bool} (h : (rotation pointer).find? good = some i) :
    i < 64 ∧ good i = true ∧ ∀ j < 64, good j = true → turnsFrom pointer i ≤ turnsFrom pointer j := by
  rw [rotation, List.find?_map] at h
  obtain ⟨n, hn, rfl⟩ := Option.map_eq_some_iff.mp h
  obtain ⟨hgood, hlt, hfirst⟩ := List.find?_range_eq_some.mp hn
  have hlt' : n < 64 := List.mem_range.mp hlt
  refine ⟨Nat.mod_lt _ (by decide), hgood, fun j hj hgj => ?_⟩
  rw [Config.slotCount, turnsFrom_rotation pointer hlt']
  by_contra hlt
  have hnot := hfirst (turnsFrom pointer j) (by omega)
  simp only [Function.comp, Config.slotCount, rotation_turns pointer hj, hgj] at hnot
  cases hnot

theorem find_rotation_none {pointer : Nat} {good : Nat → Bool} :
    (rotation pointer).find? good = none ↔ ∀ j < 64, good j = false := by
  rw [rotation, List.find?_map, Option.map_eq_none_iff, List.find?_range_eq_none]
  constructor
  · intro h j hj
    have hnot := h (turnsFrom pointer j) (Nat.mod_lt _ (by decide))
    simpa [Config.slotCount, rotation_turns pointer hj] using hnot
  · intro h n hn
    have hlt : (pointer + n) % Config.slotCount < 64 := Nat.mod_lt _ (by decide)
    simp [h _ hlt]

theorem choose_some {s : State} {i : Nat} (h : s.choose = some i) :
    ((rotation s.port.exposedPointer).find? (fun i => s.inExposedClass i && s.candidate i) = some i) ∨
    ((∀ j < 64, s.candidate j = true → s.inExposedClass j = false) ∧
      (rotation s.port.otherPointer).find? (fun i => !s.inExposedClass i && s.candidate i) = some i) := by
  unfold State.choose at h
  split at h
  · next k hk => cases h; exact .inl hk
  · next hnone =>
    refine .inr ⟨fun j hj hcand => ?_, h⟩
    simpa [hcand] using find_rotation_none.mp hnone j hj

theorem choose_none {s : State} : s.choose = none ↔ ∀ j < 64, s.candidate j = false := by
  unfold State.choose
  constructor
  · intro h j hj
    split at h
    · cases h
    · next hexposed =>
      have h1 := find_rotation_none.mp hexposed j hj
      have h2 := find_rotation_none.mp h j hj
      cases hclass : s.inExposedClass j <;> simp_all
  · intro h
    rw [find_rotation_none.mpr (fun j hj => by simp [h j hj]), find_rotation_none.mpr (fun j hj => by simp [h j hj])]

/-! ### The arbiter -/

theorem candidate_iff {s : State} {i : Nat} : s.candidate i = true ↔ ∃ c, s.ctxs.get i = some c ∧ c.state = .running ∧
    (∃ p ∈ c.positions, ∃ f < 24, c.eligible p f = true) ∧ s.port.staging.rows.countP (fun r => r.2.ctx == i) < s.port.readLimit := by
  have hoffers : ∀ c : Ctx, c.offered.isSome = true ↔ ∃ p ∈ c.positions, ∃ f < 24, c.eligible p f = true := by
    intro c
    rw [Option.isSome_iff_ne_none, ne_eq, offered_none_iff]
    simp
  cases hc : s.ctxs.get i with
  | none => simp [State.candidate, hc]
  | some c =>
    simp only [State.candidate, hc, Bool.and_eq_true, beq_iff_eq, decide_eq_true_iff, hoffers, and_assoc, Option.some.injEq,
      exists_eq_left']
    rfl

theorem offered_some {c : Ctx} {seg f e : Nat} (h : c.offered = some (seg, f, e)) : ∃ p ∈ c.positions, c.offerAt p = some (seg, f, e) ∧
    ∀ q ∈ c.positions, ∀ g < 24, c.eligible q g = true → seg ≤ q.seg := by
  obtain ⟨ps, p, qs, hsplit, hp, hearlier⟩ := List.findSome?_eq_some_iff.mp h
  refine ⟨p, by rw [hsplit]; simp, hp, fun q hq g hg helig => ?_⟩
  rw [← (offerAt_some_iff.mp hp).1]
  refine lowest_of_split hsplit (good := fun q => ∃ g < 24, c.eligible q g = true) (fun q hq => ?_) q hq ⟨g, hg, helig⟩
  rintro ⟨g, hg, helig⟩
  rw [offerAt_none_iff.mp (hearlier q hq) g hg] at helig
  cases helig

/-- Settles O43: the first of a rotation is the nearest to its pointer, the first of the positions the lowest segment. -/
theorem arbiterChoice : Obligations.ArbiterChoice := by
  refine ⟨fun c p f => eligible_iff, fun s i => ⟨candidate_iff, fun c hc => by simp [State.inExposedClass, hc]⟩,
    fun s => ⟨fun i h => ?_, choose_none⟩, fun c => ⟨fun seg f e h => ?_, offered_none_iff⟩⟩
  · rcases choose_some h with hfind | ⟨hother, hfind⟩
    · obtain ⟨hlt, hgood, hnear⟩ := find_rotation_some hfind
      obtain ⟨hclass, hcand⟩ := Bool.and_eq_true_iff.mp hgood
      refine ⟨hlt, hcand, fun hnot => absurd hclass (by simp [hnot]), fun j hj hcj hcl => ?_⟩
      rw [hclass] at hcl ⊢
      exact hnear j hj (by simp [hcj, hcl])
    · obtain ⟨hlt, hgood, hnear⟩ := find_rotation_some hfind
      obtain ⟨hclass, hcand⟩ := Bool.and_eq_true_iff.mp hgood
      have hclass' : s.inExposedClass i = false := by simpa using hclass
      refine ⟨hlt, hcand, fun _ => hother, fun j hj hcj hcl => ?_⟩
      rw [hclass'] at hcl ⊢
      exact hnear j hj (by simp [hcj, hcl])
  · obtain ⟨p, hp, hoffer, hlow⟩ := offered_some h
    obtain ⟨hseg, hf, helig, hfirst, en, hen, hfeed⟩ := offerAt_some_iff.mp hoffer
    obtain ⟨hrun, hopen, hrole, en', hen', hlogged⟩ := eligible_iff.mp helig
    obtain rfl : en = en' := Option.some.inj (hen.symm.trans hen')
    exact ⟨p, hp, en, hseg, hopen, hrun, hrole, hf, hen, hlogged, hfeed, hfirst, hlow⟩

end Sys2Proof.Machine
end


section
/-! PROOFS. A slot's data discarded (R57, R140), a failed read (R103), and what an event that hands outcomes alone leaves once its statuses
are placed (R91, R136). -/

namespace Sys2Proof.Machine

/-! ### Outcomes and the contexts -/

/-- The context with another feed list, which is all that handing an outcome changes of it. -/
def Ctx.withFeeds (c : Ctx) (list : List Nat) : Ctx := { c with feedList := list }

@[simp] theorem withFeeds_withFeeds (c : Ctx) (l l' : List Nat) : (c.withFeeds l).withFeeds l' = c.withFeeds l' := rfl
@[simp] theorem withFeeds_feedList (c : Ctx) : c.withFeeds c.feedList = c := rfl
@[simp] theorem withFeeds_bones (c : Ctx) (l : List Nat) : (c.withFeeds l).bones = c.bones := rfl
@[simp] theorem withFeeds_holding (c : Ctx) (l : List Nat) (seg : Nat) : (c.withFeeds l).holding seg = c.holding seg := rfl

/-- Handing an outcome takes at most the entry off a feed list. -/
theorem feedOutcome_ctx {s : State} {i : Nat} {c : Ctx} (hc : s.ctxs.get i = some c) (e : Nat) (o : FeedOutcome) :
    ∃ list, (s.feedOutcome e o).ctxs.get i = some (c.withFeeds list) := by
  cases hf : s.feeds.get e with
  | none => exact ⟨c.feedList, by rw [feedOutcome_none hf, hc, withFeeds_feedList]⟩
  | some g =>
    rw [feedOutcome_some hf]
    split
    · rw [finaliseFeed_ctxs]
      by_cases hi : i = (g.hand o).ctx
      · subst hi
        exact ⟨_, by rw [modCtx_get_same, hc]; rfl⟩
      · exact ⟨c.feedList, by rw [modCtx_get_other s hi, hc, withFeeds_feedList]⟩
    · exact ⟨c.feedList, hc⟩

theorem putEntry_ctx {s : State} {i seg f : Nat} {c : Ctx} {p : Position} (hc : s.ctxs.get i = some c) (hp : c.holding seg = some p)
    (e : Option LogEntry) : (s.putEntry i seg f e).ctxs.get i = some (c.putPosition seg (p.putEntry f e)) := by
  rw [putEntry_ctxs hc hp, Table.get_set_same]

/-! ### A discard -/

/-- The position and the entry on which a discard acts (R57): the one INFLIGHT, in a context that is not DRAINING. -/
def Ctx.inflightAt (c : Ctx) (seg f : Nat) : Option (Position × LogEntry) :=
  (c.holding seg).bind (fun p => (p.row.get f).bind (fun en =>
    if en.state = .inflight ∧ c.state ≠ .draining then some (p, en) else none))

/-- The entry after a discard (R57). -/
def Ctx.discardEntry (c : Ctx) (f : Nat) (en : LogEntry) : Option LogEntry :=
  if c.role f = .failed then none else some { en with state := .logged }

/-- The context after a discard, but for its feed list. -/
def Ctx.discardAt (c : Ctx) (seg f : Nat) : Ctx :=
  match c.inflightAt seg f with
  | none => c
  | some (p, en) => c.putPosition seg (p.putEntry f (c.discardEntry f en))

/-- What a discard hands the Feed entries. -/
def Ctx.discardOutcomes (c : Ctx) (seg f : Nat) : List (Nat × FeedOutcome) :=
  match c.inflightAt seg f with
  | none => []
  | some (_, en) => if c.role f = .failed then [(en.feed, .unused)] else []

theorem inflightAt_some {c : Ctx} {seg f : Nat} {p : Position} {en : LogEntry} : c.inflightAt seg f = some (p, en) ↔
    c.holding seg = some p ∧ p.row.get f = some en ∧ en.state = .inflight ∧ c.state ≠ .draining := by
  simp only [Ctx.inflightAt, Option.bind_eq_some_iff, ite_eq_iff, Option.some.injEq, Prod.mk.injEq, reduceCtorEq, and_false, or_false]
  constructor
  · rintro ⟨q, hq, e, he, ⟨h1, h2⟩, rfl, rfl⟩
    exact ⟨hq, he, h1, h2⟩
  · rintro ⟨hp, he, h1, h2⟩
    exact ⟨p, hp, en, he, ⟨h1, h2⟩, rfl, rfl⟩

theorem inflightAt_none {c : Ctx} {seg f : Nat} : c.inflightAt seg f = none ↔
    (∀ p en, c.holding seg = some p → p.row.get f = some en → en.state ≠ .inflight) ∨ c.state = .draining := by
  constructor
  · intro h
    by_contra hnot
    push Not at hnot
    obtain ⟨⟨p, en, hp, hen, hfly⟩, hlive⟩ := hnot
    rw [inflightAt_some.mpr ⟨hp, hen, hfly, hlive⟩] at h
    cases h
  · intro h
    rw [Option.eq_none_iff_forall_not_mem]
    rintro ⟨p, en⟩ hmem
    obtain ⟨hp, hen, hfly, hlive⟩ := inflightAt_some.mp hmem
    exact h.elim (fun h => h p en hp hen hfly) hlive

section Discard

variable {s : State} {i seg f : Nat} {c : Ctx} (hc : s.ctxs.get i = some c)
include hc

theorem discard_of_none (h : c.inflightAt seg f = none) : s.discard i seg f = s := by
  simp only [State.discard, hc]
  split
  · rfl
  · next p hp =>
    split
    · rfl
    · next en hen =>
      rcases inflightAt_none.mp h with hidle | hdraining
      · rw [if_pos (hidle p en hp hen)]
      · rw [if_pos hdraining, ite_self]

theorem discard_of_some {p : Position} {en : LogEntry} (h : c.inflightAt seg f = some (p, en)) : s.discard i seg f =
    if c.role f = .failed then (s.putEntry i seg f none).feedOutcome en.feed .unused
    else s.putEntry i seg f (some { en with state := .logged }) := by
  obtain ⟨hp, hen, hfly, hlive⟩ := inflightAt_some.mp h
  simp [State.discard, hc, hp, hen, hfly, hlive]

theorem discard_ctx : ∃ list, (s.discard i seg f).ctxs.get i = some ((c.discardAt seg f).withFeeds list) := by
  cases h : c.inflightAt seg f with
  | none => exact ⟨c.feedList, by rw [discard_of_none hc h, hc, Ctx.discardAt, h, withFeeds_feedList]⟩
  | some x =>
    obtain ⟨p, en⟩ := x
    have hp := (inflightAt_some.mp h).1
    rw [discard_of_some hc h]
    simp only [Ctx.discardAt, h, Ctx.discardEntry]
    split
    · exact feedOutcome_ctx (putEntry_ctx hc hp none) _ _
    · exact ⟨c.feedList, putEntry_ctx hc hp _⟩

theorem discard_ledger : (s.discard i seg f).ledger = s.ledger.handAll (c.discardOutcomes seg f) := by
  cases h : c.inflightAt seg f with
  | none => rw [discard_of_none hc h, Ctx.discardOutcomes, h]; rfl
  | some x =>
    obtain ⟨p, en⟩ := x
    rw [discard_of_some hc h]
    simp only [Ctx.discardOutcomes, h]
    split
    · rw [feedOutcome_ledger, putEntry_ledger]; rfl
    · exact putEntry_ledger s i seg f _

end Discard

theorem discard_outcomesOnly (s : State) (i seg f : Nat) : OutcomesOnly s (s.discard i seg f) := by
  cases hc : s.ctxs.get i with
  | none => rw [State.discard, hc]; exact .refl s
  | some c =>
    cases h : c.inflightAt seg f with
    | none => rw [discard_of_none hc h]; exact .refl s
    | some x =>
      rw [discard_of_some hc h]
      split
      · exact (putEntry_outcomesOnly s i seg f none).trans (feedOutcome_outcomesOnly _ _ _)
      · exact putEntry_outcomesOnly s i seg f _

@[simp] theorem discardAt_bones (c : Ctx) (seg f : Nat) : (c.discardAt seg f).bones = c.bones := by
  unfold Ctx.discardAt; split <;> rfl

theorem withFeeds_discardAt (c : Ctx) (l : List Nat) (seg f : Nat) : (c.withFeeds l).discardAt seg f = (c.discardAt seg f).withFeeds l := by
  have hat : (c.withFeeds l).inflightAt seg f = c.inflightAt seg f := rfl
  unfold Ctx.discardAt
  rw [hat]
  cases c.inflightAt seg f <;> rfl

theorem discardAt_holding_same {c : Ctx} {seg f : Nat} {p : Position} {en : LogEntry} (h : c.inflightAt seg f = some (p, en)) :
    (c.discardAt seg f).holding seg = some (p.putEntry f (c.discardEntry f en)) := by
  rw [Ctx.discardAt, h]
  exact holding_putPosition_same c ((putEntry_seg p f _).trans (holding_seg (inflightAt_some.mp h).1))

theorem discardAt_holding_other {c : Ctx} {seg seg' : Nat} (f : Nat) (hne : seg' ≠ seg) :
    (c.discardAt seg f).holding seg' = c.holding seg' := by
  unfold Ctx.discardAt
  cases h : c.inflightAt seg f with
  | none => rfl
  | some x =>
    have hp := (inflightAt_some.mp h).1
    exact holding_putPosition_other hp ((putEntry_seg x.1 f _).trans (holding_seg hp)) hne

/-- A discard at one segment does not show at another. -/
theorem discardAt_inflightAt_other {c : Ctx} {seg seg' : Nat} (f g : Nat) (hne : seg' ≠ seg) :
    (c.discardAt seg f).inflightAt seg' g = c.inflightAt seg' g := by
  have hstate : (c.discardAt seg f).state = c.state := spine_state (bones_spine (discardAt_bones c seg f))
  simp only [Ctx.inflightAt, discardAt_holding_other f hne, hstate]

theorem discardAt_discardEntry (c : Ctx) (seg f g : Nat) (en : LogEntry) : (c.discardAt seg f).discardEntry g en = c.discardEntry g en := by
  simp only [Ctx.discardEntry, spine_role (bones_spine (discardAt_bones c seg f))]

theorem discardAt_discardOutcomes_other {c : Ctx} {seg seg' : Nat} (f g : Nat) (hne : seg' ≠ seg) :
    (c.discardAt seg f).discardOutcomes seg' g = c.discardOutcomes seg' g := by
  simp only [Ctx.discardOutcomes, discardAt_inflightAt_other f g hne, spine_role (bones_spine (discardAt_bones c seg f))]

theorem discardOutcomes_unused {c : Ctx} {seg f : Nat} {x : Nat × FeedOutcome} (h : x ∈ c.discardOutcomes seg f) : x.2 = .unused := by
  unfold Ctx.discardOutcomes at h
  split at h
  · cases h
  · split at h
    · rw [List.mem_singleton.mp h]
    · cases h

theorem discardOutcomes_of_role {c : Ctx} {f : Nat} (h : c.role f ≠ .failed) (seg : Nat) : c.discardOutcomes seg f = [] := by
  unfold Ctx.discardOutcomes
  split
  · rfl
  · rw [if_neg h]

/-- How much a discard hands entry `e`. -/
theorem outcomesOf_discard {c : Ctx} {f : Nat} (hrole : c.role f = .failed) (hlive : c.state ≠ .draining) (seg e : Nat) :
    (outcomesOf e (c.discardOutcomes seg f)).length =
      if (c.holding seg).any (fun p => (p.row.get f).any (fun en => en.state == .inflight && en.feed == e)) then 1 else 0 := by
  unfold Ctx.discardOutcomes Ctx.inflightAt
  cases c.holding seg with
  | none => rfl
  | some p =>
    cases hen : p.row.get f with
    | none => simp [hen, outcomesOf]
    | some en =>
      by_cases hfly : en.state = .inflight <;> by_cases hfeed : en.feed = e <;> simp [hen, hrole, hlive, hfly, hfeed, outcomesOf]

/-! ### What stands once the statuses are placed -/

/-- The Buffer Registry has placed statuses of `s`, as many as there was room for (R91, R136). -/
structure StatusesOut (s t : State) : Prop where
  ctxs : t.ctxs = s.ctxs
  feeds : t.feeds = s.feeds
  store : t.store = s.store
  staging : t.port.staging = s.port.staging
  reissueLine : t.port.reissueLine = s.port.reissueLine
  combineQueue : t.combineQueue = s.combineQueue
  combining : t.combining = s.combining
  writes : ∃ more, t.port.writeQueue = s.port.writeQueue ++ more ∧ ∀ x ∈ s.statusQueue, x ∈ t.statusQueue ∨ x.toWrite ∈ more

theorem settle_statusesOut {s t : State} (hcalm : Calm s) (hready : s.walker.ready = none) (h : OutcomesOnly s t) :
    StatusesOut t t.settle := by
  rw [settle_statuses hcalm hready h]
  have hline : t.port.claimLine = [] := by rw [h.port]; exact hcalm.line
  have hready' : t.walker.ready = none := by rw [h.walkerReady]; exact hready
  have hwrites : ∀ x ∈ t.statusQueue, x ∈ t.statusQueue.drop t.freePlaces ∨
      x.toWrite ∈ (t.statusQueue.take t.freePlaces).map Status.toWrite := by
    intro x hx
    rw [← List.take_append_drop t.freePlaces t.statusQueue] at hx
    exact (List.mem_append.mp hx).elim (fun hx => .inr (List.mem_map_of_mem hx)) .inl
  rw [offer_registry t hline hready']
  split <;> exact ⟨rfl, rfl, rfl, rfl, rfl, rfl, rfl, _, rfl, hwrites⟩

/-- Feed entries handed unused segments alone, their statuses then placed. -/
theorem countedUnused_of_handAll {s t : State} {feeds : Table FeedEntry} {n : Nat → Nat} {xs : List (Nat × FeedOutcome)} {more : List QWrite}
    (hledger : s.ledger = Ledger.handAll { feeds := feeds, statuses := [] } xs) (hfeeds : t.feeds = s.feeds)
    (hout : ∀ x ∈ s.statusQueue, x ∈ t.statusQueue ∨ x.toWrite ∈ more) (hunused : ∀ x ∈ xs, x.2 = .unused)
    (hcount : ∀ e, (outcomesOf e xs).length = n e) : t.countedUnused feeds n more := by
  intro e g hg hpending counts
  have hos : ∀ o ∈ outcomesOf e xs, o = .unused := by
    intro o ho
    obtain ⟨x, hx, rfl⟩ := List.mem_map.mp ho
    exact hunused x (List.mem_of_mem_filter hx)
  have hhanded : g.handed (outcomesOf e xs) = { g with counts := counts, pending := g.pending - n e } := by
    rw [FeedEntry.handed, foldl_add_unused hos, hcount]
  obtain ⟨hrest, hlast⟩ := handAll_get xs { feeds := feeds, statuses := [] } hg hpending
  have hget : t.feeds.get e = (Ledger.handAll { feeds := feeds, statuses := [] } xs).feeds.get e := by rw [hfeeds, ← hledger]; rfl
  have hstatuses : s.statusQueue = (Ledger.handAll { feeds := feeds, statuses := [] } xs).statuses := by rw [← hledger]; rfl
  rw [hcount, hhanded] at hrest hlast
  refine ⟨fun h => hget.trans (hrest h), fun h => ?_⟩
  obtain ⟨hnone, hmem⟩ := hlast h
  rw [← hstatuses] at hmem
  refine ⟨hget.trans hnone, (hout _ hmem).imp id (fun hw => ?_)⟩
  rwa [Status.toWrite_eq _ (feedResult_ne_nil _)] at hw

/-! ### Feed entries beside a freed slot -/

theorem calm_freeStaging {s : State} (h : Calm s) (k : Nat) : Calm (s.freeStaging k) :=
  ⟨h.line, h.statuses, h.ready, h.owed, h.messages, h.units, h.emits, h.solves, h.combines⟩

theorem feedOutcome_feeds_congr {s t : State} (h : t.feeds = s.feeds) (e : Nat) (o : FeedOutcome) :
    (t.feedOutcome e o).feeds = (s.feedOutcome e o).feeds := by
  have hand : ∀ u : State, (u.feedOutcome e o).feeds = (Ledger.hand { feeds := u.feeds, statuses := [] } (e, o)).feeds := by
    intro u
    have hl : (u.feedOutcome e o).feeds = (u.ledger.hand (e, o)).feeds := by rw [← feedOutcome_ledger]; rfl
    rw [hl]
    unfold Ledger.hand State.ledger
    cases u.feeds.get e with
    | none => rfl
    | some g => simp only; split <;> rfl
  rw [hand t, hand s, h]

/-! ### A slot's read has failed -/

/-- The context once a read of fragment `f` at segment `seg` has failed (R103), but for its feed list. -/
def Ctx.readFailedAt (c : Ctx) (seg : Nat) (p : Position) (f : Nat) (en : LogEntry) : Ctx :=
  Ctx.putPosition { c with counters := { c.counters with readFailures := bump16 c.counters.readFailures } } seg
    (p.putEntry f (some { en with state := .readFailed }))

section ReadFailure

variable {s : State} {i seg f : Nat} {c : Ctx} {p : Position} {en : LogEntry} (hc : s.ctxs.get i = some c) (hp : c.holding seg = some p)
  (hen : p.row.get f = some en)
include hc hp hen

theorem readFailure_eq : s.readFailure i seg f =
    State.feedOutcome { s with ctxs := s.ctxs.set i (c.readFailedAt seg p f en) } en.feed .readFailed := by
  have hmod : s.modCtx i (fun c => { c with counters := { c.counters with readFailures := bump16 c.counters.readFailures } }) =
      { s with ctxs := s.ctxs.set i { c with counters := { c.counters with readFailures := bump16 c.counters.readFailures } } } := by
    simp only [State.modCtx, hc]
  simp only [State.readFailure, hc, hp, hen, hmod]
  congr 1
  have hp' : Ctx.holding { c with counters := { c.counters with readFailures := bump16 c.counters.readFailures } } seg = some p := hp
  simp only [State.putEntry, State.modCtx, Table.get_set_same, hp', Table.set_set]
  rfl

theorem readFailure_ctx : ∃ list, (s.readFailure i seg f).ctxs.get i = some ((c.readFailedAt seg p f en).withFeeds list) := by
  rw [readFailure_eq hc hp hen]
  exact feedOutcome_ctx (Table.get_set_same _ _ _) _ _

theorem readFailure_outcomesOnly : OutcomesOnly s (s.readFailure i seg f) := by
  rw [readFailure_eq hc hp hen]
  exact (.of_same rfl rfl : OutcomesOnly s { s with ctxs := s.ctxs.set i (c.readFailedAt seg p f en) }).trans
    (feedOutcome_outcomesOnly _ _ _)

theorem readFailure_feeds : (s.readFailure i seg f).feeds = (s.feedOutcome en.feed .readFailed).feeds := by
  rw [readFailure_eq hc hp hen]
  apply feedOutcome_feeds_congr
  rfl

omit hc hen in
theorem readFailedAt_holding_same : (c.readFailedAt seg p f en).holding seg = some (p.putEntry f (some { en with state := .readFailed })) :=
  holding_putPosition_same _ ((putEntry_seg p f _).trans (holding_seg hp))

omit hc hen in
theorem readFailedAt_holding_other {seg' : Nat} (hne : seg' ≠ seg) : (c.readFailedAt seg p f en).holding seg' = c.holding seg' := by
  have hp' : Ctx.holding { c with counters := { c.counters with readFailures := bump16 c.counters.readFailures } } seg = some p := hp
  exact holding_putPosition_other hp' ((putEntry_seg p f _).trans (holding_seg hp)) hne

end ReadFailure

end Sys2Proof.Machine
end


section
/-! PROOFS. The members of a read, and the discard of a stale one: one slot or a pair (R57, R140, R145). -/

namespace Sys2Proof.Machine

/-! ### The members of a read -/

theorem readDue_of_reading {s : State} {k : Nat} {x : Staging} (hx : s.port.staging.get k = some x) (h : x.phase = .reading) :
    s.readDue k = true := by
  simp [State.readDue, hx, h]

theorem readDue_false {s : State} {k : Nat} (h : ∀ t, s.port.staging.get k = some t → t.phase ≠ .reading) : s.readDue k = false := by
  cases hx : s.port.staging.get k with
  | none => simp [State.readDue, hx]
  | some x => simp [State.readDue, hx, h x hx]

theorem readMembers_single (s : State) (k : Nat) {t : Staging} (h : t.partner = none) : s.readMembers k t = [k] := by
  simp [State.readMembers, h]

/-- Either slot of a pair names both, the lower segment's first. -/
theorem readMembers_pair {s : State} {k a b : Nat} {t u : Staging} (hk : k = a ∨ k = b) (ha : s.port.staging.get a = some t)
    (hb : s.port.staging.get b = some u) (ht : t.partner = some b) (hu : u.partner = some a) (hseg : t.seg < u.seg) :
    ∃ x, (x = t ∨ x = u) ∧ s.port.staging.get k = some x ∧ s.readMembers k x = [a, b] := by
  rcases hk with rfl | rfl
  · exact ⟨t, .inl rfl, ha, by simp [State.readMembers, ht, hb, hseg.not_gt]⟩
  · exact ⟨u, .inr rfl, hb, by simp [State.readMembers, hu, ha, hseg]⟩

theorem readPair_member {s : State} {k a b : Nat} {t u : Staging} (h : s.readPair a b t u) (hk : k = a ∨ k = b) :
    ∃ x, s.port.staging.get k = some x ∧ s.readMembers k x = [a, b] ∧ x.phase = .reading ∧ x.stale = t.stale ∧ x.reissues = t.reissues := by
  obtain ⟨x, hx, hget, hmembers⟩ := readMembers_pair hk h.slots.2.1 h.slots.2.2 h.partners.1 h.partners.2 h.units.1
  rcases hx with rfl | rfl
  · exact ⟨x, hget, hmembers, h.reading.1, rfl, rfl⟩
  · exact ⟨x, hget, hmembers, h.reading.2, h.alike.1.symm, h.alike.2.symm⟩

/-! ### One slot discarded -/

theorem discardStaging_eq {s : State} {k : Nat} {x : Staging} (hx : s.port.staging.get k = some x) :
    s.discardStaging k = (s.freeStaging k).discard x.ctx x.seg x.frag := by
  simp [State.discardStaging, hx]

theorem discard_discarded {s t : State} {u : Staging} {c : Ctx} (hc : s.ctxs.get u.ctx = some c) (hctxs : t.ctxs = s.ctxs)
    (hfeeds : t.feeds = s.feeds) : t.discarded (s.discard u.ctx u.seg u.frag) u c := by
  constructor
  · intro h
    rw [discard_of_none hc (inflightAt_none.mpr h)]
    exact ⟨hctxs.symm, hfeeds.symm⟩
  · intro p en hp hen hfly hlive
    have hat : c.inflightAt u.seg u.frag = some (p, en) := inflightAt_some.mpr ⟨hp, hen, hfly, hlive⟩
    obtain ⟨list, hctx⟩ := discard_ctx hc (seg := u.seg) (f := u.frag)
    refine ⟨_, p.putEntry u.frag (c.discardEntry u.frag en), hctx, discardAt_bones c _ _, discardAt_holding_same hat, rfl,
      fun g hg => by rw [putEntry_row_get, if_neg hg], fun hrole => ⟨?_, ?_⟩, fun hrole => ⟨?_, ?_⟩⟩
    · rw [putEntry_row_get, if_pos rfl, Ctx.discardEntry, if_pos hrole]
    · rw [discard_of_some hc hat, if_pos hrole]
      exact feedOutcome_feeds_congr ((putEntry_feeds s _ _ _ _).trans hfeeds.symm) _ _
    · rw [putEntry_row_get, if_pos rfl, Ctx.discardEntry, if_neg hrole]
    · rw [discard_of_some hc hat, if_neg hrole, putEntry_feeds, hfeeds]

/-- A discard shows in contexts and feeds alone. -/
theorem discarded_congr {s t t' : State} {u : Staging} {c : Ctx} (h : s.discarded t u c) (hctxs : t'.ctxs = t.ctxs)
    (hfeeds : t'.feeds = t.feeds) : s.discarded t' u c := by
  unfold State.discarded at h ⊢
  rw [hctxs, hfeeds]
  exact h

/-- A stale read of one slot ends: the slot is freed and its entry discarded. -/
theorem discardStaging_settled {s : State} {k : Nat} {x : Staging} {c : Ctx} (hcalm : Calm s) (hready : s.walker.ready = none)
    (hx : s.port.staging.get k = some x) (hc : s.ctxs.get x.ctx = some c) :
    let t := (State.discardEach [k] s).settle
    t.port.staging = s.port.staging.erase k ∧ t.port.reissueLine = s.port.reissueLine ∧ t.combineQueue = s.combineQueue ∧
      t.combining = s.combining ∧ t.store = s.store ∧ s.ctxsAlike t ∧ s.discarded t x c := by
  have honly := discard_outcomesOnly (s.freeStaging k) x.ctx x.seg x.frag
  have hdiscarded := discard_discarded (s := s.freeStaging k) (t := s) hc rfl rfl
  rw [State.discardEach, State.discardEach, discardStaging_eq hx]
  have hout := settle_statusesOut (calm_freeStaging hcalm k) hready honly
  refine ⟨by rw [hout.staging, honly.port]; rfl, by rw [hout.reissueLine, honly.port]; rfl, by rw [hout.combineQueue, honly.combineQueue]; rfl,
    by rw [hout.combining, honly.combining]; rfl, by rw [hout.store, honly.store]; rfl, ?_,
    discarded_congr hdiscarded hout.ctxs hout.feeds⟩
  exact (discard_bones (s.freeStaging k) x.ctx x.seg x.frag).trans (.same hout.ctxs)

/-! ### A pair discarded -/

/-- The context after the discards of a pair, but for its feed list. -/
def Ctx.discardPairAt (c : Ctx) (t u : Staging) : Ctx := (c.discardAt t.seg t.frag).discardAt u.seg u.frag

/-- The state after the discards of a pair, before any status is placed. -/
def State.pairFreed (s : State) (a b : Nat) (t u : Staging) : State :=
  (((s.freeStaging a).discard t.ctx t.seg t.frag).freeStaging b).discard u.ctx u.seg u.frag

section Pair

variable {s : State} {a b : Nat} {t u : Staging} {c : Ctx} (h : s.readPair a b t u)
include h

theorem discardEach_pair : State.discardEach [a, b] s = s.pairFreed a b t u := by
  have hb : ((s.freeStaging a).discard t.ctx t.seg t.frag).port.staging.get b = some u := by
    rw [(discard_outcomesOnly (s.freeStaging a) _ _ _).port, freeStaging_port, Table.get_erase_other _ h.slots.1.symm, h.slots.2.2]
  rw [State.discardEach, State.discardEach, State.discardEach, discardStaging_eq h.slots.2.1, discardStaging_eq hb]
  rfl

omit h in
theorem pairFreed_outcomesOnly : OutcomesOnly ((s.freeStaging a).freeStaging b) (s.pairFreed a b t u) := by
  have h1 := discard_outcomesOnly (s.freeStaging a) t.ctx t.seg t.frag
  have h2 : OutcomesOnly ((s.freeStaging a).freeStaging b) (((s.freeStaging a).discard t.ctx t.seg t.frag).freeStaging b) :=
    .of_same (congrArg (fun x : State => x.freeStaging b) h1.same :) h1.store
  exact h2.trans (discard_outcomesOnly _ u.ctx u.seg u.frag)

omit h in
theorem pairFreed_bones : BonesKept s (s.pairFreed a b t u) := by
  have h1 : BonesKept s (((s.freeStaging a).discard t.ctx t.seg t.frag).freeStaging b) := discard_bones (s.freeStaging a) t.ctx t.seg t.frag
  exact h1.trans (discard_bones _ u.ctx u.seg u.frag)

variable (hc : s.ctxs.get t.ctx = some c)
include hc

theorem pairFreed_mid : ∃ list, (((s.freeStaging a).discard t.ctx t.seg t.frag).freeStaging b).ctxs.get u.ctx =
    some ((c.discardAt t.seg t.frag).withFeeds list) := by
  rw [← h.units.2.1]
  exact discard_ctx (s := s.freeStaging a) hc

theorem pairFreed_ctx : ∃ list, (s.pairFreed a b t u).ctxs.get t.ctx = some ((c.discardPairAt t u).withFeeds list) := by
  obtain ⟨list, hmid⟩ := pairFreed_mid (b := b) h hc
  obtain ⟨list', hend⟩ := discard_ctx hmid (seg := u.seg) (f := u.frag)
  exact ⟨list', by rw [h.units.2.1, State.pairFreed, hend, withFeeds_discardAt, withFeeds_withFeeds, Ctx.discardPairAt]⟩

theorem pairFreed_ledger : (s.pairFreed a b t u).ledger =
    s.ledger.handAll (c.discardOutcomes t.seg t.frag ++ c.discardOutcomes u.seg u.frag) := by
  obtain ⟨list, hmid⟩ := pairFreed_mid (b := b) h hc
  have h1 : (((s.freeStaging a).discard t.ctx t.seg t.frag).freeStaging b).ledger = s.ledger.handAll (c.discardOutcomes t.seg t.frag) :=
    discard_ledger (s := s.freeStaging a) hc
  rw [State.pairFreed, discard_ledger hmid, h1, handAll_append]
  exact congrArg _ (discardAt_discardOutcomes_other _ _ h.units.1.ne')

omit hc in
theorem discardPairAt_holding {x : Staging} (hx : x ∈ [t, u]) {p : Position} {en : LogEntry} (hat : c.inflightAt x.seg x.frag = some (p, en)) :
    (c.discardPairAt t u).holding x.seg = some (p.putEntry x.frag (c.discardEntry x.frag en)) := by
  rcases List.mem_pair.mp hx with rfl | rfl
  · rw [Ctx.discardPairAt, discardAt_holding_other _ h.units.1.ne]
    exact discardAt_holding_same hat
  · rw [← discardAt_inflightAt_other t.frag _ h.units.1.ne'] at hat
    rw [Ctx.discardPairAt, discardAt_holding_same hat, discardAt_discardEntry]

theorem pairFreed_idle (hdraining : c.state = .draining) : s.pairFreed a b t u = (s.freeStaging a).freeStaging b := by
  have hnone : ∀ seg f, c.inflightAt seg f = none := fun seg f => inflightAt_none.mpr (.inr hdraining)
  have hc' : ((s.freeStaging a).freeStaging b).ctxs.get u.ctx = some c := by rw [← h.units.2.1]; exact hc
  rw [State.pairFreed, discard_of_none (s := s.freeStaging a) hc (hnone _ _), discard_of_none hc' (hnone _ _)]

/-- A stale pair ends: both slots are freed and both entries discarded. -/
theorem discardEach_pair_settled (hcalm : Calm s) (hready : s.walker.ready = none) :
    ∃ more, (State.discardEach [a, b] s).settle.port.writeQueue = s.port.writeQueue ++ more ∧
      s.pairDiscarded (State.discardEach [a, b] s).settle a b t u c more := by
  have honly := pairFreed_outcomesOnly (s := s) (a := a) (b := b) (t := t) (u := u)
  have hout := settle_statusesOut (calm_freeStaging (calm_freeStaging hcalm a) b) hready honly
  obtain ⟨more, hqueue, hplaced⟩ := hout.writes
  obtain ⟨list, hctx⟩ := pairFreed_ctx h hc
  rw [discardEach_pair h]
  refine ⟨more, by rw [hqueue, honly.port]; rfl, by rw [hout.staging, honly.port]; rfl, by rw [hout.reissueLine, honly.port]; rfl,
    by rw [hout.combineQueue, honly.combineQueue]; rfl, by rw [hout.combining, honly.combining]; rfl, by rw [hout.store, honly.store]; rfl,
    (pairFreed_bones (a := a) (b := b)).trans (.same hout.ctxs), fun hdraining => ?_, fun hlive => ?_⟩
  · rw [hout.ctxs, hout.feeds, pairFreed_idle h hc hdraining]
    exact ⟨rfl, rfl⟩
  · have hledger := pairFreed_ledger (a := a) (b := b) h hc
    refine ⟨_, by rw [hout.ctxs]; exact hctx, ?_, fun hrole => ?_, fun hrole => ?_⟩
    · rintro x hx en ⟨hfly, p, hp, hen⟩
      refine ⟨_, discardPairAt_holding h hx (inflightAt_some.mpr ⟨hp, hen, hfly, hlive⟩), ?_⟩
      rw [putEntry_row_get, if_pos rfl, Ctx.discardEntry]
    · rw [discardOutcomes_of_role hrole, discardOutcomes_of_role (h.units.2.2 ▸ hrole)] at hledger
      rw [hout.feeds]
      exact congrArg Ledger.feeds hledger
    · have hstart : s.ledger = { feeds := s.feeds, statuses := [] } := by rw [State.ledger, hcalm.statuses]
      refine countedUnused_of_handAll (hstart ▸ hledger) hout.feeds hplaced (fun x hx => ?_) (fun e => ?_)
      · exact (List.mem_append.mp hx).elim discardOutcomes_unused discardOutcomes_unused
      · have happend : (outcomesOf e (c.discardOutcomes t.seg t.frag ++ c.discardOutcomes u.seg u.frag)).length =
            (outcomesOf e (c.discardOutcomes t.seg t.frag)).length + (outcomesOf e (c.discardOutcomes u.seg u.frag)).length := by
          simp only [outcomesOf, List.filter_append, List.map_append, List.length_append]
        rw [happend, outcomesOf_discard hrole hlive, outcomesOf_discard (h.units.2.2 ▸ hrole) hlive]
        simp only [List.countP_cons, List.countP_nil, Nat.zero_add]
        exact Nat.add_comm _ _

end Pair

end Sys2Proof.Machine
end


section
/-! PROOFS. A source read that ends: its bytes staged, its reissue awaited, or its entries READ_FAILED (R57, R103, R147 to R149, R151). -/

namespace Sys2Proof.Machine

/-! ### Two entries of one table -/

theorem putRow_comm_of_lt {α : Type} {a b : Nat} (h : a < b) (x y : α) (rows : List (Nat × α)) :
    putRow a x (putRow b y rows) = putRow b y (putRow a x rows) := by
  have hne : ¬ a = b := h.ne
  have hba : ¬ b < a := h.not_gt
  induction rows with
  | nil => simp [putRow, h, hba, hne]
  | cons r rows ih =>
    obtain ⟨j, v⟩ := r
    rcases Nat.lt_trichotomy a j with haj | rfl | hja
    · by_cases hbj : b < j
      · simp [putRow, h, hba, hne, haj, hbj]
      · by_cases hj : j = b
        · subst hj; simp [putRow, h, hba, hne]
        · simp [putRow, hba, hne, haj, hbj, hj]
    · simp [putRow, hba, hne]
    · simp [putRow, hja.not_gt, hja.ne, (hja.trans h).not_gt, (hja.trans h).ne, ih]

theorem Table.set_comm {α : Type} (t : Table α) {a b : Nat} (h : a ≠ b) (x y : α) : (t.set a x).set b y = (t.set b y).set a x := by
  unfold Table.set
  rcases Nat.lt_or_gt_of_ne h with h | h
  · exact congrArg Table.mk (putRow_comm_of_lt h x y t.rows).symm
  · exact congrArg Table.mk (putRow_comm_of_lt h y x t.rows)

/-! ### Bytes staged -/

/-- The staging table replaced, and slots added at the tail of the combine queue. -/
def State.staged (s : State) (staging : Table Staging) (ks : List Nat) : State :=
  { s with combineQueue := s.combineQueue ++ ks, port := { s.port with staging := staging } }

/-- A slot whose bytes have arrived, in the phase `phase`. -/
def Staging.filled (t : Staging) (phase : SlotPhase) (data : List Byte) : Staging :=
  { t with phase := phase, data := exactBytes t.length data }

theorem modStaging_eq {s : State} {k : Nat} {t : Staging} (h : s.port.staging.get k = some t) (f : Staging → Staging) :
    s.modStaging k f = { s with port := { s.port with staging := s.port.staging.set k (f t) } } := by
  simp [State.modStaging, h]

theorem stageEach_cons {s : State} {k : Nat} {t : Staging} (h : s.port.staging.get k = some t) (rest : List Nat) (data : List Byte) :
    State.stageEach (k :: rest) data s =
      State.stageEach rest (data.drop t.length) (s.staged (s.port.staging.set k (t.filled .staged data)) [k]) := by
  simp only [State.stageEach, h, modStaging_eq h]
  rfl

theorem stageEach_single {s : State} {k : Nat} {t : Staging} (h : s.port.staging.get k = some t) (data : List Byte) :
    State.stageEach [k] data s = s.staged (s.port.staging.set k (t.filled .staged data)) [k] := by
  rw [stageEach_cons h, State.stageEach]

theorem stageEach_pair {s : State} {a b : Nat} {t u : Staging} (hne : a ≠ b) (ha : s.port.staging.get a = some t)
    (hb : s.port.staging.get b = some u) (data : List Byte) : State.stageEach [a, b] data s =
      s.staged ((s.port.staging.set a (t.filled .staged data)).set b (u.filled .staged (data.drop t.length))) [a, b] := by
  have hb' : (s.staged (s.port.staging.set a (t.filled .staged data)) [a]).port.staging.get b = some u :=
    (Table.get_set_other _ hne.symm _).trans hb
  rw [stageEach_cons ha, stageEach_single hb']
  simp only [State.staged, List.append_assoc, List.cons_append, List.nil_append]

/-- The Combine Unit holds slot `k`, taken while it was not stale, with `rest` behind it. -/
def State.combines (s : State) (staging : Table Staging) (k : Nat) (rest : List Nat) : State :=
  { s with combineQueue := rest, combining := some { slot := k, judged := true }, port := { s.port with staging := staging } }

theorem takeCombine_staged {s : State} (hw : s.combining = none) (hqueue : s.combineQueue = []) {staging : Table Staging} {k : Nat}
    {t : Staging} (rest : List Nat) (hk : staging.get k = some t) (hstale : t.stale = false) :
    (s.staged staging (k :: rest)).takeCombine = s.combines (staging.set k { t with phase := .combining }) k rest := by
  simp [State.takeCombine, State.staged, State.combines, hw, hqueue, hk, hstale]

/-- Staged bytes end the event: an idle Combine Unit takes the first slot, a busy one leaves them queued. -/
theorem settle_staged {s : State} (hcalm : Calm s) (hready : s.walker.ready = none) {staging : Table Staging} {k : Nat} {t : Staging}
    (rest : List Nat) (hk : staging.get k = some t) (hstale : t.stale = false) :
    (s.staged staging (k :: rest)).settle =
      if s.combining = none then s.combines (staging.set k { t with phase := .combining }) k rest
      else s.staged staging (k :: rest) := by
  by_cases hw : s.combining = none
  · have hstart : (s.staged staging (k :: rest)).startSolve = s.staged staging (k :: rest) := startSolve_idle hcalm.solves
    have hemit : ∀ x, (s.combines x k rest).takeEmit = s.combines x k rest := fun x => takeEmit_idle hcalm.emits
    rw [State.settle, hstart, takeCombine_staged hw (hcalm.combines hw) rest hk hstale, hemit, if_pos hw]
    exact offerReady_calm _ ⟨hcalm.line, hcalm.statuses, hcalm.ready, hcalm.owed, hcalm.messages, hcalm.units, hcalm.emits, hcalm.solves,
      fun h => nomatch h⟩ hready
  · rw [if_neg hw]
    exact settle_calm _ ⟨hcalm.line, hcalm.statuses, hcalm.ready, hcalm.owed, hcalm.messages, hcalm.units, hcalm.emits, hcalm.solves,
      fun h => absurd h hw⟩ hready

section Arrived

variable {s : State} {k : Fin 32} {x : Staging} {members : List Nat} (hx : s.port.staging.get k = some x) (hphase : x.phase = .reading)
  (hmembers : s.readMembers k x = members) (data : List Byte)
include hx hphase hmembers

theorem exec_sourceReadComplete_fresh (h : x.stale = false) :
    exec (.sourceReadComplete k data) s = .next (State.stageEach members data s).settle := by
  simp [exec, execSourceReadComplete, readDue_of_reading hx hphase, State.readArrived, hx, h, hmembers]

theorem exec_sourceReadComplete_stale (h : x.stale = true) :
    exec (.sourceReadComplete k data) s = .next (State.discardEach members s).settle := by
  simp [exec, execSourceReadComplete, readDue_of_reading hx hphase, State.readArrived, hx, h, hmembers]

end Arrived

/-- Settles O46: what each member of the read brings, then the Combine Unit's take. -/
theorem sourceReadComplete : Obligations.SourceReadComplete := by
  intro s k data hrest
  obtain ⟨hcalm, hready, -⟩ := (s.atRest_iff 0).mp hrest
  refine ⟨fun t ht hphase hstale hpartner => ?_, fun a b t u hne hk ha hb ht hu hseg hpt hpu hst hsu => ?_,
    fun t c ht hphase hstale hpartner hc => ?_, fun a b t u c hk hpair hstale hc => ?_, fun hnot => ?_⟩
  · rw [exec_sourceReadComplete_fresh ht hphase (readMembers_single s k hpartner) data hstale, stageEach_single ht,
      settle_staged hcalm hready (t := t.filled .staged data) [] (Table.get_set_same _ _ _) hstale]
    split
    · next hw => rw [Table.set_set, ← hcalm.combines hw]; rfl
    · rfl
  · intro lower upper
    obtain ⟨x, hx, hget, hmembers⟩ := readMembers_pair hk ha hb ht hu hseg
    have hphase : x.phase = .reading := by rcases hx with rfl | rfl <;> assumption
    have hstale : x.stale = false := by rcases hx with rfl | rfl <;> assumption
    have hfirst : ((s.port.staging.set a (t.filled .staged data)).set b (u.filled .staged (data.drop t.length))).get a =
        some (t.filled .staged data) := by
      rw [Table.get_set_other _ hne, Table.get_set_same]
    rw [exec_sourceReadComplete_fresh hget hphase hmembers data hstale, stageEach_pair hne ha hb,
      settle_staged hcalm hready (t := t.filled .staged data) [b] hfirst hst]
    split
    · next hw =>
      rw [Table.set_comm _ hne.symm, Table.set_set]
      simp [lower, upper, hw, Staging.filled, State.combines]
    · next hw => simp [lower, upper, hw, Staging.filled, State.staged]
  · obtain ⟨hstaging, -, hqueue, hcombining, hstore, hbones, hdiscarded⟩ := discardStaging_settled hcalm hready ht hc
    rw [exec_sourceReadComplete_stale ht hphase (readMembers_single s k hpartner) data hstale]
    exact ⟨_, rfl, hstaging, hqueue, hcombining, hstore, hbones, hdiscarded⟩
  · obtain ⟨x, hget, hmembers, hphase, hxs, -⟩ := readPair_member hpair hk
    obtain ⟨more, hqueue, hdiscarded⟩ := discardEach_pair_settled hpair hc hcalm hready
    rw [exec_sourceReadComplete_stale hget hphase hmembers data (hxs.trans hstale)]
    exact ⟨_, more, rfl, hqueue, hdiscarded⟩
  · simp [exec, execSourceReadComplete, readDue_false hnot]

/-! ### A read that completes with error -/

/-- A slot that waits for its reissue. -/
def Staging.retried (t : Staging) : Staging := { t with phase := .retrying, reissues := t.reissues - 1 }

theorem retryEach_single {s : State} {k : Nat} {t : Staging} (h : s.port.staging.get k = some t) :
    State.retryEach [k] s = { s with port := { s.port with staging := s.port.staging.set k t.retried } } := by
  rw [State.retryEach, State.retryEach, modStaging_eq h]; rfl

theorem retryEach_pair {s : State} {a b : Nat} {t u : Staging} (hne : a ≠ b) (ha : s.port.staging.get a = some t)
    (hb : s.port.staging.get b = some u) : State.retryEach [a, b] s =
      { s with port := { s.port with staging := (s.port.staging.set a t.retried).set b u.retried } } := by
  have hb' : (s.port.staging.set a t.retried).get b = some u := (Table.get_set_other _ hne.symm _).trans hb
  rw [State.retryEach, modStaging_eq ha, retryEach_single (t := u) hb']
  rfl

/-- The state in which the slots of one read wait for its reissue, `k` standing for them in the line. -/
def State.retrying (s : State) (staging : Table Staging) (k : Nat) : State :=
  { s with port := { s.port with staging := staging, reissueLine := s.port.reissueLine ++ [k] } }

theorem settle_retrying {s : State} (hcalm : Calm s) (hready : s.walker.ready = none) (staging : Table Staging) (k : Nat) :
    (s.retrying staging k).settle = s.retrying staging k :=
  settle_calm _ ⟨hcalm.line, hcalm.statuses, hcalm.ready, hcalm.owed, hcalm.messages, hcalm.units, hcalm.emits, hcalm.solves,
    hcalm.combines⟩ hready

theorem exec_sourceReadError_due {s : State} {k : Fin 32} {x : Staging} (hx : s.port.staging.get k = some x) (h : x.phase = .reading) :
    exec (.sourceReadError k) s = .next (s.readErred k).settle := by
  simp only [exec, execSourceReadError, readDue_of_reading hx h, if_true]

section Erred

variable {s : State} {k : Nat} {x : Staging} {members : List Nat} (hx : s.port.staging.get k = some x)
  (hmembers : s.readMembers k x = members)
include hx hmembers

theorem readErred_stale (h : x.stale = true) : s.readErred k = State.discardEach members s := by
  simp [State.readErred, hx, h, hmembers]

theorem readErred_retry (h : x.stale = false) (hr : 0 < x.reissues) : s.readErred k =
    { State.retryEach members s with
      port := { (State.retryEach members s).port with
        reissueLine := (State.retryEach members s).port.reissueLine ++ members.take 1 } } := by
  simp [State.readErred, hx, h, hr, hmembers]

theorem readErred_fail (h : x.stale = false) (hr : x.reissues = 0) : s.readErred k = State.failEach members s := by
  simp [State.readErred, hx, h, hr, hmembers]

end Erred

theorem failEach_cons {s : State} {k : Nat} {x : Staging} (hx : s.port.staging.get k = some x) (rest : List Nat) :
    State.failEach (k :: rest) s = State.failEach rest ((s.freeStaging k).readFailure x.ctx x.seg x.frag) := by
  simp [State.failEach, hx]

/-- A slot fails: it is freed, its entry READ_FAILED. -/
theorem failEach_single_settled {s : State} {k : Nat} {t : Staging} {c : Ctx} {p : Position} {en : LogEntry} (hcalm : Calm s)
    (hready : s.walker.ready = none) (ht : s.port.staging.get k = some t) (hc : s.ctxs.get t.ctx = some c)
    (hp : c.holding t.seg = some p) (hen : p.row.get t.frag = some en) :
    let t' := (State.failEach [k] s).settle
    t'.port.staging = s.port.staging.erase k ∧ t'.feeds = (s.feedOutcome en.feed .readFailed).feeds ∧ t'.store = s.store ∧
      ∃ list, t'.ctxs.get t.ctx = some ((c.readFailedAt t.seg p t.frag en).withFeeds list) := by
  have hc' : (s.freeStaging k).ctxs.get t.ctx = some c := hc
  have honly := readFailure_outcomesOnly hc' hp hen
  have hout := settle_statusesOut (calm_freeStaging hcalm k) hready honly
  rw [failEach_cons ht, State.failEach]
  refine ⟨by rw [hout.staging, honly.port]; rfl, ?_, by rw [hout.store, honly.store]; rfl, by rw [hout.ctxs]; exact readFailure_ctx hc' hp hen⟩
  rw [hout.feeds, readFailure_feeds hc' hp hen]
  exact feedOutcome_feeds_congr (freeStaging_feeds s k) _ _

/-- The context once the reads of a pair have failed, but for its feed list. -/
def Ctx.pairFailedAt (c : Ctx) (t u : Staging) (p q : Position) (en fn : LogEntry) : Ctx :=
  (c.readFailedAt t.seg p t.frag en).readFailedAt u.seg q u.frag fn

/-- Both slots of a pair fail, one after the other. -/
theorem failEach_pair_settled {s : State} {a b : Nat} {t u : Staging} {c : Ctx} {p q : Position} {en fn : LogEntry} (hcalm : Calm s)
    (hready : s.walker.ready = none) (h : s.readPair a b t u) (hc : s.ctxs.get t.ctx = some c) (hp : c.holding t.seg = some p)
    (hen : p.row.get t.frag = some en) (hq : c.holding u.seg = some q) (hfn : q.row.get u.frag = some fn) :
    let t' := (State.failEach [a, b] s).settle
    t'.port.staging = (s.port.staging.erase a).erase b ∧
      t'.feeds = ((s.feedOutcome en.feed .readFailed).feedOutcome fn.feed .readFailed).feeds ∧ t'.store = s.store ∧
      ∃ list, t'.ctxs.get t.ctx = some ((c.pairFailedAt t u p q en fn).withFeeds list) := by
  have hc' : (s.freeStaging a).ctxs.get t.ctx = some c := hc
  have honly := readFailure_outcomesOnly hc' hp hen
  obtain ⟨list, hmid⟩ := readFailure_ctx hc' hp hen
  have hb : ((s.freeStaging a).readFailure t.ctx t.seg t.frag).port.staging.get b = some u := by
    rw [honly.port, freeStaging_port, Table.get_erase_other _ h.slots.1.symm, h.slots.2.2]
  have hcu : (((s.freeStaging a).readFailure t.ctx t.seg t.frag).freeStaging b).ctxs.get u.ctx =
      some ((c.readFailedAt t.seg p t.frag en).withFeeds list) := by rw [← h.units.2.1]; exact hmid
  have hqu : ((c.readFailedAt t.seg p t.frag en).withFeeds list).holding u.seg = some q :=
    (readFailedAt_holding_other hp h.units.1.ne').trans hq
  have honly' := readFailure_outcomesOnly hcu hqu hfn
  have hmidOnly : OutcomesOnly ((s.freeStaging a).freeStaging b) (((s.freeStaging a).readFailure t.ctx t.seg t.frag).freeStaging b) :=
    .of_same (congrArg (fun x : State => x.freeStaging b) honly.same :) honly.store
  have hall := hmidOnly.trans honly'
  have hout := settle_statusesOut (calm_freeStaging (calm_freeStaging hcalm a) b) hready hall
  rw [failEach_cons h.slots.2.1, failEach_cons hb, State.failEach]
  refine ⟨by rw [hout.staging, hall.port]; rfl, ?_, by rw [hout.store, hall.store]; rfl, ?_⟩
  · rw [hout.feeds, readFailure_feeds hcu hqu hfn]
    refine feedOutcome_feeds_congr (((freeStaging_feeds _ b).trans (readFailure_feeds hc' hp hen)).trans ?_) _ _
    exact feedOutcome_feeds_congr (freeStaging_feeds s a) _ _
  · obtain ⟨list', hend⟩ := readFailure_ctx hcu hqu hfn
    rw [hout.ctxs]
    exact ⟨list', (congrArg _ h.units.2.1).trans hend⟩

theorem bump16_twice (n : Nat) : bump16 (bump16 n) = min 65535 (n + 2) := by
  unfold bump16; omega

/-- Settles O47: what each member of the read brings, by its stale mark and its reissues. -/
theorem sourceReadError : Obligations.SourceReadError := by
  intro s k hrest
  obtain ⟨hcalm, hready, -⟩ := (s.atRest_iff 0).mp hrest
  refine ⟨fun t ht hphase hpartner hstale hleft => ?_, fun t c p en ht hphase hpartner hstale hnone hc hp hen => ?_,
    fun t c ht hphase hpartner hstale hc => ?_, fun a b t u hk hpair => ?_, fun hnot => ?_⟩
  · rw [exec_sourceReadError_due ht hphase, readErred_retry ht (readMembers_single s k hpartner) hstale hleft, retryEach_single ht]
    exact congrArg _ (settle_retrying hcalm hready _ _)
  · obtain ⟨hstaging, hfeeds, hstore, list, hctx⟩ := failEach_single_settled hcalm hready ht hc hp hen
    rw [exec_sourceReadError_due ht hphase, readErred_fail ht (readMembers_single s k hpartner) hstale hnone]
    refine ⟨_, _, _, rfl, hstaging, hctx, rfl, readFailedAt_holding_same hp, ?_, hfeeds, hstore⟩
    rw [putEntry_row_get, if_pos rfl]
  · obtain ⟨hstaging, hline, -, -, -, hbones, hdiscarded⟩ := discardStaging_settled hcalm hready ht hc
    rw [exec_sourceReadError_due ht hphase, readErred_stale ht (readMembers_single s k hpartner) hstale]
    exact ⟨_, rfl, hstaging, hline, hbones, hdiscarded⟩
  · obtain ⟨x, hget, hmembers, hphase, hxs, hxr⟩ := readPair_member hpair hk
    rw [exec_sourceReadError_due hget hphase]
    refine ⟨fun hstale hleft => ?_, fun c p q en fn hstale hnone hc hp hen hq hfn => ?_, fun c hstale hc => ?_⟩
    · rw [readErred_retry hget hmembers (hxs.trans hstale) (hxr ▸ hleft), retryEach_pair hpair.slots.1 hpair.slots.2.1 hpair.slots.2.2]
      exact congrArg _ (settle_retrying hcalm hready _ _)
    · obtain ⟨hstaging, hfeeds, hstore, list, hctx⟩ := failEach_pair_settled hcalm hready hpair hc hp hen hq hfn
      have hq' : (c.readFailedAt t.seg p t.frag en).holding u.seg = some q := (readFailedAt_holding_other hp hpair.units.1.ne').trans hq
      have hp' : (c.pairFailedAt t u p q en fn).holding t.seg = some (p.putEntry t.frag (some { en with state := .readFailed })) :=
        (readFailedAt_holding_other hq' hpair.units.1.ne).trans (readFailedAt_holding_same hp)
      rw [readErred_fail hget hmembers (hxs.trans hstale) (hxr.trans hnone)]
      refine ⟨_, _, _, _, rfl, hstaging, hctx, ?_, hp', ?_, readFailedAt_holding_same hq', ?_, hfeeds, hstore⟩
      · rw [← bump16_twice]; rfl
      · rw [putEntry_row_get, if_pos rfl]
      · rw [putEntry_row_get, if_pos rfl]
    · obtain ⟨more, hqueue, hdiscarded⟩ := discardEach_pair_settled hpair hc hcalm hready
      rw [readErred_stale hget hmembers (hxs.trans hstale)]
      exact ⟨_, more, rfl, hqueue, hdiscarded⟩
  · simp [exec, execSourceReadError, readDue_false hnot]

end Sys2Proof.Machine
end


section
/-! PROOFS. What placing writes does to statuses, to the emit in progress and to a Control Interface with nothing to tell (R91, R135, R136). -/

namespace Sys2Proof.Machine

/-! ### One write placed -/

theorem slotPlaced_ctl (s : State) (i : Nat) : (s.slotPlaced i).ctl = s.ctl := by
  unfold State.slotPlaced State.freeContext
  split
  · rfl
  · exact modCtx_ctl _ i _
  · split <;> rfl
  · rfl

theorem slotPlaced_statusQueue (s : State) (i : Nat) : (s.slotPlaced i).statusQueue = s.statusQueue := by
  unfold State.slotPlaced State.freeContext
  split
  · rfl
  · exact modCtx_statusQueue _ i _
  · split <;> rfl
  · rfl

/-- The context and segment of the emit in progress. -/
def State.emitOf (s : State) : Option (Nat × Nat) := s.emit.map (fun e => (e.ctx, e.seg))

theorem placed_emitOf (s : State) (w : Writer) : (s.placed w).emitOf = s.emitOf := by
  cases w with
  | emit => cases he : s.emit <;> simp [State.placed, State.emitOf, he]
  | slot i => rw [State.emitOf, State.placed, slotPlaced_emit]; rfl
  | control => rw [State.placed]; split <;> rfl
  | walker => rfl
  | registry => rfl

theorem placed_statusQueue (s : State) {w : Writer} (h : w ≠ .registry) : (s.placed w).statusQueue = s.statusQueue := by
  cases w with
  | emit => rw [State.placed]; split <;> rfl
  | slot i => exact slotPlaced_statusQueue s i
  | control => rw [State.placed]; split <;> rfl
  | walker => rfl
  | registry => exact absurd rfl h

theorem placed_ctl (s : State) {w : Writer} (h : w ≠ .control) : (s.placed w).ctl = s.ctl := by
  cases w with
  | emit => rw [State.placed]; split <;> rfl
  | slot i => exact slotPlaced_ctl s i
  | control => exact absurd rfl h
  | walker => rfl
  | registry => rfl

theorem nextWrite_of_placeable {s : State} {w : Writer} {q : QWrite} (h : s.placeable w = some q) : s.nextWrite w = some q := by
  unfold State.placeable at h
  split at h
  · cases h
  · exact h

/-! ### All that an event places -/

theorem offerReady_emitOf (s : State) : s.offerReady.emitOf = s.emitOf :=
  offerReady_induct (P := fun t => t.emitOf = s.emitOf) (fun t w _ _ ht => (placed_emitOf t w).trans ht) (fun _ _ ht => ht)
    (fun _ _ ht => ht) s rfl

/-- A Control Interface that owes nothing places nothing. -/
theorem offerReady_ctl {s : State} (howed : s.ctl.reportOwed = false) (hmessages : s.ctl.messages = 0) : s.offerReady.ctl = s.ctl := by
  refine offerReady_induct (P := fun t => t.ctl = s.ctl) (fun t w q hq ht => ?_) (fun _ _ ht => ht) (fun _ _ ht => ht) s rfl
  by_cases hw : w = .control
  · have hnone : t.nextWrite .control = none := nextWrite_control_none t (by rw [ht, howed]) (by rw [ht, hmessages])
    rw [hw] at hq
    rw [nextWrite_of_placeable hq] at hnone
    cases hnone
  · exact (placed_ctl t hw).trans ht

/-- Each status that waited waits still, those before it out first, or stands among the writes placed. -/
structure StatusesSent (s t : State) : Prop where
  left : t.statusQueue <:+ s.statusQueue
  sent : ∃ more, t.port.writeQueue = s.port.writeQueue ++ more ∧ ∀ x ∈ s.statusQueue, x ∈ t.statusQueue ∨ x.toWrite ∈ more

theorem StatusesSent.refl (s : State) : StatusesSent s s := ⟨List.suffix_refl _, [], (List.append_nil _).symm, fun _ hx => .inl hx⟩

theorem StatusesSent.entered {s t : State} {w : Writer} {q : QWrite} (h : StatusesSent s t) (hq : t.placeable w = some q) :
    StatusesSent s (t.entered w q) := by
  obtain ⟨more, hqueue, hout⟩ := h.sent
  have hqueue' : (t.entered w q).port.writeQueue = s.port.writeQueue ++ (more ++ [q]) := by
    rw [State.entered, enqueue_writeQueue, placed_port, hqueue, List.append_assoc]
  by_cases hw : w = .registry
  · subst hw
    have hnext := nextWrite_of_placeable hq
    obtain ⟨y, hy, rfl⟩ := Option.map_eq_some_iff.mp hnext
    obtain ⟨rest, hrest⟩ := List.head?_eq_some_iff.mp hy
    have htail : (t.entered .registry y.toWrite).statusQueue = rest := by
      rw [State.entered, enqueue_statusQueue, State.placed]
      simp only [hrest, List.tail_cons]
    refine ⟨?_, more ++ [y.toWrite], hqueue', fun x hx => ?_⟩
    · rw [htail]
      exact (List.suffix_cons y rest).trans (hrest ▸ h.left)
    · rw [htail]
      rcases hout x hx with hwaits | hsent
      · rw [hrest] at hwaits
        rcases List.mem_cons.mp hwaits with rfl | hwaits
        · exact .inr (by simp)
        · exact .inl hwaits
      · exact .inr (List.mem_append_left _ hsent)
  · have hsame : (t.entered w q).statusQueue = t.statusQueue := by
      rw [State.entered, enqueue_statusQueue, placed_statusQueue t hw]
    refine ⟨hsame ▸ h.left, more ++ [q], hqueue', fun x hx => ?_⟩
    rw [hsame]
    exact (hout x hx).imp id (List.mem_append_left _)

theorem offerReady_statusesSent (s : State) : StatusesSent s s.offerReady :=
  offerReady_induct (P := StatusesSent s) (fun _ _ _ hq ht => ht.entered hq) (fun _ _ ht => ⟨ht.left, ht.sent⟩)
    (fun _ _ ht => ⟨ht.left, ht.sent⟩) s (.refl s)

/-- A status that waited alone waits alone or has been placed. -/
theorem offerReady_status (s : State) : ∃ more, s.offerReady.port.writeQueue = s.port.writeQueue ++ more ∧
    ∀ x, s.statusQueue = [x] → s.offerReady.statusQueue = [x] ∨ x.toWrite ∈ more := by
  obtain ⟨hleft, more, hqueue, hout⟩ := offerReady_statusesSent s
  refine ⟨more, hqueue, fun x h => (hout x (by simp [h])).imp (fun hx => ?_) id⟩
  rw [h] at hleft
  rcases List.suffix_cons_iff.mp hleft with heq | hnil
  · exact heq
  · rw [List.suffix_nil.mp hnil] at hx
    cases hx

/-- Placing, as it shows in a context that holds its slot: its bones, its positions and its lists stand. -/
theorem Placing.ctx_bones {s t : State} (h : Placing s t) {i : Nat} {c : Ctx} (hc : s.ctxs.get i = some c) (hh : s.holds i) :
    ∃ c', t.ctxs.get i = some c' ∧ c'.bones = c.bones ∧ c'.slots = c.slots ∧ c'.feedList = c.feedList ∧ c'.sinkList = c.sinkList := by
  obtain ⟨c', hc', hsteady⟩ := h.ctx hc hh
  have hslots : c'.slots = c.slots := (congrArg Ctx.slots hsteady :)
  have hfeeds : c'.feedList = c.feedList := (congrArg Ctx.feedList hsteady :)
  have hsinks : c'.sinkList = c.sinkList := (congrArg Ctx.sinkList hsteady :)
  have hbones : c'.bones = c.bones := (congrArg Ctx.bones hsteady :)
  exact ⟨c', hc', hbones, hslots, hfeeds, hsinks⟩

theorem holding_of_slots {c c' : Ctx} (hslots : c'.slots = c.slots) (hgeo : c'.geo = c.geo) (seg : Nat) : c'.holding seg = c.holding seg := by
  unfold Ctx.holding
  rw [hslots, hgeo]

end Sys2Proof.Machine
end


section
/-! PROOFS. A Sink entry bound at FULL positions (R63, R65), and a SINK accepted or blocked (R64, R82, R83, R85). -/

namespace Sys2Proof.Machine

/-! ### One entry bound at one position -/

/-- The position with Sink entry `e` bound for target `t`. -/
def Position.bound (p : Position) (t e : Nat) : Position := { p with binds := p.binds.set t e }

@[simp] theorem bound_seg (p : Position) (t e : Nat) : (p.bound t e).seg = p.seg := rfl

@[simp] theorem bound_bound (p : Position) (t e : Nat) : (p.bound t e).bound t e = p.bound t e := by
  simp [Position.bound, Table.set_set]

/-- The context with Sink entry `e` bound for target `t` at the position that holds `seg`, if there is one. -/
def Ctx.bindOne (c : Ctx) (t e seg : Nat) : Ctx :=
  match c.holding seg with
  | some p => c.putPosition seg (p.bound t e)
  | none => c

theorem bindOne_holding (c : Ctx) (t e seg seg' : Nat) :
    (c.bindOne t e seg).holding seg' = (c.holding seg').map (fun p => if seg' = seg then p.bound t e else p) := by
  unfold Ctx.bindOne
  by_cases hseg : seg' = seg
  · subst hseg
    cases hp : c.holding seg' with
    | none => simp [hp]
    | some p => simp [holding_putPosition_same c ((bound_seg p t e).trans (holding_seg hp))]
  · cases hp : c.holding seg with
    | none => simp [hseg]
    | some p => simp [hseg, holding_putPosition_other hp ((bound_seg p t e).trans (holding_seg hp)) hseg]

/-- Bones and lists are the same. -/
structure Ctx.sameBut (c c' : Ctx) : Prop where
  bones : c'.bones = c.bones
  feedList : c'.feedList = c.feedList
  sinkList : c'.sinkList = c.sinkList

theorem Ctx.sameBut.refl (c : Ctx) : c.sameBut c := ⟨rfl, rfl, rfl⟩

theorem Ctx.sameBut.trans {a b c : Ctx} (h1 : a.sameBut b) (h2 : b.sameBut c) : a.sameBut c :=
  ⟨h2.bones.trans h1.bones, h2.feedList.trans h1.feedList, h2.sinkList.trans h1.sinkList⟩

theorem bindOne_sameBut (c : Ctx) (t e seg : Nat) : c.sameBut (c.bindOne t e seg) := by
  unfold Ctx.bindOne
  split <;> exact ⟨rfl, rfl, rfl⟩

theorem allBound_iff {c : Ctx} {p : Position} : c.allBound p = true ↔ ∀ g ∈ c.targets, (p.binds.get g).isSome = true := by
  simp [Ctx.allBound]

theorem allBound_of_bones {c c' : Ctx} (h : c'.bones = c.bones) (p : Position) : c'.allBound p = c.allBound p := by
  unfold Ctx.allBound Ctx.targets
  rw [spine_fragmentsIn (bones_spine h)]

/-! ### The emit queue -/

theorem joinEmit_apart (s : State) (i seg : Nat) : ∃ q, s.joinEmit i seg = { s with emitQueue := q } := by
  unfold State.joinEmit
  split
  · exact ⟨_, rfl⟩
  · split
    · exact ⟨_, rfl⟩
    · split <;> exact ⟨_, rfl⟩

/-- Segments of context `i` have joined the tail of the emit queue, each at a position FULL and bound whole in the context `c`. -/
structure EmitsJoined (s t : State) (i : Nat) (segs : List Nat) (good : Nat → Prop) : Prop where
  added : ∃ added, t.emitQueue = s.emitQueue ++ added ∧ ∀ x ∈ added, ∃ seg ∈ segs, x = (i, seg) ∧ good seg
  joined : ∀ seg ∈ segs, good seg → (i, seg) ∈ t.emitQueue

theorem joinEmit_joined {s : State} {i seg : Nat} {c : Ctx} (hc : s.ctxs.get i = some c) :
    EmitsJoined s (s.joinEmit i seg) i [seg] (fun seg => ∃ p, c.holding seg = some p ∧ p.state = .full ∧ c.allBound p = true) := by
  have hqueue : (s.joinEmit i seg).emitQueue =
      if (∃ p, c.holding seg = some p ∧ p.state = .full ∧ c.allBound p = true) ∧ (i, seg) ∉ s.emitQueue then s.emitQueue ++ [(i, seg)]
      else s.emitQueue := by
    unfold State.joinEmit
    simp only [hc]
    cases hp : c.holding seg with
    | none => simp
    | some p => simp only [Option.some.injEq, exists_eq_left', and_assoc]; split <;> rfl
  refine ⟨?_, fun seg' hseg hgood => ?_⟩
  · rw [hqueue]
    split
    · next h => exact ⟨[(i, seg)], rfl, fun x hx => ⟨seg, by simp, List.mem_singleton.mp hx, h.1⟩⟩
    · exact ⟨[], (List.append_nil _).symm, fun x hx => nomatch hx⟩
  · obtain rfl := List.mem_singleton.mp hseg
    rw [hqueue]
    split
    · simp
    · next h => exact not_not.mp (fun hnot => h ⟨hgood, hnot⟩)

/-! ### One entry bound at several positions -/

theorem bindAt_eq {s : State} {i : Nat} {c : Ctx} (hc : s.ctxs.get i = some c) (e t seg : Nat) : ∃ ctxs : Table Ctx,
    ctxs.get i = some (c.bindOne t e seg) ∧ s.bindAt i e t seg = State.joinEmit { s with ctxs := ctxs } i seg := by
  refine ⟨s.ctxs.set i (c.bindOne t e seg), Table.get_set_same _ _ _, ?_⟩
  simp only [State.bindAt, State.modCtx, hc]
  rfl

/-- What binding entry `e` for target `t` at `segs` leaves of context `i`, and what it sends to the Emit Unit. -/
structure Bound (s u : State) (i e t : Nat) (segs : List Nat) (c c' : Ctx) : Prop where
  apart : ∃ ctxs q, u = { s with ctxs := ctxs, emitQueue := q }
  ctx : u.ctxs.get i = some c'
  same : c.sameBut c'
  holding : ∀ seg, c'.holding seg = (c.holding seg).map (fun p => if seg ∈ segs then p.bound t e else p)
  emits : EmitsJoined s u i segs (fun seg => ∃ p, c.holding seg = some p ∧ p.state = .full ∧ c.allBound (p.bound t e) = true)

theorem bindEach_bound {i : Nat} (e t : Nat) (segs : List Nat) {s : State} {c : Ctx} (hc : s.ctxs.get i = some c) :
    ∃ c', Bound s (State.bindEach i e t segs s) i e t segs c c' := by
  induction segs generalizing s c with
  | nil =>
    refine ⟨c, ⟨s.ctxs, s.emitQueue, rfl⟩, hc, .refl c, fun seg => by simp,
      ⟨[], (List.append_nil _).symm, fun x hx => nomatch hx⟩, fun seg hseg => nomatch hseg⟩
  | cons seg segs ih =>
    obtain ⟨ctxs, hctx, hbind⟩ := bindAt_eq hc e t seg
    obtain ⟨q, hq⟩ := joinEmit_apart { s with ctxs := ctxs } i seg
    have hctx' : (s.bindAt i e t seg).ctxs.get i = some (c.bindOne t e seg) := by
      rw [hbind, hq]
      exact hctx
    obtain ⟨c', h⟩ := ih hctx'
    obtain ⟨ctxs', q', hrest⟩ := h.apart
    have hone := bindOne_sameBut c t e seg
    have hfirst : EmitsJoined s (s.bindAt i e t seg) i [seg]
        (fun seg' => ∃ p, (c.bindOne t e seg).holding seg' = some p ∧ p.state = .full ∧ (c.bindOne t e seg).allBound p = true) := by
      rw [hbind]
      obtain ⟨hadded, hjoined⟩ := joinEmit_joined (s := { s with ctxs := ctxs }) (i := i) (seg := seg) hctx
      exact ⟨hadded, hjoined⟩
    have hgood : ∀ seg', (∃ p, (c.bindOne t e seg).holding seg' = some p ∧ p.state = .full ∧
        (c.bindOne t e seg).allBound (p.bound t e) = true) ↔
        ∃ p, c.holding seg' = some p ∧ p.state = .full ∧ c.allBound (p.bound t e) = true := by
      intro seg'
      rw [bindOne_holding]
      cases c.holding seg' with
      | none => simp
      | some p =>
        by_cases hseg : seg' = seg
        · simp only [hseg, if_true, Option.map_some, Option.some.injEq, exists_eq_left', bound_bound, allBound_of_bones hone.bones]
          rfl
        · simp only [hseg, if_false, Option.map_some, Option.some.injEq, exists_eq_left', allBound_of_bones hone.bones]
    have hgood' : (∃ p, (c.bindOne t e seg).holding seg = some p ∧ p.state = .full ∧ (c.bindOne t e seg).allBound p = true) ↔
        ∃ p, c.holding seg = some p ∧ p.state = .full ∧ c.allBound (p.bound t e) = true := by
      rw [bindOne_holding]
      cases c.holding seg with
      | none => simp
      | some p =>
        simp only [if_true, Option.map_some, Option.some.injEq, exists_eq_left', allBound_of_bones hone.bones]
        rfl
    obtain ⟨added1, hq1, hadded1⟩ := hfirst.added
    obtain ⟨added2, hq2, hadded2⟩ := h.emits.added
    refine ⟨c', ⟨ctxs', q', by rw [State.bindEach, hrest, hbind, hq]⟩, h.ctx, hone.trans h.same, fun seg' => ?_,
      ⟨added1 ++ added2, ?_, fun x hx => ?_⟩, fun seg' hseg' hg => ?_⟩
    · rw [h.holding, bindOne_holding, Option.map_map]
      congr 1
      funext p
      by_cases h1 : seg' = seg <;> by_cases h2 : seg' ∈ segs <;> simp [h1, h2]
    · rw [State.bindEach, hq2, hq1, List.append_assoc]
    · rcases List.mem_append.mp hx with hx | hx
      · obtain ⟨seg', hseg', rfl, hg⟩ := hadded1 x hx
        obtain rfl := List.mem_singleton.mp hseg'
        exact ⟨seg', by simp, rfl, hgood'.mp hg⟩
      · obtain ⟨seg', hseg', rfl, hg⟩ := hadded2 x hx
        exact ⟨seg', List.mem_cons_of_mem _ hseg', rfl, (hgood seg').mp hg⟩
    · rcases List.mem_cons.mp hseg' with rfl | hseg'
      · have hmem := hfirst.joined seg' (by simp) (hgood'.mpr hg)
        rw [State.bindEach, hq2]
        exact List.mem_append_left _ hmem
      · exact h.emits.joined seg' hseg' ((hgood seg').mpr hg)

end Sys2Proof.Machine
end


section
/-! PROOFS. A SINK accepted or blocked (R64, R82, R83, R85), and what it sends to the Emit Unit (R65, R66). -/

namespace Sys2Proof.Machine

/-! ### A posted SINK that passes its checks -/

theorem dispatch_sink {s : State} (h : recKind s.walker.buffer = 3) : s.dispatch = s.dispatchSink s.walker.buffer := by
  simp only [State.dispatch, h]

/-- A posted SINK record arrives: its owner checks it, and the event is settled. -/
theorem exec_sink_posted {s : State} {b : List Byte} (ha : s.awaitsRecord = true) (hp : postedRecord 3 b = true) :
    exec (.sink b) s = .next ((s.fetched b).dispatchSink b).settle := by
  show Host.Outcome.next (s.recordArrived (withKind 3 b)) = _
  rw [recordArrived_posted s b 3 ha hp (by omega) (by omega), dispatch_sink (recKind_posted 3 b hp)]
  rfl

theorem checkSink_of_sinkPasses {s : State} {b : List Byte} {c : Ctx} {r : Nat} (h : s.sinkPasses b c r) : s.checkSink b = .accept c r := by
  obtain ⟨hctx, hfrag, hone, hmany, hc, hstripe, hstate, hrole, hrange, haddress, hoverlap⟩ := h
  have hfields : runFieldsValid b = true := by
    simp [runFieldsValid, Config.slotCount, Config.fragmentCount, hctx, hfrag, hone, hmany]
  have hapart : s.overlaps b = false := by
    rw [State.overlaps, List.any_eq_false]
    intro e he
    rw [Bool.and_eq_true, Bool.and_eq_true, beq_iff_eq, beq_iff_eq]
    rintro ⟨⟨hi, ht⟩, hmeet⟩
    rw [hoverlap e he hi ht] at hmeet
    cases hmeet
  simp only [State.checkSink, hfields, namedContext_eq_some hc hstripe, hstate, hrole, haddress, hapart, Nat.not_lt.mpr hrange]
  simp

theorem dispatchSink_blocked {s : State} {b : List Byte} {c : Ctx} {r : Nat} (h : s.sinkPasses b c r)
    (hfull : 1280 ≤ s.statusTotal ∨ s.sinks.lowestFree 256 = none) : (s.fetched b).dispatchSink b = (s.fetched b).block := by
  have hcheck : (s.fetched b).checkSink b = .accept c r := checkSink_of_sinkPasses h
  rw [State.dispatchSink, hcheck]
  rcases hfull with hstatuses | hentries
  · exact if_pos hstatuses
  · show (if _ then _ else match s.sinks.lowestFree 256 with | none => _ | some e => _) = _
    rw [hentries, ite_self]

theorem dispatchSink_accepted {s : State} {b : List Byte} {c : Ctx} {r e : Nat} (h : s.sinkPasses b c r) (hroom : s.statusTotal < 1280)
    (hfree : s.sinks.lowestFree 256 = some e) : (s.fetched b).dispatchSink b = (s.fetched b).acceptSink b c r e := by
  have hcheck : (s.fetched b).checkSink b = .accept c r := checkSink_of_sinkPasses h
  rw [State.dispatchSink, hcheck]
  show (if 1280 ≤ s.statusTotal then _ else match s.sinks.lowestFree 256 with | none => _ | some e => _) = _
  rw [if_neg (by omega), hfree]

/-- A Walker that waits for a record is FETCHING, with RUN at 1 since. -/
theorem awaitsRecord_walker {s : State} (h : s.awaitsRecord = true) : s.walker.state = .fetching ∧ s.walker.stopping = false := by
  simp only [State.awaitsRecord, Bool.and_eq_true, Bool.not_eq_true', beq_iff_eq] at h
  obtain ⟨⟨⟨hstate, -⟩, -⟩, hstopping⟩ := h
  exact ⟨hstate, hstopping⟩

theorem block_of_fetching {s : State} (h : s.walker.state = .fetching) (b : List Byte) : (s.fetched b).block = s.blockedOn b := by
  rw [State.block, if_neg (by show ¬ s.walker.state = .blocked; rw [h]; decide)]
  rfl

theorem calm_blockedOn {s : State} (h : Calm s) (b : List Byte) : Calm (s.blockedOn b) :=
  ⟨h.line, h.statuses, h.ready, h.owed, h.messages, h.units, h.emits, h.solves, h.combines⟩

theorem Table.lowestFree_some {α : Type} {t : Table α} {cap e : Nat} (h : t.lowestFree cap = some e) : e < cap ∧ t.get e = none :=
  ⟨List.mem_range.mp (List.mem_of_find?_eq_some h), by simpa using List.find?_some h⟩

/-! ### Segments behind the base -/

/-- The entry with `n` of its segments counted unwritten. -/
def SinkEntry.unwrittenBy (k : SinkEntry) (n : Nat) : SinkEntry := { k with unwritten := k.unwritten + n, pending := k.pending - n }

theorem unwrittenBy_succ (k : SinkEntry) (n : Nat) : (k.hand .unwritten).unwrittenBy n = k.unwrittenBy (n + 1) := by
  simp only [SinkEntry.unwrittenBy, SinkEntry.hand, SinkEntry.mk.injEq, true_and]
  omega

theorem sinkOutcome_held {s : State} {sinks : Table SinkEntry} {e : Nat} {k : SinkEntry} (hs : s.sinks = sinks.set e k) (h : 1 < k.pending) :
    s.sinkOutcome e .unwritten = { s with sinks := sinks.set e (k.hand .unwritten) } := by
  have hget : s.sinks.get e = some k := by rw [hs, Table.get_set_same]
  rw [sinkOutcome_some hget, if_neg (by simp only [SinkEntry.hand_eq]; omega), hs, Table.set_set]

/-- With segments left, the entry stands with the count. -/
theorem unwrittenRun_held (e : Nat) (n : Nat) {s : State} {sinks : Table SinkEntry} {k : SinkEntry} (hs : s.sinks = sinks.set e k)
    (h : n < k.pending) : State.unwrittenRun e n s = { s with sinks := sinks.set e (k.unwrittenBy n) } := by
  induction n generalizing s k with
  | zero =>
    show s = { s with sinks := sinks.set e k }
    rw [← hs]
  | succ n ih =>
    rw [State.unwrittenRun, sinkOutcome_held hs (by omega), ih rfl (by simp only [SinkEntry.hand_eq]; omega), unwrittenBy_succ]

/-- With none left, the entry is finalised. -/
theorem unwrittenRun_last (e : Nat) (n : Nat) {s : State} {sinks : Table SinkEntry} {k : SinkEntry} (hs : s.sinks = sinks.set e k)
    (h : k.pending = n + 1) : ∃ u, State.unwrittenRun e (n + 1) s = u.finaliseSink e (k.unwrittenBy (n + 1)) ∧
      ∃ sinks', u = { s with sinks := sinks' } := by
  induction n generalizing s k with
  | zero =>
    have hget : s.sinks.get e = some k := by rw [hs, Table.get_set_same]
    refine ⟨s, ?_, s.sinks, rfl⟩
    rw [State.unwrittenRun, State.unwrittenRun, sinkOutcome_some hget, if_pos (by simp only [SinkEntry.hand_eq]; omega), ← unwrittenBy_succ]
    rfl
  | succ n ih =>
    obtain ⟨u, hu, sinks', hsinks⟩ := ih (s := { s with sinks := sinks.set e (k.hand .unwritten) }) rfl
      (by simp only [SinkEntry.hand_eq]; omega)
    refine ⟨u, ?_, sinks', hsinks⟩
    rw [State.unwrittenRun, sinkOutcome_held hs (by omega), hu, unwrittenBy_succ]

end Sys2Proof.Machine
end


section
/-! PROOFS. A SINK accepted, from its entry to the writes placed (R63 to R66, R83, R85). -/

namespace Sys2Proof.Machine

/-! ### The entry of an accepted SINK -/

/-- The segments of the SINK's run that lie behind the base of its context. -/
def Ctx.behindBase (c : Ctx) (b : List Byte) : Nat := min (recCount b) (c.base - recFirst b)

/-- The status of a SINK whose whole run lies behind the base. -/
def behindStatus (addr : Word64) (b : List Byte) : Status :=
  { addr := addr, notify := recNotify b, ctx := recContext b, result := toLE 2 0 ++ toLE 2 (recCount b) ++ List.replicate 12 0 }

/-- The SINK record `b` has its entry, listed in its context and counted: nothing has been bound yet. -/
structure SinkListed (s u : State) (b : List Byte) (c : Ctx) (r e : Nat) (c' : Ctx) : Prop where
  apart : ∃ ctxs sinks statuses, u = { s.takenReadied b with ctxs := ctxs, sinks := sinks, statusQueue := statuses }
  ctx : u.ctxs.get (recContext b) = some c'
  bones : c'.bones = c.bones
  slots : c'.slots = c.slots
  held : c.behindBase b < recCount b → c'.sinkList = c.sinkList ++ [e] ∧
    u.sinks = s.sinks.set e ((newSink s.walker.next b r).unwrittenBy (c.behindBase b)) ∧ u.statusQueue = s.statusQueue
  last : c.behindBase b = recCount b → u.sinks.get e = none ∧ u.statusQueue = s.statusQueue ++ [behindStatus s.walker.next b]

/-- The accepted SINK's entry, before its run is looked at. -/
def State.sinkEntered (s : State) (b : List Byte) (c : Ctx) (r e : Nat) : State :=
  { s.takenReadied b with
    sinks := s.sinks.set e (newSink s.walker.next b r)
    ctxs := s.ctxs.set (recContext b) { c with sinkList := c.sinkList ++ [e] } }

theorem acceptSink_eq {s : State} {b : List Byte} {c : Ctx} (hc : s.ctxs.get (recContext b) = some c) (r e : Nat) :
    (s.fetched b).acceptSink b c r e = State.bindEach (recContext b) e (recFragment b) (c.fullSegs (recFirst b) (recCount b))
      (State.unwrittenRun e (c.behindBase b) (s.sinkEntered b c r e)) := by
  have hlisted : State.modCtx { s.takenReadied b with sinks := s.sinks.set e (newSink s.walker.next b r) } (recContext b)
      (fun c => { c with sinkList := c.sinkList ++ [e] }) = s.sinkEntered b c r e := by
    have hc' : ({ s.takenReadied b with sinks := s.sinks.set e (newSink s.walker.next b r) } : State).ctxs.get (recContext b) = some c := hc
    simp only [State.modCtx, hc']
    rfl
  show State.bindEach _ _ _ _ (State.unwrittenRun e _ (State.modCtx _ _ _)) = _
  exact congrArg (fun x => State.bindEach (recContext b) e (recFragment b) (c.fullSegs (recFirst b) (recCount b))
    (State.unwrittenRun e (c.behindBase b) x)) hlisted

theorem handled_state {s : State} {b : List Byte} (ha : s.awaitsRecord = true) : (s.takenReadied b).walker.state = .fetching := by
  obtain ⟨-, hstopping⟩ := awaitsRecord_walker ha
  show (if s.walker.stopping = true then _ else _) = _
  rw [hstopping]
  rfl

theorem finaliseSink_of_fetching {s : State} (h : s.walker.state = .fetching) (e : Nat) (k : SinkEntry) : s.finaliseSink e k =
    { s with
      ctxs := (s.modCtx k.ctx (fun c => { c with sinkList := c.sinkList.filter (· ≠ e) })).ctxs
      sinks := s.sinks.erase e
      statusQueue := s.statusQueue ++ [⟨k.addr, k.notify, k.ctx, sinkResult k.written k.unwritten⟩] } := by
  have hmod : s.modCtx k.ctx (fun c => { c with sinkList := c.sinkList.filter (· ≠ e) }) =
      { s with ctxs := (s.modCtx k.ctx (fun c => { c with sinkList := c.sinkList.filter (· ≠ e) })).ctxs } := by
    unfold State.modCtx
    split <;> rfl
  rw [State.finaliseSink, hmod]
  exact if_neg (by show ¬ (s.walker.state = .blocked ∧ _); rw [h]; simp)

theorem sinkListed {s : State} {b : List Byte} {c : Ctx} (ha : s.awaitsRecord = true)
    (hone : 1 ≤ recCount b) (r e : Nat) : ∃ c', SinkListed s (State.unwrittenRun e (c.behindBase b) (s.sinkEntered b c r e)) b c r e c' := by
  have hle : c.behindBase b ≤ recCount b := Nat.min_le_left _ _
  by_cases hheld : c.behindBase b < recCount b
  · rw [unwrittenRun_held e (c.behindBase b) (s := s.sinkEntered b c r e) rfl hheld]
    exact ⟨_, ⟨_, _, _, rfl⟩, Table.get_set_same _ _ _, rfl, rfl, fun _ => ⟨rfl, rfl, rfl⟩, fun h => absurd h (by omega)⟩
  · have hall : c.behindBase b = recCount b := by omega
    obtain ⟨n, hn⟩ : ∃ n, recCount b = n + 1 := ⟨recCount b - 1, by omega⟩
    obtain ⟨u, hu, sinks, hsinks⟩ := unwrittenRun_last e n (s := s.sinkEntered b c r e) (k := newSink s.walker.next b r) rfl hn
    have hstate : u.walker.state = .fetching := by rw [hsinks]; exact handled_state ha
    have hctx : u.ctxs.get (recContext b) = some { c with sinkList := c.sinkList ++ [e] } := by rw [hsinks]; exact Table.get_set_same _ _ _
    have hstatuses : u.statusQueue = s.statusQueue := by rw [hsinks]; rfl
    rw [hall, hn, hu, finaliseSink_of_fetching hstate]
    refine ⟨{ c with sinkList := (c.sinkList ++ [e]).filter (· ≠ e) }, ?_, ?_, rfl, rfl, fun h => absurd hall (by omega),
      fun _ => ⟨?_, ?_⟩⟩
    · subst hsinks
      exact ⟨_, _, _, rfl⟩
    · show (u.modCtx (recContext b) _).ctxs.get (recContext b) = _
      rw [modCtx_get_same, hctx]
      rfl
    · exact Table.get_erase_same _ _
    · show u.statusQueue ++ _ = _
      rw [hstatuses, ← hn]
      simp only [behindStatus, SinkEntry.unwrittenBy, newSink, sinkResult, Nat.zero_add]

/-! ### The idle Emit Unit takes the first position bound whole -/

theorem takeEmit_head {s : State} {i seg : Nat} {rest : List (Nat × Nat)} {c : Ctx} {p : Position} (hidle : s.emit = none)
    (hqueue : s.emitQueue = (i, seg) :: rest) (hc : s.ctxs.get i = some c) (hp : c.holding seg = some p) : s.takeEmit =
    { s with emitQueue := rest, emit := some ⟨i, seg, c.targets⟩, ctxs := s.ctxs.set i (c.putPosition seg { p with state := .emitting }) } := by
  simp only [State.takeEmit, hidle, hqueue, hc, hp]

/-- Entry `e` has been bound for target `t` at the positions of context `i` that hold `segs`, and the Emit Unit, if idle, has taken its next. -/
structure BoundTaken (s u : State) (i e t : Nat) (segs : List Nat) (c c' : Ctx) : Prop where
  apart : ∃ ctxs q emit, u = { s with ctxs := ctxs, emitQueue := q, emit := emit }
  ctx : u.ctxs.get i = some c'
  same : c.sameBut c'
  kept : ∀ seg p, c.holding seg = some p → seg ∉ segs → c'.holding seg = some p
  bound : ∀ seg p, c.holding seg = some p → p.state = .full → seg ∈ segs → ∃ p', c'.holding seg = some p' ∧
    p'.row = p.row ∧ p'.binds = p.binds.set t e ∧
    (c.allBound (p.bound t e) = false → p'.state = .full ∧ u.emitQueue.count (i, seg) = s.emitQueue.count (i, seg)) ∧
    (c.allBound (p.bound t e) = true → (p'.state = .full ∧ (i, seg) ∈ u.emitQueue) ∨
      (p'.state = .emitting ∧ s.emit = none ∧ ∃ left, u.emit = some { ctx := i, seg := seg, targetsLeft := left }))

theorem Bound.count {s u : State} {i e t : Nat} {segs : List Nat} {c c' : Ctx} (h : Bound s u i e t segs c c') {seg : Nat} {p : Position}
    (hp : c.holding seg = some p) (hnot : c.allBound (p.bound t e) = false) : u.emitQueue.count (i, seg) = s.emitQueue.count (i, seg) := by
  obtain ⟨added, hqueue, hadded⟩ := h.emits.added
  have hnone : added.count (i, seg) = 0 := by
    refine List.count_eq_zero.mpr (fun hmem => ?_)
    obtain ⟨seg', -, heq, p', hp', -, hall⟩ := hadded _ hmem
    obtain ⟨-, rfl⟩ := Prod.mk.inj heq
    rw [hp] at hp'
    cases hp'
    rw [hnot] at hall
    cases hall
  rw [hqueue, List.count_append, hnone, Nat.add_zero]

theorem Bound.bound {s u : State} {i e t : Nat} {segs : List Nat} {c c' : Ctx} (h : Bound s u i e t segs c c') {seg : Nat} {p : Position}
    (hp : c.holding seg = some p) (hseg : seg ∈ segs) : c'.holding seg = some (p.bound t e) := by
  rw [h.holding, hp, Option.map_some, if_pos hseg]

theorem Bound.boundTaken {s u : State} {i e t : Nat} {segs : List Nat} {c c' : Ctx} (h : Bound s u i e t segs c c')
    (hemits : s.emit = none → s.emitQueue = []) : ∃ c'', BoundTaken s u.takeEmit i e t segs c c'' := by
  obtain ⟨ctxs, q, hapart⟩ := h.apart
  have hkept : ∀ seg p, c.holding seg = some p → seg ∉ segs → c'.holding seg = some p := fun seg p hp hseg => by
    rw [h.holding, hp, Option.map_some, if_neg hseg]
  have hwhole : ∀ seg p, c.holding seg = some p → p.state = .full → seg ∈ segs → c.allBound (p.bound t e) = true →
      (i, seg) ∈ u.emitQueue :=
    fun seg p hp hfull hseg hall => h.emits.joined seg hseg ⟨p, hp, hfull, hall⟩
  by_cases hidle : s.emit = none ∧ u.emitQueue ≠ []
  · obtain ⟨hnone, hsome⟩ := hidle
    obtain ⟨added, hqueue, hadded⟩ := h.emits.added
    rw [hemits hnone, List.nil_append] at hqueue
    obtain ⟨x, rest, hrest⟩ := List.exists_cons_of_ne_nil hsome
    obtain ⟨seg0, hseg0, rfl, p0, hp0, hfull0, hall0⟩ := hadded x (by rw [← hqueue, hrest]; simp)
    have hp0' := h.bound hp0 hseg0
    have htake := takeEmit_head (by rw [hapart]; exact hnone) hrest h.ctx hp0'
    have hsegAt : p0.seg = seg0 := holding_seg hp0
    have hother : ∀ seg, seg ≠ seg0 →
        (c'.putPosition seg0 { p0.bound t e with state := .emitting }).holding seg = c'.holding seg := fun seg hne =>
      holding_putPosition_other hp0' hsegAt hne
    refine ⟨c'.putPosition seg0 { p0.bound t e with state := .emitting }, ⟨_, _, _, by rw [htake, hapart]⟩, ?_,
      h.same.trans ⟨rfl, rfl, rfl⟩, fun seg p hp hseg => ?_, fun seg p hp hfull hseg => ?_⟩
    · rw [htake]
      exact Table.get_set_same _ _ _
    · rw [hother seg (fun heq => hseg (heq ▸ hseg0)), hkept seg p hp hseg]
    · by_cases heq : seg = seg0
      · subst heq
        obtain rfl : p0 = p := Option.some.inj (hp0.symm.trans hp)
        refine ⟨_, holding_putPosition_same c' hsegAt, rfl, rfl, fun hnot => ?_, fun _ => .inr ⟨rfl, hnone, c'.targets, ?_⟩⟩
        · rw [hall0] at hnot
          cases hnot
        · rw [htake]
      · refine ⟨p.bound t e, ?_, rfl, rfl, fun hnot => ⟨hfull, ?_⟩, fun hall => .inl ⟨hfull, ?_⟩⟩
        · rw [hother seg heq, h.bound hp hseg]
        · rw [← h.count hp hnot, htake, hrest, List.count_cons_of_ne (fun hsame => heq (Prod.mk.inj hsame).2.symm)]
        · have hmem := hwhole seg p hp hfull hseg hall
          rw [hrest] at hmem
          rw [htake]
          exact (List.mem_cons.mp hmem).resolve_left (fun hsame => heq (Prod.mk.inj hsame).2)
  · have hstay : u.takeEmit = u := takeEmit_idle (fun hu => not_not.mp (fun hsome => hidle ⟨by rw [hapart] at hu; exact hu, hsome⟩))
    rw [hstay]
    exact ⟨c', ⟨_, _, _, hapart⟩, h.ctx, h.same, hkept, fun seg p hp hfull hseg => ⟨p.bound t e, h.bound hp hseg, rfl, rfl,
      fun hnot => ⟨hfull, h.count hp hnot⟩, fun hall => .inl ⟨hfull, hwhole seg p hp hfull hseg hall⟩⟩⟩

/-! ### The whole of it, settled -/

/-- Once a SINK has been bound, the event ends with its TAKEN placed first, and then the other writes. -/
theorem settle_sinkBound {s u v : State} {b : List Byte} {i e t : Nat} {segs : List Nat} {c c' : Ctx} (hcalm : Calm s)
    (hroom : s.port.writeQueue.length + 1 ≤ 64)
    (hu : ∃ ctxs sinks statuses, u = { s.takenReadied b with ctxs := ctxs, sinks := sinks, statusQueue := statuses })
    (hbound : Bound u v i e t segs c c') : ∃ c'', BoundTaken u v.takeEmit i e t segs c c'' ∧
      v.settle = (v.takeEmit.walkerPlaced (takenWrite s.walker.next)).offerReady := by
  obtain ⟨ctxs, sinks, statuses, hu⟩ := hu
  obtain ⟨ctxs', q, hv⟩ := hbound.apart
  obtain ⟨c'', h⟩ := hbound.boundTaken (by rw [hu]; exact hcalm.emits)
  obtain ⟨ctxs'', q', emit, htake⟩ := h.apart
  refine ⟨c'', h, ?_⟩
  rw [State.settle, startSolve_idle (by rw [hv, hu]; exact hcalm.solves), takeCombine_idle (by rw [hv, hu]; exact hcalm.combines)]
  exact offerReady_walker (by rw [htake, hu]; exact hcalm.line) (by rw [htake, hu]; rfl) (by rw [htake, hu]; exact hroom)

theorem mem_fullSegs {c : Ctx} (hs : c.seated) {first count seg : Nat} : seg ∈ c.fullSegs first count ↔
    ∃ p, c.holding seg = some p ∧ p.state = .full ∧ first ≤ seg ∧ seg < first + count := by
  simp only [Ctx.fullSegs, List.mem_map, List.mem_filter, Bool.and_eq_true, beq_iff_eq, inRange, decide_eq_true_eq]
  constructor
  · rintro ⟨p, ⟨hp, hfull, hrange⟩, rfl⟩
    exact ⟨p, holding_of_mem_positions hs hp, hfull, hrange⟩
  · rintro ⟨p, hp, hfull, hrange⟩
    have hseg := holding_seg hp
    exact ⟨p, ⟨mem_positions_of_holding hp, hfull, by rw [hseg]; exact hrange⟩, hseg⟩

theorem emit_of_emitOf {s : State} {i seg : Nat} (h : s.emitOf = some (i, seg)) :
    ∃ left, s.emit = some { ctx := i, seg := seg, targetsLeft := left } := by
  obtain ⟨m, hm, heq⟩ := Option.map_eq_some_iff.mp h
  obtain ⟨rfl, rfl⟩ := Prod.mk.inj heq
  exact ⟨m.targetsLeft, hm⟩

theorem sinkTaken_of_boundTaken {s u v : State} {b : List Byte} {c c1 c3 : Ctx} {r e : Nat} (hcalm : Calm s)
    (hlisted : SinkListed s u b c r e c1)
    (htaken : BoundTaken u v (recContext b) e (recFragment b) (c.fullSegs (recFirst b) (recCount b)) c1 c3) :
    s.sinkTaken (v.walkerPlaced (takenWrite s.walker.next)).offerReady b c r e := by
  obtain ⟨ctxs, sinks, statuses, hu⟩ := hlisted.apart
  obtain ⟨ctxs', q, emit, hv⟩ := htaken.apart
  obtain ⟨x, hx⟩ : ∃ x, x = v.walkerPlaced (takenWrite s.walker.next) := ⟨_, rfl⟩
  rw [← hx]
  have hplacing := offerReady_placing x
  have hctx : x.ctxs.get (recContext b) = some c3 := by rw [hx]; exact htaken.ctx
  have hready : x.ready.rows = [] := by rw [hx, hv, hu]; exact hcalm.ready
  obtain ⟨c4, hc4, hbones, hslots, -, hsinks⟩ := hplacing.ctx_bones hctx
    (holds_of_progressAlone (calm_progressAlone hready) (by rw [hctx]; rfl))
  obtain ⟨more, hqueue, hstatus⟩ := offerReady_status x
  have hxqueue : x.port.writeQueue = s.port.writeQueue ++ [takenWrite s.walker.next] := by rw [hx, hv, hu]; rfl
  have hxsinks : x.offerReady.sinks = u.sinks := by
    have hsame : x.sinks = u.sinks := by rw [hx, hv]; rfl
    exact (congrArg State.sinks hplacing.steady).trans hsame
  have hstatuses : x.statusQueue = u.statusQueue := by rw [hx, hv]; rfl
  have hemit : x.offerReady.emitOf = v.emitOf := by rw [offerReady_emitOf, hx]; rfl
  have hemitQueue : x.offerReady.emitQueue = v.emitQueue := by rw [hplacing.emitQueue, hx]; rfl
  have hheld : ∀ seg, c4.holding seg = c3.holding seg := holding_of_slots hslots (congrArg Ctx.geo hbones :)
  have hfirst : ∀ seg, c1.holding seg = c.holding seg := holding_of_slots hlisted.slots (congrArg Ctx.geo hlisted.bones :)
  refine ⟨c4, more, hc4, hbones.trans (htaken.same.bones.trans hlisted.bones), fun hbehind => ?_, fun hbehind => ?_, ?_, fun hseated seg p hp => ?_,
    ?_, ?_, ?_, ?_, ?_⟩
  · obtain ⟨hlist, hentry, -⟩ := hlisted.held hbehind
    exact ⟨hsinks.trans (htaken.same.sinkList.trans hlist),
      hxsinks.trans (hentry.trans (by simp [SinkEntry.unwrittenBy, newSink, Ctx.behindBase]))⟩
  · obtain ⟨hgone, hline⟩ := hlisted.last hbehind
    refine ⟨by rw [hxsinks]; exact hgone, fun result hresult => ?_⟩
    rw [hcalm.statuses, List.nil_append] at hline
    subst hresult
    rcases hstatus _ (hstatuses.trans hline) with hwaits | hplaced
    · exact .inl hwaits
    · exact .inr (by rwa [Status.toWrite_eq _ (by simp [behindStatus, toLE])] at hplaced)
  · rw [hqueue, hxqueue, List.append_assoc]
    rfl
  · rw [hheld]
    have hp1 := (hfirst seg).trans hp
    refine ⟨fun hout => htaken.kept seg p hp1 (fun hmem => ?_), fun hfull hlow hhigh => ?_⟩
    · obtain ⟨p', hp', hfull, hlow, hhigh⟩ := (mem_fullSegs hseated).mp hmem
      obtain rfl := Option.some.inj (hp.symm.trans hp')
      rcases hout with h | h | h
      · exact h hfull
      · omega
      · omega
    · obtain ⟨p', hp', hrow, hbinds, hpart, hwhole⟩ := htaken.bound seg p hp1 hfull ((mem_fullSegs hseated).mpr ⟨p, hp, hfull, hlow, hhigh⟩)
      have hall : c1.allBound (p.bound (recFragment b) e) = true ↔ ∀ g ∈ c.targets, (p'.binds.get g).isSome = true := by
        rw [allBound_of_bones hlisted.bones, allBound_iff, hbinds]
        rfl
      refine ⟨p', hp', hrow, by rw [hbinds, Table.get_set_same], fun g hg => by rw [hbinds, Table.get_set_other _ hg], ?_, fun hevery => ?_⟩
      · rintro ⟨g, hg, hunbound⟩
        obtain ⟨hstill, hcount⟩ := hpart (Bool.eq_false_iff.mpr (fun h => by simpa [hunbound] using hall.mp h g hg))
        exact ⟨hstill, by rw [hemitQueue, hcount, hu]; rfl⟩
      · rcases hwhole (hall.mpr hevery) with ⟨hstill, hmem⟩ | ⟨hemitting, hidle, left, hleft⟩
        · exact .inl ⟨hstill, by rw [hemitQueue]; exact hmem⟩
        · obtain ⟨left', hleft'⟩ := emit_of_emitOf (hemit.trans (by rw [State.emitOf, hleft]; rfl))
          exact .inr ⟨hemitting, by rw [hu] at hidle; exact hidle, left', hleft'⟩
  · exact (congrArg State.feeds hplacing.steady :).trans (by rw [hx, hv, hu]; rfl)
  · exact hplacing.store.trans (by rw [hx, hv, hu]; rfl)
  · exact (congrArg (fun y : State => y.port.staging) hplacing.steady :).trans (by rw [hx, hv, hu]; rfl)
  · rw [offerReady_ctl (by rw [hx, hv, hu]; exact hcalm.owed) (by rw [hx, hv, hu]; exact hcalm.messages), hx, hv, hu]
    rfl
  · exact (congrArg State.gov hplacing.steady :).trans (by rw [hx, hv, hu]; rfl)

/-- Settles O37: the entry is listed and counted, bound at the FULL positions it covers, and the event's writes follow the TAKEN. -/
theorem sinkAccepted : Obligations.SinkAccepted := by
  intro s b c r ha hr hp hpass
  obtain ⟨hcalm, hready, hroom⟩ := (s.atRest_iff 2).1 hr
  obtain ⟨hfetching, -⟩ := awaitsRecord_walker ha
  obtain ⟨-, -, hone, -, hc, -⟩ := id hpass
  refine ⟨fun hfull => ?_, fun e htotal hfree => ?_⟩
  · rw [exec_sink_posted ha hp, dispatchSink_blocked hpass hfull, block_of_fetching hfetching, settle_calm _ (calm_blockedOn hcalm b) hready]
  · obtain ⟨hcap, hnone⟩ := Table.lowestFree_some hfree
    obtain ⟨c1, hlisted⟩ := sinkListed (c := c) ha hone r e
    obtain ⟨c2, hbound⟩ := bindEach_bound e (recFragment b) (c.fullSegs (recFirst b) (recCount b)) hlisted.ctx
    obtain ⟨c3, htaken, hsettle⟩ := settle_sinkBound hcalm (by omega) hlisted.apart hbound
    have hexec := exec_sink_posted ha hp
    rw [dispatchSink_accepted hpass htotal hfree, acceptSink_eq hc, hsettle] at hexec
    exact ⟨_, hexec, hcap, hnone, sinkTaken_of_boundTaken hcalm hlisted htaken⟩

end Sys2Proof.Machine
end


section
/-! PROOFS. The source and the spare a stall swap exchanges (R119), and what a source-set change leaves of a window (R61, R113, R140). -/

namespace Sys2Proof.Machine

/-! ### The swap pair, as the rule states it -/

/-- Fragment `h` is a source the position still waits for. -/
def Ctx.waitsFor (c : Ctx) (p : Position) (h : Nat) : Prop :=
  c.role h = .source ∧ ∀ en, p.row.get h = some en → en.state = .refused ∨ en.state = .readFailed

/-- Fragment `h` is a spare that has the position's segment logged. -/
def Ctx.readyFor (c : Ctx) (p : Position) (h : Nat) : Prop :=
  c.role h = .spare ∧ ∃ en, p.row.get h = some en ∧ en.state = .logged

/-- `p` is the oldest OPEN position, and holds `seg`. -/
def Ctx.oldestAt (c : Ctx) (seg : Nat) (p : Position) : Prop :=
  c.holding seg = some p ∧ p.state = .opened ∧ ∀ seg' q, c.holding seg' = some q → q.state = .opened → seg ≤ seg'

/-- The oldest OPEN position waits for source `f` and has spare `g` ready, each the lowest of its kind. -/
def Ctx.swaps (c : Ctx) (f g : Nat) : Prop := ∃ seg p, c.holding seg = some p ∧ p.state = .opened ∧
  (∀ seg' q, c.holding seg' = some q → q.state = .opened → seg ≤ seg') ∧
  f < 24 ∧ c.waitsFor p f ∧ (∀ h < f, ¬ c.waitsFor p h) ∧ g < 24 ∧ c.readyFor p g ∧ ∀ h < g, ¬ c.readyFor p h

theorem oldestAt_unique {c : Ctx} {seg seg' : Nat} {p q : Position} (hp : c.oldestAt seg p) (hq : c.oldestAt seg' q) : p = q := by
  obtain ⟨hheld, hopen, holdest⟩ := hp
  obtain ⟨hheld', hopen', holdest'⟩ := hq
  obtain rfl : seg = seg' := Nat.le_antisymm (holdest _ _ hheld' hopen') (holdest' _ _ hheld hopen)
  exact Option.some.inj (hheld.symm.trans hheld')

theorem oldestAt_of_oldestOpen {c : Ctx} (hs : c.seated) {p : Position} (h : c.oldestOpen = some p) : c.oldestAt p.seg p := by
  obtain ⟨hopen, before, after, hsplit, hbefore⟩ := List.find?_eq_some_iff_append.mp h
  have hheld := holding_of_mem_positions hs (List.mem_of_find?_eq_some h)
  refine ⟨hheld, by simpa using hopen, fun seg' q hq hqopen => ?_⟩
  have hlowest := lowest_of_split hsplit (good := fun q => q.state = .opened) (fun q hq => by simpa using hbefore q hq)
    q (mem_positions_of_holding hq) hqopen
  rwa [holding_seg hq] at hlowest

theorem oldestOpen_iff {c : Ctx} (hs : c.seated) {p : Position} : c.oldestOpen = some p ↔ ∃ seg, c.oldestAt seg p := by
  refine ⟨fun h => ⟨p.seg, oldestAt_of_oldestOpen hs h⟩, fun ⟨seg, hp⟩ => ?_⟩
  obtain ⟨hheld, hopen, -⟩ := id hp
  have hfound : (c.oldestOpen).isSome = true := by
    rw [Ctx.oldestOpen, List.find?_isSome]
    exact ⟨p, mem_positions_of_holding hheld, by simpa using hopen⟩
  obtain ⟨q, hq⟩ := Option.isSome_iff_exists.mp hfound
  rw [hq, oldestAt_unique (oldestAt_of_oldestOpen hs hq) hp]

/-- The lowest fragment of a role that is as wanted. -/
theorem fragmentsIn_find {c : Ctx} {r : Role} {good : Nat → Bool} {f : Nat} : (c.fragmentsIn r).find? good = some f ↔
    f < 24 ∧ (c.role f = r ∧ good f = true) ∧ ∀ h < f, ¬ (c.role h = r ∧ good h = true) := by
  rw [Ctx.fragmentsIn, List.find?_filter, List.find?_range_eq_some, List.mem_range, and_left_comm]
  simp only [beq_iff_eq, Bool.not_eq_true', ← Bool.not_eq_true, decide_eq_true_eq]
  rfl

theorem swapSource_iff {c : Ctx} {p : Position} {f : Nat} : c.swapSource p = some f ↔
    f < 24 ∧ c.waitsFor p f ∧ ∀ h < f, ¬ c.waitsFor p h := by
  have hgood : ∀ h, (c.role h = .source ∧ (match p.row.get h with
      | none => true
      | some e => e.state == .refused || e.state == .readFailed) = true) ↔ c.waitsFor p h := fun h => by
    rw [Ctx.waitsFor]
    cases p.row.get h <;> simp
  rw [Ctx.swapSource, Ctx.sources, fragmentsIn_find]
  exact and_congr_right' (and_congr (hgood f) (forall₂_congr fun h _ => not_congr (hgood h)))

theorem swapSpare_iff {c : Ctx} {p : Position} {g : Nat} : c.swapSpare p = some g ↔
    g < 24 ∧ c.readyFor p g ∧ ∀ h < g, ¬ c.readyFor p h := by
  have hgood : ∀ h, (c.role h = .spare ∧ (match p.row.get h with
      | none => false
      | some e => e.state == .logged) = true) ↔ c.readyFor p h := fun h => by
    rw [Ctx.readyFor]
    cases p.row.get h <;> simp
  rw [Ctx.swapSpare, fragmentsIn_find]
  exact and_congr_right' (and_congr (hgood g) (forall₂_congr fun h _ => not_congr (hgood h)))

theorem swapPair_iff {c : Ctx} (hs : c.seated) {f g : Nat} : c.swapPair = some (f, g) ↔ c.swaps f g := by
  simp only [Ctx.swapPair, Option.bind_eq_some_iff, Option.map_eq_some_iff, Prod.mk.injEq, oldestOpen_iff hs, swapSource_iff, swapSpare_iff]
  constructor
  · rintro ⟨p, ⟨seg, hp, hopen, holdest⟩, f, ⟨hf, hwaits, hfirst⟩, g, ⟨hg, hready, hlowest⟩, rfl, rfl⟩
    exact ⟨seg, p, hp, hopen, holdest, hf, hwaits, hfirst, hg, hready, hlowest⟩
  · rintro ⟨seg, p, hp, hopen, holdest, hf, hwaits, hfirst, hg, hready, hlowest⟩
    exact ⟨p, ⟨seg, hp, hopen, holdest⟩, f, ⟨hf, hwaits, hfirst⟩, g, ⟨hg, hready, hlowest⟩, rfl, rfl⟩

theorem swapPair_none_iff {c : Ctx} (hs : c.seated) : c.swapPair = none ↔ ∀ f g, ¬ c.swaps f g := by
  rw [Option.eq_none_iff_forall_ne_some]
  refine ⟨fun h f g hswap => h (f, g) ((swapPair_iff hs).mpr hswap), fun h x hx => h x.1 x.2 ((swapPair_iff hs).mp hx)⟩

/-- The pair is a source and a spare. -/
theorem swaps_roles {c : Ctx} {f g : Nat} (h : c.swaps f g) : c.role f = .source ∧ c.role g = .spare := by
  obtain ⟨-, -, -, -, -, -, ⟨hf, -⟩, -, -, ⟨hg, -⟩, -⟩ := h
  exact ⟨hf, hg⟩

end Sys2Proof.Machine
end


section
/-! PROOFS. What a source-set change leaves of its context's window and of the units beside it (R61, R113, R140). -/

namespace Sys2Proof.Machine

/-! ### Positions replaced -/

theorem seated_putPosition {c : Ctx} (hs : c.seated) {seg : Nat} {q : Position} (hq : q.seg = seg) : (c.putPosition seg q).seated := by
  refine ⟨Table.wf_set _ _ _ hs.1, fun n p hp => ?_⟩
  show p.seg % c.geo.width = n
  have hget : (c.slots.set (seg % c.geo.width) q).get n = some p := hp
  rw [Table.get_set] at hget
  split at hget
  · next hn =>
    cases hget
    rw [hq, hn]
  · exact hs.2 n p hget

/-! ### Discards, whichever entries they reach -/

/-- Of the window of `c`, no more than INFLIGHT entries have changed. -/
structure Ctx.discardedTo (c c' : Ctx) : Prop where
  bones : c'.bones = c.bones
  seated : c.seated → c'.seated
  kept : ∀ seg p, c.holding seg = some p → ∃ p', c'.holding seg = some p' ∧ p'.state = p.state ∧
    ∀ g, (∀ en, p.row.get g = some en → en.state ≠ .inflight) → p'.row.get g = p.row.get g
  none : ∀ seg, c.holding seg = none → c'.holding seg = none

theorem Ctx.discardedTo.refl (c : Ctx) : c.discardedTo c := ⟨rfl, id, fun _ p hp => ⟨p, hp, rfl, fun _ _ => rfl⟩, fun _ => id⟩

theorem Ctx.discardedTo.trans {a b c : Ctx} (h1 : a.discardedTo b) (h2 : b.discardedTo c) : a.discardedTo c where
  bones := h2.bones.trans h1.bones
  seated := h2.seated ∘ h1.seated
  kept seg p hp := by
    obtain ⟨q, hq, hstate, hrow⟩ := h1.kept seg p hp
    obtain ⟨r, hr, hstate', hrow'⟩ := h2.kept seg q hq
    exact ⟨r, hr, hstate'.trans hstate, fun g hg => (hrow' g (by rw [hrow g hg]; exact hg)).trans (hrow g hg)⟩
  none seg h := h2.none seg (h1.none seg h)

theorem withFeeds_discardedTo (c : Ctx) (list : List Nat) : c.discardedTo (c.withFeeds list) :=
  ⟨rfl, id, fun _ p hp => ⟨p, hp, rfl, fun _ _ => rfl⟩, fun _ => id⟩

theorem discardAt_discardedTo (c : Ctx) (seg f : Nat) : c.discardedTo (c.discardAt seg f) := by
  cases hfound : c.inflightAt seg f with
  | none =>
    have hsame : c.discardAt seg f = c := by rw [Ctx.discardAt, hfound]
    rw [hsame]
    exact .refl c
  | some x =>
    obtain ⟨p, en⟩ := x
    obtain ⟨hp, hen, hinflight, -⟩ := inflightAt_some.mp hfound
    have hseg : (p.putEntry f (c.discardEntry f en)).seg = seg := (putEntry_seg _ _ _).trans (holding_seg hp)
    have hput : c.discardAt seg f = c.putPosition seg (p.putEntry f (c.discardEntry f en)) := by rw [Ctx.discardAt, hfound]
    refine ⟨discardAt_bones c seg f, fun hs => by rw [hput]; exact seated_putPosition hs hseg, fun seg' q hq => ?_, fun seg' hnone => ?_⟩
    · by_cases heq : seg' = seg
      · subst heq
        obtain rfl := Option.some.inj (hp.symm.trans hq)
        refine ⟨_, discardAt_holding_same hfound, putEntry_state _ _ _, fun g hg => ?_⟩
        have hne : g ≠ f := fun h => hg en (h ▸ hen) hinflight
        rw [putEntry_row_get, if_neg hne]
      · exact ⟨q, by rw [discardAt_holding_other f heq, hq], rfl, fun _ _ => rfl⟩
    · have hne : seg' ≠ seg := fun h => by rw [h, hp] at hnone; cases hnone
      rw [discardAt_holding_other f hne, hnone]

/-- Slots have been freed and their discards handed: contexts are as discards leave them. -/
structure Discards (s t : State) : Prop where
  beside : ∃ port, OutcomesOnly { s with port := port } t
  ctx : ∀ i c, s.ctxs.get i = some c → ∃ c', t.ctxs.get i = some c' ∧ c.discardedTo c'

theorem Discards.of_port (s : State) (port : Port) : Discards s { s with port := port } :=
  ⟨⟨port, .refl _⟩, fun _ c hc => ⟨c, hc, .refl c⟩⟩

theorem Discards.trans {s t u : State} (h1 : Discards s t) (h2 : Discards t u) : Discards s u where
  beside := by
    obtain ⟨port, h⟩ := h1.beside
    obtain ⟨port', h'⟩ := h2.beside
    have hport : OutcomesOnly { s with port := port' } { t with port := port' } :=
      ⟨⟨congrArg (fun x : State => { x with port := port' }) h.same⟩, h.store⟩
    exact ⟨port', hport.trans h'⟩
  ctx i c hc := by
    obtain ⟨d, hd, hto⟩ := h1.ctx i c hc
    obtain ⟨e, he, hto'⟩ := h2.ctx i d hd
    exact ⟨e, he, hto.trans hto'⟩

theorem discard_ctx_other {s : State} {i j : Nat} {c : Ctx} (hc : s.ctxs.get j = some c) (hj : j ≠ i) (seg f : Nat) :
    ∃ list, (s.discard i seg f).ctxs.get j = some (c.withFeeds list) := by
  have hsame : ∀ e, (s.putEntry i seg f e).ctxs.get j = some c := fun e => (modCtx_get_other s hj _).trans hc
  cases hi : s.ctxs.get i with
  | none => exact ⟨c.feedList, by rw [State.discard, hi]; exact hc⟩
  | some d =>
    cases h : d.inflightAt seg f with
    | none => exact ⟨c.feedList, by rw [discard_of_none hi h]; exact hc⟩
    | some x =>
      rw [discard_of_some hi h]
      split
      · exact feedOutcome_ctx (hsame none) _ _
      · exact ⟨c.feedList, hsame _⟩

theorem discard_discards (s : State) (i seg f : Nat) : Discards s (s.discard i seg f) := by
  refine ⟨⟨s.port, discard_outcomesOnly s i seg f⟩, fun j c hc => ?_⟩
  by_cases hj : j = i
  · subst hj
    obtain ⟨list, hlist⟩ := discard_ctx (seg := seg) (f := f) hc
    exact ⟨_, hlist, (discardAt_discardedTo c seg f).trans (withFeeds_discardedTo _ list)⟩
  · obtain ⟨list, hlist⟩ := discard_ctx_other hc hj seg f
    exact ⟨_, hlist, withFeeds_discardedTo c list⟩

theorem discardEach_discards (ks : List Nat) (s : State) : Discards s (State.discardEach ks s) := by
  induction ks generalizing s with
  | nil => exact .of_port s s.port
  | cons k ks ih =>
    refine Discards.trans ?_ (ih (s.discardStaging k))
    unfold State.discardStaging
    split
    · exact .of_port s s.port
    · exact (Discards.of_port s _).trans (discard_discards (s.freeStaging k) _ _ _)

theorem markStale_discards (s : State) (i : Nat) : Discards s (s.markStale i) :=
  (Discards.of_port s _).trans (discardEach_discards _ _)

/-! ### What stands beside the window -/

/-- The control interface, the Emit Unit's and the Combine Unit's work, and what is held behind a combine. -/
def State.unitsBeside (s : State) : Control × Option Emit × List (Nat × Nat) × Option Combining × List Nat × List Held :=
  (s.ctl, s.emit, s.emitQueue, s.combining, s.combineQueue, s.held)

@[simp] theorem modCtx_unitsBeside (s : State) (i : Nat) (f : Ctx → Ctx) : (s.modCtx i f).unitsBeside = s.unitsBeside := by
  unfold State.modCtx
  split <;> rfl

@[simp] theorem oweProgress_unitsBeside (s : State) (i : Nat) : (s.oweProgress i).unitsBeside = s.unitsBeside := by
  obtain ⟨r, hr, -⟩ := oweProgress_apart s i
  rw [hr]
  rfl

theorem Discards.unitsBeside {s t : State} (h : Discards s t) : t.unitsBeside = s.unitsBeside := by
  obtain ⟨port, hsame⟩ := h.beside
  exact (congrArg State.unitsBeside hsame.same :)

theorem Discards.store {s t : State} (h : Discards s t) : t.store = s.store := by
  obtain ⟨port, hsame⟩ := h.beside
  exact hsame.store

/-! ### The source-set change of a RUNNING context -/

/-- What a source-set change that fails no fragment leaves of the window of `c`, over cells `store`: contributions unread, cells zeroed. -/
structure Ctx.unreadTo (c c' : Ctx) (store store' : Table (List Byte)) : Prop where
  entries : ∀ seg p, c.holding seg = some p → ∃ p', c'.holding seg = some p' ∧ p'.state = p.state ∧
    ∀ g, (∀ en, p.row.get g = some en → en.state ≠ .inflight) → p'.row.get g = (p.row.get g).map p.unread
  zeroed : ∀ seg p, c.holding seg = some p → p.state = .opened → ∀ n ∈ c.cellsOf seg, cellBytesOf store' n = List.replicate 4096 0
  rest : ∀ n, (∀ seg p, c.holding seg = some p → p.state = .opened → n ∉ c.cellsOf seg) → cellBytesOf store' n = cellBytesOf store n

theorem resetPositions_holding {c : Ctx} {seg : Nat} {p : Position} (h : c.holding seg = some p) :
    c.resetPositions.holding seg = some p.reset := by
  obtain ⟨hget, hseg⟩ := holding_iff.mp h
  refine holding_iff.mpr ⟨?_, (reset_seg p).trans hseg⟩
  show (c.slots.mapValues Position.reset).get (seg % c.geo.width) = _
  rw [Table.get_mapValues, hget]
  rfl

/-- Discards and then the reset of the contributions, at a seated window. -/
theorem unreadTo_of_discardedTo {c d : Ctx} (h : c.discardedTo d) (hs : c.seated) (store : Table (List Byte)) :
    c.unreadTo d.resetPositions store (zeroCells store (d.openSegs.flatMap d.cellsOf)) := by
  obtain ⟨hzeroed, hother⟩ := cellBytesOf_zeroed (c := d) store
  have hcells : ∀ seg, d.cellsOf seg = c.cellsOf seg := spine_cellsOf (bones_spine h.bones)
  refine ⟨fun seg p hp => ?_, fun seg p hp hopen n hn => ?_, fun n hn => ?_⟩
  · obtain ⟨p', hp', hstate, hrow⟩ := h.kept seg p hp
    refine ⟨p'.reset, resetPositions_holding hp', (reset_state p').trans hstate, fun g hg => ?_⟩
    have hunread : p'.unread = p.unread := funext fun en => by rw [Position.unread, hstate]; rfl
    rw [reset_row_get, hrow g hg, hunread]
  · obtain ⟨p', hp', hstate, -⟩ := h.kept seg p hp
    exact hzeroed seg p' hp' (hstate.trans hopen) n (by rw [hcells]; exact hn)
  · refine hother (h.seated hs) n (fun seg p' hp' hopen => ?_)
    cases hp : c.holding seg with
    | none => rw [h.none seg hp] at hp'; cases hp'
    | some p =>
      obtain ⟨q, hq, hstate, -⟩ := h.kept seg p hp
      obtain rfl := Option.some.inj (hq.symm.trans hp')
      rw [hcells]
      exact hn seg p hp (hstate.symm.trans hopen)

/-- The context with one substitution counted (R113). -/
def Ctx.substituted (c : Ctx) : Ctx :=
  { c with counters := { c.counters with substitutions := min 65535 (c.counters.substitutions + 1) } }

/-- The context back in SOLVING, its timer stopped. -/
def Ctx.solvingAgain (c : Ctx) : Ctx := { c with state := .solving, timerRuns := false }

@[simp] theorem joinSolve_unitsBeside (s : State) (i : Nat) : (s.joinSolve i).unitsBeside = s.unitsBeside := rfl

/-- The source-set change of a RUNNING context that fails no fragment, before the units go on. -/
theorem changeSources_running {s : State} {i : Nat} {c : Ctx} (hc : s.ctxs.get i = some c) (hrunning : c.state = .running) (hs : c.seated) :
    ∃ c', (s.changeSources i none).ctxs.get i = some c' ∧ c.unreadTo c' s.store (s.changeSources i none).store ∧
      c'.bones = c.bones.substituted.solvingAgain ∧ (s.changeSources i none).unitsBeside = s.unitsBeside := by
  have hcounted : (s.countSubstitution i).ctxs.get i = some c.substituted := by
    rw [State.countSubstitution, modCtx_get_same, hc]
    rfl
  have hmarked := markStale_discards (s.countSubstitution i) i
  obtain ⟨d, hd, hto⟩ := hmarked.ctx i _ hcounted
  have hcleared := resetContributions_eq hd
  have hstore : ((s.countSubstitution i).markStale i).store = s.store := hmarked.store.trans (modCtx_store s i _)
  have hunits : ((s.countSubstitution i).markStale i).unitsBeside = s.unitsBeside := hmarked.unitsBeside.trans (modCtx_unitsBeside s i _)
  have heq : s.changeSources i none = State.oweProgress (State.joinSolve
      ((((s.countSubstitution i).markStale i).resetContributions i).modCtx i Ctx.solvingAgain) i) i := by
    simp only [State.changeSources, hc, hrunning]
    rfl
  rw [heq]
  refine ⟨d.resetPositions.solvingAgain, ?_, ?_, ?_, ?_⟩
  · rw [oweProgress_ctxs, joinSolve_ctxs, modCtx_get_same, hcleared]
    exact congrArg (Option.map Ctx.solvingAgain) (Table.get_set_same _ _ _)
  · have hread := unreadTo_of_discardedTo hto hs s.store
    have hlast : (State.oweProgress (State.joinSolve
        ((((s.countSubstitution i).markStale i).resetContributions i).modCtx i Ctx.solvingAgain) i) i).store =
        zeroCells s.store (d.openSegs.flatMap d.cellsOf) := by
      rw [oweProgress_store, joinSolve_store, modCtx_store, hcleared, hstore]
    rw [hlast]
    exact ⟨hread.entries, hread.zeroed, hread.rest⟩
  · have hbones : d.bones = c.substituted.bones := hto.bones
    show d.bones.solvingAgain = _
    rw [hbones]
    rfl
  · rw [oweProgress_unitsBeside, joinSolve_unitsBeside, modCtx_unitsBeside, hcleared]
    exact hunits

end Sys2Proof.Machine
end


section
/-! PROOFS. What a stall expiry brings: the count, the swap, the end (R117 to R119), and how its event ends. -/

namespace Sys2Proof.Machine

/-! ### Roles exchanged -/

/-- The context after a role update (R25, R26). -/
def Ctx.withRoles (changes : List (Nat × Role)) (c : Ctx) : Ctx :=
  let c := { c with roles := setRoles changes c.roles }
  { c with exposed := c.noSpare }

theorem roleUpdate_eq (s : State) (i : Nat) (changes : List (Nat × Role)) :
    s.roleUpdate i changes = (s.modCtx i (Ctx.withRoles changes)).oweProgress i := rfl

/-- The context with source `f` and spare `g` exchanged. -/
def Ctx.swapped (c : Ctx) (f g : Nat) : Ctx := c.withRoles [(f, .spare), (g, .source)]

theorem swapped_role (c : Ctx) (f g h : Nat) : (c.swapped f g).role h = if h = g then .source else if h = f then .spare else c.role h := by
  show (((c.roles.set f .spare).set g .source).get h).getD .absent = _
  rw [Table.get_set, Table.get_set]
  split
  · rfl
  · split <;> rfl

theorem swapped_targets {c : Ctx} {f g : Nat} (hf : c.role f = .source) (hg : c.role g = .spare) : (c.swapped f g).targets = c.targets := by
  rw [Ctx.targets, Ctx.targets, Ctx.fragmentsIn, Ctx.fragmentsIn]
  refine List.filter_congr (fun h _ => ?_)
  rw [swapped_role]
  split
  · next heq => rw [heq, hg]; rfl
  · split
    · next heq => rw [heq, hf]; rfl
    · rfl

theorem swapped_cellsOf {c : Ctx} {f g : Nat} (hf : c.role f = .source) (hg : c.role g = .spare) (seg : Nat) :
    (c.swapped f g).cellsOf seg = c.cellsOf seg := by
  have hcount : (c.swapped f g).targetCount = c.targetCount := by rw [Ctx.targetCount, swapped_targets hf hg]; rfl
  have hcell : (c.swapped f g).cellOf seg = c.cellOf seg := by
    funext n
    rw [Ctx.cellOf, hcount]
    rfl
  rw [Ctx.cellsOf, hcount, hcell]
  rfl

/-! ### The swap -/

/-- The bones of a context once source `f` and spare `g` have been exchanged and it solves again. -/
def Ctx.swappedBones (c : Ctx) (f g : Nat) : Ctx := (c.swapped f g).bones.substituted.solvingAgain

theorem takeSwap_pair {s : State} {i f g : Nat} {c : Ctx} (hc : s.ctxs.get i = some c) (hrunning : c.state = .running) (hs : c.seated)
    (hpair : c.swaps f g) : ∃ c', (s.takeSwap i).ctxs.get i = some c' ∧ c.unreadTo c' s.store (s.takeSwap i).store ∧
      c'.bones = c.swappedBones f g ∧ (s.takeSwap i).unitsBeside = s.unitsBeside := by
  obtain ⟨hf, hg⟩ := swaps_roles hpair
  have hroles : (s.roleUpdate i [(f, .spare), (g, .source)]).ctxs.get i = some (c.swapped f g) := by
    rw [roleUpdate_eq, oweProgress_ctxs, modCtx_get_same, hc]
    rfl
  obtain ⟨c', hc', hunread, hbones, hunits⟩ := changeSources_running hroles hrunning hs
  have hstate : c'.state = .solving := (congrArg Ctx.state hbones :)
  have hswap : s.stallSwap i = (s.roleUpdate i [(f, .spare), (g, .source)]).changeSources i none := by
    simp only [State.stallSwap, hc, hrunning, (swapPair_iff hs).mpr hpair]
    rfl
  have hstore : (s.roleUpdate i [(f, .spare), (g, .source)]).store = s.store := by
    rw [roleUpdate_eq, oweProgress_store, modCtx_store]
  rw [hstore] at hunread
  rw [roleUpdate_eq, oweProgress_unitsBeside, modCtx_unitsBeside, ← roleUpdate_eq] at hunits
  rw [State.takeSwap, hswap]
  refine ⟨c', ?_, ?_, hbones, ?_⟩
  · rw [State.restartIfRunning, modCtx_get_same, hc', Option.map_some, if_neg (by rw [hstate]; decide)]
  · rw [State.restartIfRunning, modCtx_store]
    refine ⟨hunread.entries, fun seg p hp hopen n hn => ?_, fun n hn => hunread.rest n (fun seg p hp hopen => ?_)⟩
    · exact hunread.zeroed seg p hp hopen n (by rw [swapped_cellsOf hf hg]; exact hn)
    · rw [swapped_cellsOf hf hg]
      exact hn seg p hp hopen
  · rw [State.restartIfRunning, modCtx_unitsBeside]
    exact hunits

/-- With no pair to exchange, the timer restarts. -/
theorem takeSwap_none {s : State} {i : Nat} {c : Ctx} (hc : s.ctxs.get i = some c) (hrunning : c.state = .running)
    (hnone : c.swapPair = none) : (s.takeSwap i).ctxs.get i = some c.restartTimer ∧ (s.takeSwap i).unitsBeside = s.unitsBeside := by
  have hswap : s.stallSwap i = s := by simp [State.stallSwap, hc, hnone]
  rw [State.takeSwap, hswap, State.restartIfRunning]
  exact ⟨by rw [modCtx_get_same, hc, Option.map_some, if_pos hrunning], modCtx_unitsBeside s i _⟩

/-! ### The end -/

/-- The context that a stall has ended. -/
def Ctx.timedOut (c : Ctx) : Ctx := { c with state := .draining, outcome := some .timedOut, teardown := .draining, timerRuns := false }

theorem takeTimeOut_running {s : State} {i : Nat} {c : Ctx} (hc : s.ctxs.get i = some c) (hrunning : c.state = .running) :
    ∃ c', (s.takeTimeOut i).ctxs.get i = some c' ∧ c'.bones = c.bones.timedOut ∧
      ∃ ctl emit queue combining combineQueue held, s.unitsBeside = (ctl, emit, queue, combining, combineQueue, held) ∧
        (s.takeTimeOut i).unitsBeside = (ctl, emit, queue.filter (fun q => q.1 ≠ i), combining, combineQueue, held) := by
  obtain ⟨u, hu⟩ : ∃ u, u = (s.modCtx i Ctx.timedOut).oweProgress i := ⟨_, rfl⟩
  have hmarked := markStale_discards u i
  have hended : u.ctxs.get i = some c.timedOut := by rw [hu, oweProgress_ctxs, modCtx_get_same, hc]; rfl
  obtain ⟨d, hd, hto⟩ := hmarked.ctx i _ hended
  have hunits : (u.markStale i).unitsBeside = s.unitsBeside := by
    rw [hmarked.unitsBeside, hu, oweProgress_unitsBeside, modCtx_unitsBeside]
  have heq : s.takeTimeOut i = { (u.markStale i).leaveSolver i with
      emitQueue := (u.markStale i).emitQueue.filter (fun q => q.1 ≠ i) } := by
    simp only [State.takeTimeOut, State.endRequest, hc, hrunning, State.enterDraining, hu]
    rfl
  refine ⟨d, by rw [heq]; exact hd, hto.bones, _, _, _, _, _, _, hunits.symm, ?_⟩
  rw [heq]
  rfl

/-! ### How the event ends -/

/-- Once an event at context `i` has ended: its bones stand, and at its positions no more has changed than that a FULL one may be emitted. -/
structure EventEnd (u t : State) (i : Nat) (c c' : Ctx) : Prop where
  ctx : t.ctxs.get i = some c'
  bones : c'.bones = c.bones
  positions : ∀ seg p, c.holding seg = some p → ∃ p', c'.holding seg = some p' ∧ p'.row = p.row ∧
    (p'.state = p.state ∨ (p.state = .full ∧ p'.state = .emitting))
  held : t.held = u.held
  attention : t.ctl.attention = u.ctl.attention
  store : t.store = u.store

theorem EventEnd.of_same {u t : State} {i : Nat} {c : Ctx} (hc : t.ctxs.get i = some c) (hheld : t.held = u.held) (hctl : t.ctl = u.ctl)
    (hstore : t.store = u.store) : EventEnd u t i c c :=
  ⟨hc, rfl, fun _ p hp => ⟨p, hp, rfl, .inl rfl⟩, hheld, by rw [hctl], hstore⟩

theorem takeCombine_apart (s : State) : ∃ queue work port, s.takeCombine = { s with combineQueue := queue, combining := work, port := port } := by
  unfold State.takeCombine
  split
  · split <;> exact ⟨_, _, _, rfl⟩
  · exact ⟨_, _, _, rfl⟩

/-- The Emit Unit takes no position but a FULL one. -/
def State.emitsFull (u : State) (i : Nat) (c : Ctx) : Prop :=
  u.emit = none → ∀ seg p, (i, seg) ∈ u.emitQueue → c.holding seg = some p → p.state = .full

@[simp] theorem takeEmit_ready (s : State) : s.takeEmit.ready = s.ready := by
  unfold State.takeEmit
  repeat' split
  all_goals rfl

theorem takeEmit_eventEnd {u : State} {i : Nat} {c : Ctx} (hc : u.ctxs.get i = some c) (hfull : u.emitsFull i c) :
    ∃ c', EventEnd u u.takeEmit i c c' := by
  unfold State.takeEmit
  split
  · next j seg rest hidle hqueue =>
    split
    · exact ⟨c, .of_same hc rfl rfl rfl⟩
    · next d hd =>
      split
      · exact ⟨c, .of_same hc rfl rfl rfl⟩
      · next p hp =>
        by_cases hj : i = j
        · subst hj
          obtain rfl := Option.some.inj (hc.symm.trans hd)
          have hseg : p.seg = seg := holding_seg hp
          refine ⟨_, Table.get_set_same _ _ _, rfl, fun seg' q hq => ?_, rfl, rfl, rfl⟩
          by_cases hsame : seg' = seg
          · subst hsame
            obtain rfl := Option.some.inj (hp.symm.trans hq)
            exact ⟨_, holding_putPosition_same c hseg, rfl, .inr ⟨hfull hidle seg' p (by rw [hqueue]; simp) hp, rfl⟩⟩
          · exact ⟨q, by rw [holding_putPosition_other (q := { p with state := .emitting }) hp hseg hsame, hq], rfl, .inl rfl⟩
        · exact ⟨c, .of_same ((Table.get_set_other _ hj _).trans hc) rfl rfl rfl⟩
  · exact ⟨c, .of_same hc rfl rfl rfl⟩

theorem Placing.attention {s t : State} (h : Placing s t) : t.ctl.attention = s.ctl.attention :=
  (congrArg (fun x : State => x.ctl.attention) h.steady :)

theorem Placing.held {s t : State} (h : Placing s t) : t.held = s.held := (congrArg State.held h.steady :)

theorem settle_eventEnd {u : State} {i : Nat} {c : Ctx} (hc : u.ctxs.get i = some c) (hh : u.holds i) (hfull : u.emitsFull i c) :
    ∃ c', EventEnd u u.settle i c c' := by
  obtain ⟨queue, work, hsolve⟩ := startSolve_apart u
  obtain ⟨queue', work', port, hcombine⟩ := takeCombine_apart u.startSolve
  obtain ⟨v, hv⟩ : ∃ v, v = u.startSolve.takeCombine := ⟨_, rfl⟩
  have hv' := hv.trans hcombine
  rw [hsolve] at hv'
  obtain ⟨d, hd⟩ := takeEmit_eventEnd (u := v) (i := i) (by rw [hv']; exact hc) (by rw [hv']; exact hfull)
  have hplacing := offerReady_placing v.takeEmit
  obtain ⟨c', hc', hbones, hslots, -, -⟩ := hplacing.ctx_bones hd.ctx
    ⟨by rw [hd.ctx]; rfl, by rw [State.readyOf, takeEmit_ready, hv']; exact hh.2⟩
  have hheld := holding_of_slots hslots (congrArg Ctx.geo hbones :)
  rw [State.settle, ← hv]
  refine ⟨c', hc', hbones.trans hd.bones, fun seg p hp => ?_, ?_, ?_, ?_⟩
  · rw [hheld]
    exact hd.positions seg p hp
  · rw [hplacing.held, hd.held, hv']
  · rw [hplacing.attention, hd.attention, hv']
  · rw [hplacing.store, hd.store, hv']

end Sys2Proof.Machine
end


section
/-! PROOFS. A stall expiry taken while nothing else waits (R114, R117 to R120). -/

namespace Sys2Proof.Machine

/-! ### The expiry counted -/

/-- The context with one expiry more (R117, R118). -/
def Ctx.oneExpiry (c : Ctx) : Ctx :=
  { c with counters := { c.counters with stallExpiries := min 65535 (c.counters.stallExpiries + 1) }, expiries := c.expiries + 1 }

/-- The context with one expiry counted, and STALLED set (R117). -/
def Ctx.expiryCounted (c : Ctx) : Ctx := { c.oneExpiry with stalled := true }

theorem setStalled_ctx {s : State} {i : Nat} {c : Ctx} (hc : s.ctxs.get i = some c) :
    (s.setStalled i).ctxs.get i = some { c with stalled := true } := by
  simp only [State.setStalled, hc]
  split
  · next h => rw [hc, ← h]
  · rw [oweProgress_ctxs, modCtx_get_same, hc]
    rfl

theorem setStalled_unitsBeside (s : State) (i : Nat) : (s.setStalled i).unitsBeside = s.unitsBeside := by
  unfold State.setStalled
  split
  · rfl
  · split
    · rfl
    · rw [oweProgress_unitsBeside, modCtx_unitsBeside]

theorem setStalled_store (s : State) (i : Nat) : (s.setStalled i).store = s.store := by
  unfold State.setStalled
  split
  · rfl
  · split
    · rfl
    · rw [oweProgress_store, modCtx_store]

/-- Once an expiry has been counted: attention is raised, and the units stand as they did. -/
structure ExpiryCounted (s t : State) (i : Nat) (c : Ctx) : Prop where
  ctx : t.ctxs.get i = some c.expiryCounted
  attention : t.ctl.attention = true
  units : t.unitsBeside = (t.ctl, s.emit, s.emitQueue, s.combining, s.combineQueue, s.held)
  store : t.store = s.store

theorem cause_attention (c : Control) : c.cause.attention = true := by
  unfold Control.cause
  split
  · next h => exact h
  · rfl

theorem countExpiry_counted {s : State} {i : Nat} {c : Ctx} (hc : s.ctxs.get i = some c) : ExpiryCounted s (s.countExpiry i) i c := by
  obtain ⟨u, hu⟩ : ∃ u, u = s.modCtx i Ctx.oneExpiry := ⟨_, rfl⟩
  have heq : s.countExpiry i = (u.setStalled i).cause := by rw [hu]; rfl
  have hunits : (u.setStalled i).unitsBeside = s.unitsBeside := by rw [setStalled_unitsBeside, hu, modCtx_unitsBeside]
  rw [heq]
  refine ⟨?_, cause_attention _, ?_, ?_⟩
  · have hcounted : u.ctxs.get i = some c.oneExpiry := by rw [hu, modCtx_get_same, hc]; rfl
    exact setStalled_ctx hcounted
  · show (_, (u.setStalled i).unitsBeside.2) = _
    rw [hunits]
    rfl
  · show (u.setStalled i).store = _
    rw [setStalled_store, hu, modCtx_store]

/-! ### What is held -/

theorem holdExpiry_ctx {s : State} {i : Nat} {c : Ctx} (hc : s.ctxs.get i = some c) (h : Held) :
    (s.holdExpiry i h).ctxs.get i = some { c with timerRuns := false } := by
  show (s.modCtx i _).ctxs.get i = _
  rw [modCtx_get_same, hc]
  rfl

theorem holdExpiry_units {s : State} {ctl : Control} {emit : Option Emit} {queue : List (Nat × Nat)} {work : Option Combining}
    {line : List Nat} {held : List Held} (hs : s.unitsBeside = (ctl, emit, queue, work, line, held)) (i : Nat) (h : Held) :
    (s.holdExpiry i h).unitsBeside = (ctl, emit, queue, work, line, held ++ [h]) := by
  have hmod : (s.modCtx i (fun c => { c with timerRuns := false })).unitsBeside = s.unitsBeside := modCtx_unitsBeside s i _
  rw [hs] at hmod
  simp only [State.unitsBeside, Prod.mk.injEq] at hmod ⊢
  obtain ⟨h1, h2, h3, h4, h5, h6⟩ := hmod
  exact ⟨h1, h2, h3, h4, h5, congrArg (· ++ [h]) h6⟩

/-! ### When the expiry happens -/

theorem expired_iff (c : Ctx) : c.expired = true ↔
    c.state = .running ∧ c.timerRuns = true ∧ c.geo.stallLimit ≠ 0 ∧ c.geo.stallLimit ≤ c.elapsed := by
  simp [Ctx.expired, and_assoc]

theorem changeHeld_iff {s : State} {i : Nat} {c : Ctx} : s.changeHeld i c = true ↔
    .dispatch ∈ s.held ∧ recContext s.walker.buffer = i ∧ (recKind s.walker.buffer = 5 ∨
      (recKind s.walker.buffer = 4 ∧ c.role (recFragment s.walker.buffer) = .source)) := by
  simp [State.changeHeld, and_assoc]

theorem exec_stallExpiry_idle {s : State} {i : Fin 64} {c : Ctx} (hc : s.ctxs.get i = some c)
    (h : c.expired = false ∨ s.changeHeld i c = true) : exec (.stallExpiry i) s = .next s := by
  have hnot : (c.expired && !s.changeHeld i c) = false := by
    rcases h with h | h <;> simp [h]
  show execStallExpiry i s = _
  simp [execStallExpiry, hc, hnot]

theorem exec_stallExpiry_due {s : State} {i : Fin 64} {c : Ctx} (hc : s.ctxs.get i = some c) (hexpired : c.expired = true)
    (hfirst : s.changeHeld i c = false) : exec (.stallExpiry i) s = .next (s.takeExpiry i c).settle := by
  show execStallExpiry i s = _
  simp [execStallExpiry, hc, hexpired, hfirst]

/-! ### The expiry's event -/

/-- What an expiry that brings nothing more, or whose effect is held, leaves of its context and of the units. -/
structure ExpiryTaken (s u : State) (i : Nat) (d : Ctx) (held : List Held) : Prop where
  ctx : u.ctxs.get i = some d
  attention : u.ctl.attention = true
  held : u.held = held
  idle : u.emit = none → u.emitQueue = []

/-- Read off what the units beside the window are doing. -/
theorem ExpiryTaken.of_units {s u : State} {i : Nat} {d : Ctx} {ctl : Control} {queue : List (Nat × Nat)} {work : Option Combining}
    {line : List Nat} {held : List Held} (hcalm : Calm s) (hctx : u.ctxs.get i = some d) (hattention : ctl.attention = true)
    (hunits : u.unitsBeside = (ctl, s.emit, queue, work, line, held)) (hqueue : s.emitQueue = [] → queue = []) :
    ExpiryTaken s u i d held := by
  simp only [State.unitsBeside, Prod.mk.injEq] at hunits
  obtain ⟨h1, h2, h3, -, -, h6⟩ := hunits
  exact ⟨hctx, by rw [h1]; exact hattention, h6, fun h => by rw [h3]; exact hqueue (hcalm.emits (h2 ▸ h))⟩

theorem ExpiryTaken.settled {s u : State} {i : Nat} {c d : Ctx} {held : List Held} (h : ExpiryTaken s u i d held) (hcalm : Calm s)
    (hc : s.ctxs.get i = some c) (hu : s.takeExpiry i c = u) : ∃ c', EventEnd u u.settle i d c' := by
  have hholds : u.holds i := by
    rw [← hu]
    exact (takeExpiry_frame anyRole_rel s i c ⟨trivial, trivial⟩).stays i (holds_calm s hcalm i c hc)
  refine settle_eventEnd h.ctx hholds (fun hidle seg p hmem _ => ?_)
  rw [h.idle hidle] at hmem
  cases hmem

section Taken

variable {s : State} {i : Nat} {c : Ctx} (hcalm : Calm s) (hc : s.ctxs.get i = some c)
include hcalm hc

theorem takeExpiry_timeOut_held (hmany : 3 ≤ c.expiries) (hjudging : s.judging i = true) :
    ExpiryTaken s (s.takeExpiry i c) i { c.expiryCounted with timerRuns := false } (s.held ++ [.timeOut i]) := by
  have hcount := countExpiry_counted hc
  have heq : s.takeExpiry i c = (s.countExpiry i).holdExpiry i (.timeOut i) := by
    rw [State.takeExpiry, if_pos (by omega), if_pos hjudging]
  rw [heq]
  exact .of_units hcalm (holdExpiry_ctx hcount.ctx _) hcount.attention (holdExpiry_units hcount.units i _) id

theorem takeExpiry_timeOut (hrunning : c.state = .running) (hmany : 3 ≤ c.expiries) (hjudging : s.judging i = false) :
    ∃ d, ExpiryTaken s (s.takeExpiry i c) i d s.held ∧ d.bones = c.expiryCounted.bones.timedOut := by
  have hcount := countExpiry_counted hc
  have heq : s.takeExpiry i c = (s.countExpiry i).takeTimeOut i := by
    rw [State.takeExpiry, if_pos (by omega), if_neg (by rw [hjudging]; decide)]
  obtain ⟨d, hd, hbones, ctl, emit, queue, work, line, held, hbefore, hafter⟩ := takeTimeOut_running hcount.ctx hrunning
  rw [hcount.units] at hbefore
  obtain ⟨rfl, rfl, rfl, rfl, rfl, rfl⟩ := by simpa only [Prod.mk.injEq] using hbefore
  rw [heq]
  exact ⟨d, .of_units hcalm hd hcount.attention hafter (fun h => by rw [h]; rfl), hbones⟩

theorem takeExpiry_swap_held {f g : Nat} (hs : c.seated) (hfew : c.expiries < 3) (hpair : c.swaps f g) (hjudging : s.judging i = true) :
    ExpiryTaken s (s.takeExpiry i c) i { c.expiryCounted with timerRuns := false } (s.held ++ [.swap i]) := by
  have hcount := countExpiry_counted hc
  have heq : s.takeExpiry i c = (s.countExpiry i).holdExpiry i (.swap i) := by
    rw [State.takeExpiry, if_neg (by omega), if_pos ⟨by rw [(swapPair_iff hs).mpr hpair]; rfl, hjudging⟩]
  rw [heq]
  exact .of_units hcalm (holdExpiry_ctx hcount.ctx _) hcount.attention (holdExpiry_units hcount.units i _) id

theorem takeExpiry_swap {f g : Nat} (hrunning : c.state = .running) (hs : c.seated) (hfew : c.expiries < 3) (hpair : c.swaps f g)
    (hjudging : s.judging i = false) : ∃ d, ExpiryTaken s (s.takeExpiry i c) i d s.held ∧
      d.bones = c.expiryCounted.swappedBones f g ∧ c.unreadTo d s.store (s.takeExpiry i c).store := by
  have hcount := countExpiry_counted hc
  have heq : s.takeExpiry i c = (s.countExpiry i).takeSwap i := by
    rw [State.takeExpiry, if_neg (by omega), if_neg (fun h => by rw [hjudging] at h; cases h.2)]
  obtain ⟨d, hd, hunread, hbones, hunits⟩ := takeSwap_pair (f := f) (g := g) hcount.ctx hrunning hs hpair
  rw [hcount.units] at hunits
  rw [hcount.store] at hunread
  rw [heq]
  exact ⟨d, .of_units hcalm hd hcount.attention hunits id, hbones, hunread.entries, hunread.zeroed, hunread.rest⟩

theorem takeExpiry_restart (hrunning : c.state = .running) (hs : c.seated) (hfew : c.expiries < 3) (hnone : ∀ f g, ¬ c.swaps f g) :
    ExpiryTaken s (s.takeExpiry i c) i c.expiryCounted.restartTimer s.held := by
  have hcount := countExpiry_counted hc
  have hpair : c.swapPair = none := (swapPair_none_iff hs).mpr hnone
  have heq : s.takeExpiry i c = (s.countExpiry i).takeSwap i := by
    rw [State.takeExpiry, if_neg (by omega), if_neg (fun h => by rw [hpair] at h; cases h.1)]
  obtain ⟨hd, hunits⟩ := takeSwap_none hcount.ctx hrunning hpair
  rw [hcount.units] at hunits
  rw [heq]
  exact .of_units hcalm hd hcount.attention hunits id

end Taken

end Sys2Proof.Machine
end


section
/-! PROOFS. STALL_EXPIRY, taken at once (R117 to R119). -/

namespace Sys2Proof.Machine

theorem sourcesChanged_of_unreadTo {u t : State} {i : Nat} {c d c' : Ctx} {store : Table (List Byte)} (h : c.unreadTo d store u.store)
    (hend : EventEnd u t i d c') : t.sourcesChanged c c' store none := by
  refine ⟨fun seg p hp => ?_, fun n hn => by rw [hend.store]; exact h.rest n hn⟩
  obtain ⟨q, hq, hstate, hrow⟩ := h.entries seg p hp
  obtain ⟨p', hp', hrow', hstate'⟩ := hend.positions seg q hq
  rw [hstate] at hstate'
  refine ⟨p', hp', hstate', fun g _ hg => by rw [hrow', hrow g hg], fun hopen n hn => ?_⟩
  rw [hend.store]
  exact h.zeroed seg p hp hopen n hn

/-- What holds of the context after any expiry: its geometry, and the expiry counted. -/
structure Ctx.expiredTo (c c' : Ctx) : Prop where
  geo : c'.geo = c.geo
  stalled : c'.stalled = true
  expiries : c'.expiries = c.expiries + 1
  counted : c'.counters.stallExpiries = min 65535 (c.counters.stallExpiries + 1)

/-- What `Obligations.StallExpiry` says of an expiry that is due, taken in a calm state. -/
def State.expiryEnds (s t : State) (i : Nat) (c c' : Ctx) : Prop :=
  (3 ≤ c.expiries → c'.roles = c.roles ∧ c'.timerRuns = false ∧
    if s.judging i then c'.state = .running ∧ t.held = s.held ++ [.timeOut i]
    else c'.state = .draining ∧ c'.outcome = some .timedOut ∧ t.held = s.held) ∧
  (c.expiries < 3 → (∀ f g, ¬ c.swaps f g) →
    c'.state = .running ∧ c'.roles = c.roles ∧ c'.elapsed = 0 ∧ c'.timerRuns = true ∧ t.held = s.held) ∧
  (∀ f g, c.expiries < 3 → c.swaps f g → c'.timerRuns = false ∧
    if s.judging i then c'.state = .running ∧ c'.roles = c.roles ∧ t.held = s.held ++ [.swap i]
    else
      c'.state = .solving ∧ c'.role f = .spare ∧ c'.role g = .source ∧
      (∀ h, h ≠ f → h ≠ g → c'.role h = c.role h) ∧ t.held = s.held ∧ t.sourcesChanged c c' s.store none ∧
      c'.counters.substitutions = min 65535 (c.counters.substitutions + 1))

theorem swaps_unique {c : Ctx} (hs : c.seated) {f g f' g' : Nat} (h : c.swaps f g) (h' : c.swaps f' g') : f' = f ∧ g' = g := by
  have heq := ((swapPair_iff hs).mpr h').symm.trans ((swapPair_iff hs).mpr h)
  exact Prod.mk.inj (Option.some.inj heq)

/-- Fields of a context that keeps the bones of `d`. -/
theorem expiredTo_of_bones {c c' d : Ctx} (h : c'.bones = d.bones) (hd : c.expiredTo d) : c.expiredTo c' :=
  ⟨(congrArg Ctx.geo h :).trans hd.geo, (congrArg Ctx.stalled h :).trans hd.stalled, (congrArg Ctx.expiries h :).trans hd.expiries,
    (congrArg (fun x : Ctx => x.counters.stallExpiries) h :).trans hd.counted⟩

section Ends

variable {s : State} {i : Nat} {c : Ctx} (hcalm : Calm s) (hc : s.ctxs.get i = some c) (hrunning : c.state = .running)
include hcalm hc hrunning

theorem expiryEnds_timeOut (hmany : 3 ≤ c.expiries) : ∃ c', (s.takeExpiry i c).settle.ctxs.get i = some c' ∧
    (s.takeExpiry i c).settle.ctl.attention = true ∧ c.expiredTo c' ∧ s.expiryEnds (s.takeExpiry i c).settle i c c' := by
  cases hjudging : s.judging i with
  | true =>
    have htaken := takeExpiry_timeOut_held hcalm hc hmany hjudging
    obtain ⟨c', hend⟩ := htaken.settled hcalm hc rfl
    refine ⟨c', hend.ctx, hend.attention.trans htaken.attention, expiredTo_of_bones hend.bones ⟨rfl, rfl, rfl, rfl⟩, fun _ => ?_,
      fun hfew => absurd hmany (by omega), fun _ _ hfew => absurd hmany (by omega)⟩
    rw [if_pos hjudging]
    exact ⟨(congrArg Ctx.roles hend.bones :), (congrArg Ctx.timerRuns hend.bones :), (congrArg Ctx.state hend.bones :).trans hrunning,
      hend.held.trans htaken.held⟩
  | false =>
    obtain ⟨d, htaken, hended⟩ := takeExpiry_timeOut hcalm hc hrunning hmany hjudging
    obtain ⟨c', hend⟩ := htaken.settled hcalm hc rfl
    have hbones := hend.bones.trans hended
    refine ⟨c', hend.ctx, hend.attention.trans htaken.attention, expiredTo_of_bones (d := c.expiryCounted.timedOut) hbones ⟨rfl, rfl, rfl, rfl⟩,
      fun _ => ?_, fun hfew => absurd hmany (by omega), fun _ _ hfew => absurd hmany (by omega)⟩
    rw [if_neg (by rw [hjudging]; decide)]
    exact ⟨(congrArg Ctx.roles hbones :), (congrArg Ctx.timerRuns hbones :), (congrArg Ctx.state hbones :),
      (congrArg Ctx.outcome hbones :), hend.held.trans htaken.held⟩

theorem expiryEnds_restart (hs : c.seated) (hlimit : c.geo.stallLimit ≠ 0) (hfew : c.expiries < 3) (hnone : ∀ f g, ¬ c.swaps f g) :
    ∃ c', (s.takeExpiry i c).settle.ctxs.get i = some c' ∧ (s.takeExpiry i c).settle.ctl.attention = true ∧ c.expiredTo c' ∧
      s.expiryEnds (s.takeExpiry i c).settle i c c' := by
  have htaken := takeExpiry_restart hcalm hc hrunning hs hfew hnone
  obtain ⟨c', hend⟩ := htaken.settled hcalm hc rfl
  refine ⟨c', hend.ctx, hend.attention.trans htaken.attention, expiredTo_of_bones hend.bones ⟨rfl, rfl, rfl, rfl⟩,
    fun hmany => absurd hmany (by omega), fun _ _ => ?_, fun f g _ hpair => absurd hpair (hnone f g)⟩
  have hruns : c'.timerRuns = (c.geo.stallLimit != 0) := (congrArg Ctx.timerRuns hend.bones :)
  exact ⟨(congrArg Ctx.state hend.bones :).trans hrunning, (congrArg Ctx.roles hend.bones :), (congrArg Ctx.elapsed hend.bones :),
    hruns.trans (by simpa using hlimit), hend.held.trans htaken.held⟩

theorem expiryEnds_swap {f g : Nat} (hs : c.seated) (hfew : c.expiries < 3) (hpair : c.swaps f g) :
    ∃ c', (s.takeExpiry i c).settle.ctxs.get i = some c' ∧ (s.takeExpiry i c).settle.ctl.attention = true ∧ c.expiredTo c' ∧
      s.expiryEnds (s.takeExpiry i c).settle i c c' := by
  cases hjudging : s.judging i with
  | true =>
    have htaken := takeExpiry_swap_held hcalm hc hs hfew hpair hjudging
    obtain ⟨c', hend⟩ := htaken.settled hcalm hc rfl
    refine ⟨c', hend.ctx, hend.attention.trans htaken.attention, expiredTo_of_bones hend.bones ⟨rfl, rfl, rfl, rfl⟩,
      fun hmany => absurd hmany (by omega), fun _ hnone => absurd hpair (hnone f g), fun f' g' _ _ => ?_⟩
    rw [if_pos hjudging]
    exact ⟨(congrArg Ctx.timerRuns hend.bones :), (congrArg Ctx.state hend.bones :).trans hrunning, (congrArg Ctx.roles hend.bones :),
      hend.held.trans htaken.held⟩
  | false =>
    obtain ⟨d, htaken, hswapped, hunread⟩ := takeExpiry_swap hcalm hc hrunning hs hfew hpair hjudging
    obtain ⟨c', hend⟩ := htaken.settled hcalm hc rfl
    have hbones := hend.bones.trans hswapped
    refine ⟨c', hend.ctx, hend.attention.trans htaken.attention,
      expiredTo_of_bones (d := (c.expiryCounted.swapped f g).substituted.solvingAgain) hbones ⟨rfl, rfl, rfl, rfl⟩,
      fun hmany => absurd hmany (by omega), fun _ hnone => absurd hpair (hnone f g), fun f' g' _ hpair' => ?_⟩
    obtain ⟨rfl, rfl⟩ := swaps_unique hs hpair hpair'
    obtain ⟨hf, hg⟩ := swaps_roles hpair
    rw [if_neg (by rw [hjudging]; decide)]
    have hrole : ∀ h, c'.role h = if h = g' then .source else if h = f' then .spare else c.role h := fun h =>
      (congrArg (fun x : Ctx => x.role h) hbones :).trans (swapped_role c.expiryCounted f' g' h)
    have hne : f' ≠ g' := fun h => by rw [h, hg] at hf; cases hf
    refine ⟨(congrArg Ctx.timerRuns hbones :), (congrArg Ctx.state hbones :), by rw [hrole, if_neg hne, if_pos rfl], by rw [hrole, if_pos rfl],
      fun h hhf hhg => by rw [hrole, if_neg hhg, if_neg hhf], hend.held.trans htaken.held, sourcesChanged_of_unreadTo hunread hend,
      (congrArg (fun x : Ctx => x.counters.substitutions) hbones :)⟩

theorem expiryEnds_taken (hs : c.seated) (hlimit : c.geo.stallLimit ≠ 0) :
    ∃ c', (s.takeExpiry i c).settle.ctxs.get i = some c' ∧ (s.takeExpiry i c).settle.ctl.attention = true ∧ c.expiredTo c' ∧
      s.expiryEnds (s.takeExpiry i c).settle i c c' := by
  by_cases hmany : 3 ≤ c.expiries
  · exact expiryEnds_timeOut hcalm hc hrunning hmany
  · by_cases hpair : ∃ f g, c.swaps f g
    · obtain ⟨f, g, hpair⟩ := hpair
      exact expiryEnds_swap hcalm hc hrunning hs (by omega) hpair
    · exact expiryEnds_restart hcalm hc hrunning hs hlimit (by omega) (by simpa using hpair)

end Ends

end Sys2Proof.Machine
end


section
/-! PROOFS. A good segment contributed (R59, R63), with a swap or an end held behind its combine (R98, R120). -/

namespace Sys2Proof.Machine

/-! ### The position once its segment has been judged good -/

section Judged

variable (c : Ctx) (p : Position) (f : Nat) (en : LogEntry)

/-- The position with the entry of fragment `f` contributed, whether or not it was the last. -/
def Position.contributedAt (p : Position) (f : Nat) (en : LogEntry) : Position :=
  p.putEntry f (some { state := .contributed, feed := en.feed, verified := true })

theorem judgedAt_good : c.judgedAt p f en none =
    if c.allContributed (p.contributedAt f en) = true then { p.contributedAt f en with state := .full } else p.contributedAt f en := by
  by_cases hall : c.allContributed (p.contributedAt f en) = true
  · rw [if_pos hall]
    exact if_pos ⟨rfl, hall⟩
  · rw [if_neg hall]
    exact if_neg (fun h => hall h.2)

theorem judgedAt_seg : (c.judgedAt p f en none).seg = p.seg := by
  rw [judgedAt_good]
  split <;> rfl

theorem judgedAt_row (g : Nat) : (c.judgedAt p f en none).row.get g =
    if g = f then some { state := .contributed, feed := en.feed, verified := true } else p.row.get g := by
  have hrow : (c.judgedAt p f en none).row = (p.contributedAt f en).row := by
    rw [judgedAt_good]
    split <;> rfl
  rw [hrow, Position.contributedAt, putEntry_row_get]

theorem judgedAt_state : (c.judgedAt p f en none).state = if c.allContributed (p.contributedAt f en) = true then .full else p.state := by
  rw [judgedAt_good]
  split <;> rfl

end Judged

/-- While a source still waits, the position stays as it was. -/
theorem judgedAt_state_of_waits {c : Ctx} {p : Position} {f g : Nat} {en : LogEntry} (hg : g < 24) (hwaits : c.waitsFor p g) (hne : g ≠ f) :
    (c.judgedAt p f en none).state = p.state := by
  obtain ⟨hrole, hentry⟩ := hwaits
  rw [judgedAt_state, if_neg]
  intro hall
  have hmem : g ∈ c.sources := List.mem_filter.mpr ⟨List.mem_range.mpr hg, by simpa using hrole⟩
  have hone := List.all_eq_true.mp hall g hmem
  rw [Position.contributedAt, putEntry_row_get, if_neg hne] at hone
  cases hrow : p.row.get g with
  | none => simp [hrow] at hone
  | some e =>
    rw [hrow] at hone
    rcases hentry e hrow with h | h <;> simp [h] at hone

/-! ### The report -/

/-- The context with the segment contributed, its position bound as `binds` says. -/
def Ctx.contributed (c : Ctx) (p : Position) (f : Nat) (en : LogEntry) (binds : Table Nat) : Ctx :=
  c.putPosition p.seg { c.judgedAt p f en none with binds := binds }

theorem putPosition_putPosition (c : Ctx) (seg : Nat) (p q : Position) : (c.putPosition seg p).putPosition seg q = c.putPosition seg q := by
  simp only [Ctx.putPosition, Table.set_set]

/-- A position that has become FULL is bound, and may join the emit queue. -/
theorem bindFull_bound {s : State} {i seg : Nat} {c : Ctx} {q : Position} (hc : s.ctxs.get i = some (c.putPosition seg q)) (hq : q.seg = seg) :
    ∃ ctxs queue binds, s.bindFull i seg = { s with ctxs := ctxs, emitQueue := queue } ∧
      ctxs.get i = some (c.putPosition seg { q with binds := binds }) ∧ ∀ x ∈ queue, x ∈ s.emitQueue ∨ x = (i, seg) := by
  have hheld := holding_putPosition_same c hq
  have hmod : ∃ binds, s.bindFull i seg =
      State.joinEmit { s with ctxs := s.ctxs.set i (c.putPosition seg { q with binds := binds }) } i seg := by
    simp only [State.bindFull, State.modCtx, hc, hheld, putPosition_putPosition]
    exact ⟨_, rfl⟩
  obtain ⟨binds, hbinds⟩ := hmod
  rw [hbinds]
  have hctx : ({ s with ctxs := s.ctxs.set i (c.putPosition seg { q with binds := binds }) } : State).ctxs.get i =
      some (c.putPosition seg { q with binds := binds }) := Table.get_set_same _ _ _
  obtain ⟨queue, hqueue⟩ := joinEmit_apart { s with ctxs := s.ctxs.set i (c.putPosition seg { q with binds := binds }) } i seg
  obtain ⟨added, hadded, hmem⟩ := (joinEmit_joined (seg := seg) hctx).added
  rw [hqueue] at hadded ⊢
  refine ⟨_, queue, binds, rfl, hctx, fun x hx => ?_⟩
  rw [show queue = s.emitQueue ++ added from hadded] at hx
  refine (List.mem_append.mp hx).imp id (fun hx => ?_)
  obtain ⟨seg', hseg', rfl, -⟩ := hmem x hx
  rw [List.mem_singleton.mp hseg']

theorem contribute_bound {s : State} {i seg f : Nat} {c : Ctx} {p : Position} {en : LogEntry} (hc : s.ctxs.get i = some c)
    (hp : c.holding seg = some p) (hen : p.row.get f = some en) : ∃ ctxs queue binds,
    s.contribute i seg f = { s with ctxs := ctxs, emitQueue := queue } ∧ ctxs.get i = some (c.contributed p f en binds) ∧
    ∀ x ∈ queue, x ∈ s.emitQueue ∨ (x = (i, seg) ∧ (c.judgedAt p f en none).state = .full) := by
  have hseg := holding_seg hp
  have hjudged : (c.judgedAt p f en none).seg = seg := (judgedAt_seg c p f en).trans hseg
  unfold Ctx.contributed
  rw [contribute_eq hc hp hen, hseg]
  by_cases hall : c.allContributed (p.contributedAt f en) = true
  · obtain ⟨ctxs, queue, binds, hbind, hctx, hmem⟩ := bindFull_bound
      (s := { s with ctxs := s.ctxs.set i (c.putPosition seg (c.judgedAt p f en none)) }) (Table.get_set_same _ _ _) hjudged
    refine ⟨ctxs, queue, binds, (if_pos hall).trans hbind, hctx, fun x hx => (hmem x hx).imp id (fun h => ⟨h, ?_⟩)⟩
    rw [judgedAt_state, if_pos hall]
  · exact ⟨_, s.emitQueue, _, if_neg hall, Table.get_set_same _ _ _, fun x hx => .inl hx⟩

/-! ### The window with the segment contributed -/

section Contributed

variable {c : Ctx} {seg f : Nat} {p : Position} {en : LogEntry} (hp : c.holding seg = some p) (binds : Table Nat)
include hp

theorem contributed_holding_same : (c.contributed p f en binds).holding seg = some { c.judgedAt p f en none with binds := binds } := by
  rw [Ctx.contributed, holding_seg hp]
  exact holding_putPosition_same c ((judgedAt_seg c p f en).trans (holding_seg hp))

theorem contributed_holding_other {seg' : Nat} (hne : seg' ≠ seg) : (c.contributed p f en binds).holding seg' = c.holding seg' := by
  rw [Ctx.contributed, holding_seg hp]
  exact holding_putPosition_other hp ((judgedAt_seg c p f en).trans (holding_seg hp)) hne

theorem contributed_seated (hs : c.seated) : (c.contributed p f en binds).seated := by
  rw [Ctx.contributed, holding_seg hp]
  exact seated_putPosition hs ((judgedAt_seg c p f en).trans (holding_seg hp))

end Contributed

end Sys2Proof.Machine
end


section
/-! PROOFS. STALL_EXPIRY, its effect held until the combine has been reported (R98, R114, R120). -/

namespace Sys2Proof.Machine

/-! ### The swap pair after a contribution -/

section Contributed

variable {c : Ctx} {seg f : Nat} {p : Position} {en : LogEntry} (hp : c.holding seg = some p) (hen : p.row.get f = some en)
  (hfly : en.state = .inflight) (binds : Table Nat)
include hen hfly

/-- The fragment whose segment was being combined neither waited nor was ready, and so it is afterwards. -/
theorem contributed_waitsFor (g : Nat) :
    (c.contributed p f en binds).waitsFor { c.judgedAt p f en none with binds := binds } g ↔ c.waitsFor p g := by
  refine and_congr Iff.rfl ?_
  show (∀ e, (c.judgedAt p f en none).row.get g = some e → _) ↔ _
  rw [judgedAt_row]
  by_cases hg : g = f
  · simp [hg, hen, hfly]
  · rw [if_neg hg]

theorem contributed_readyFor (g : Nat) :
    (c.contributed p f en binds).readyFor { c.judgedAt p f en none with binds := binds } g ↔ c.readyFor p g := by
  refine and_congr Iff.rfl ?_
  show (∃ e, (c.judgedAt p f en none).row.get g = some e ∧ _) ↔ _
  rw [judgedAt_row]
  by_cases hg : g = f
  · simp [hg, hen, hfly]
  · rw [if_neg hg]

include hp

theorem contributed_swaps {g h : Nat} (hpair : c.swaps g h) : (c.contributed p f en binds).swaps g h := by
  obtain ⟨seg0, p0, hp0, hopen, holdest, hg, hwaits, hfirst, hh, hready, hlowest⟩ := hpair
  have hsame := contributed_holding_same (en := en) (f := f) hp binds
  have hother : ∀ seg', seg' ≠ seg → (c.contributed p f en binds).holding seg' = c.holding seg' := fun _ =>
    contributed_holding_other hp binds
  have hstill : ∀ seg' q, (c.contributed p f en binds).holding seg' = some q → q.state = .opened → seg0 ≤ seg' := by
    intro seg' q hq hqopen
    by_cases hseg : seg' = seg
    · rw [hseg, hsame] at hq
      obtain rfl := Option.some.inj hq
      have hstate : (c.judgedAt p f en none).state = .opened := hqopen
      rw [judgedAt_state] at hstate
      split at hstate
      · cases hstate
      · rw [hseg]
        exact holdest seg p hp hstate
    · rw [hother seg' hseg] at hq
      exact holdest seg' q hq hqopen
  by_cases hseg : seg0 = seg
  · subst hseg
    obtain rfl := Option.some.inj (hp.symm.trans hp0)
    have hne : g ≠ f := fun heq => by
      rcases hwaits.2 en (heq ▸ hen) with h | h <;> simp [hfly] at h
    have hstate := judgedAt_state_of_waits (en := en) hg hwaits hne
    refine ⟨seg0, _, hsame, hstate.trans hopen, hstill, hg, (contributed_waitsFor hen hfly binds g).mpr hwaits, fun k hk => ?_, hh,
      (contributed_readyFor hen hfly binds h).mpr hready, fun k hk => ?_⟩
    · rw [contributed_waitsFor hen hfly]
      exact hfirst k hk
    · rw [contributed_readyFor hen hfly]
      exact hlowest k hk
  · exact ⟨seg0, p0, (hother seg0 hseg).trans hp0, hopen, hstill, hg, hwaits, hfirst, hh, hready, hlowest⟩

end Contributed

/-- What a reset leaves is the same whatever the contributed position is bound to. -/
theorem unreadTo_of_contributed {c d : Ctx} {seg f : Nat} {p : Position} {en : LogEntry} {binds : Table Nat} {store store' : Table (List Byte)}
    (hp : c.holding seg = some p) (h : (c.contributed p f en binds).unreadTo d store store') :
    (c.putPosition seg (c.judgedAt p f en none)).unreadTo d store store' := by
  have hjudged : (c.judgedAt p f en none).seg = seg := (judgedAt_seg c p f en).trans (holding_seg hp)
  have hsame := contributed_holding_same (en := en) (f := f) hp binds
  have hsame' := holding_putPosition_same c hjudged
  have hother : ∀ seg', seg' ≠ seg → (c.putPosition seg (c.judgedAt p f en none)).holding seg' = (c.contributed p f en binds).holding seg' :=
    fun seg' hne => (holding_putPosition_other hp hjudged hne).trans (contributed_holding_other hp binds hne).symm
  refine ⟨fun seg' q hq => ?_, fun seg' q hq hopen => ?_, fun n hn => h.rest n (fun seg' q hq hopen => ?_)⟩
  · by_cases hseg : seg' = seg
    · subst hseg
      obtain rfl := Option.some.inj (hsame'.symm.trans hq)
      obtain ⟨q', hq', hstate, hrow⟩ := h.entries seg' _ hsame
      exact ⟨q', hq', hstate, hrow⟩
    · exact h.entries seg' q ((hother seg' hseg).symm.trans hq)
  · by_cases hseg : seg' = seg
    · subst hseg
      obtain rfl := Option.some.inj (hsame'.symm.trans hq)
      exact h.zeroed seg' _ hsame hopen
    · exact h.zeroed seg' q ((hother seg' hseg).symm.trans hq) hopen
  · by_cases hseg : seg' = seg
    · subst hseg
      obtain rfl := Option.some.inj (hsame.symm.trans hq)
      exact hn seg' _ hsame' hopen
    · exact hn seg' q ((hother seg' hseg).trans hq) hopen

/-! ### COMBINE_COMPLETE of a good segment, up to what is held behind it -/

/-- The state `u` once a good segment has been reported, and before what is held behind the combine. -/
structure Contributed (s u : State) (x : Staging) (c : Ctx) (p : Position) (en : LogEntry) (binds : Table Nat) : Prop where
  ctx : u.ctxs.get x.ctx = some (c.contributed p x.frag en binds)
  store : u.store = foldTargets c x.seg (c.sources.idxOf x.frag) (c.geo.dataLength x.seg) x.data (List.range c.targetCount) s.store
  held : u.held = []
  emit : u.emit = s.emit
  queue : ∀ y ∈ u.emitQueue, y ∈ s.emitQueue ∨ (y = (x.ctx, x.seg) ∧ (c.judgedAt p x.frag en none).state = .full)

/-- The combine reported, its slot freed, and nothing held any more. -/
def State.combineReported (s : State) (w : Combining) : State :=
  { (s.reportCombine w).freeStaging w.slot with combining := none, held := [] }

theorem finishCombine_good {s : State} {w : Combining} {x : Staging} {c : Ctx} {p : Position} {en : LogEntry} (hjudged : w.judged = true)
    (hx : s.port.staging.get w.slot = some x) (hc : s.ctxs.get x.ctx = some c) (hp : c.holding x.seg = some p)
    (hen : p.row.get x.frag = some en) (hgood : trailerRefusal c.geo x.seg x.frag x.data = none) :
    ∃ binds, s.finishCombine w = State.releaseEvents s.held (s.combineReported w) ∧
      Contributed s (s.combineReported w) x c p en binds := by
  obtain ⟨v, hv⟩ : ∃ v, v = s.combine c x.seg x.frag x.data := ⟨_, rfl⟩
  have hreport : s.reportCombine w = v.contribute x.ctx x.seg x.frag := by
    simp only [State.reportCombine, hx, hjudged, State.judge, hc, hgood, hv, if_true]
  obtain ⟨ctxs, queue, binds, heq, hctx, hqueue⟩ := contribute_bound (s := v) (by rw [hv]; exact hc) hp hen
  rw [heq] at hreport
  have hheld : (s.reportCombine w).held = s.held := by rw [hreport, hv]; rfl
  refine ⟨binds, by rw [← hheld]; rfl, ?_⟩
  rw [State.combineReported, hreport, hv]
  rw [hv] at hqueue
  exact ⟨hctx, rfl, rfl, rfl, hqueue⟩

end Sys2Proof.Machine
end


section
/-! PROOFS. STALL_EXPIRY in all its cases (R61, R114, R117 to R120). -/

namespace Sys2Proof.Machine

theorem exec_combineComplete {s : State} {w : Combining} (h : s.combining = some w) :
    exec .combineComplete s = .next (s.finishCombine w).settle := by
  show execCombineComplete s = _
  rw [execCombineComplete, h]

section Held

variable {s : State} {w : Combining} {x : Staging} {c : Ctx} {p : Position} {en : LogEntry} (hcalm : Calm s)
  (hc : s.ctxs.get x.ctx = some c) (hrunning : c.state = .running)
include hcalm hc hrunning

/-- The end held behind a combine of its context. -/
theorem combineComplete_timeOut {binds : Table Nat} (hdone : Contributed s (s.combineReported w) x c p en binds)
    (hfinish : s.finishCombine w = State.releaseEvents [.timeOut x.ctx] (s.combineReported w)) :
    ∃ d c', EventEnd (s.finishCombine w) (s.finishCombine w).settle x.ctx d c' ∧ (s.finishCombine w).held = [] ∧
      d.bones = c.bones.timedOut := by
  have hheld : (s.finishCombine w).holds x.ctx := (finishCombine_frame s w).stays _ (holds_calm s hcalm _ c hc)
  have htake : s.finishCombine w = (s.combineReported w).takeTimeOut x.ctx := hfinish
  obtain ⟨d, hd, hbones, ctl, emit, queue, work, line, held, hbefore, hafter⟩ := takeTimeOut_running hdone.ctx hrunning
  rw [← htake] at hd hafter
  simp only [State.unitsBeside, Prod.mk.injEq] at hbefore hafter
  obtain ⟨-, -, -, -, -, hheldBefore⟩ := hbefore
  obtain ⟨-, -, hqueue, -, -, hheldAfter⟩ := hafter
  obtain ⟨c', hend⟩ := settle_eventEnd hd hheld (fun _ seg q hmem _ => by simp [hqueue] at hmem)
  exact ⟨d, c', hend, by rw [hheldAfter, ← hheldBefore, hdone.held], hbones⟩

/-- The swap held behind a combine of its context. -/
theorem combineComplete_swap {binds : Table Nat} {f g : Nat} (hs : c.seated) (hp : c.holding x.seg = some p) (hen : p.row.get x.frag = some en)
    (hfly : en.state = .inflight) (hpair : c.swaps f g) (hdone : Contributed s (s.combineReported w) x c p en binds)
    (hfinish : s.finishCombine w = State.releaseEvents [.swap x.ctx] (s.combineReported w)) :
    ∃ d c', EventEnd (s.finishCombine w) (s.finishCombine w).settle x.ctx d c' ∧ (s.finishCombine w).held = [] ∧
      d.bones = c.swappedBones f g ∧
      (c.contributed p x.frag en binds).unreadTo d (s.combineReported w).store (s.finishCombine w).store := by
  have hheld : (s.finishCombine w).holds x.ctx := (finishCombine_frame s w).stays _ (holds_calm s hcalm _ c hc)
  have htake : s.finishCombine w = (s.combineReported w).takeSwap x.ctx := hfinish
  obtain ⟨d, hd, hunread, hbones, hunits⟩ := takeSwap_pair hdone.ctx hrunning (contributed_seated hp binds hs)
    (contributed_swaps hp hen hfly binds hpair)
  rw [← htake] at hd hunread hunits
  simp only [State.unitsBeside, Prod.mk.injEq] at hunits
  obtain ⟨-, hemit, hqueue, -, -, hheldAfter⟩ := hunits
  obtain ⟨c', hend⟩ := settle_eventEnd hd hheld (fun hidle seg q hmem hq => by
    rw [hqueue] at hmem
    rcases hdone.queue _ hmem with hwaited | ⟨heq, hfull⟩
    · rw [hcalm.emits (by rw [← hdone.emit, ← hemit, hidle])] at hwaited
      cases hwaited
    · obtain ⟨-, rfl⟩ := Prod.mk.inj heq
      obtain ⟨q', hq', hstate, -⟩ := hunread.entries _ _ (contributed_holding_same hp binds)
      obtain rfl := Option.some.inj (hq.symm.trans hq')
      exact hstate.trans hfull)
  exact ⟨d, c', hend, by rw [hheldAfter, hdone.held], hbones, hunread⟩

end Held

/-- Settles O54: each thing an expiry can bring, taken at once or once the combine in progress has been reported. -/
theorem stallExpiry : Obligations.StallExpiry := by
  unfold Obligations.StallExpiry
  intro swaps
  refine ⟨fun s i c hc hs => ⟨expired_iff c, ?_, fun hexpired hfirst hcalm hready => ?_⟩,
    fun s w u c p en hw hjudged hcalm hready hu hc hrunning hs hp hen hfly hgood => ?_⟩
  · intro hidle
    exact exec_stallExpiry_idle hc (hidle.imp id changeHeld_iff.mpr)
  · obtain ⟨hrunning, -, hlimit, -⟩ := (expired_iff c).mp hexpired
    have hnot : s.changeHeld i c = false := Bool.eq_false_iff.mpr (fun h => hfirst (changeHeld_iff.mp h))
    obtain ⟨c', hc', hattention, hto, hends⟩ := expiryEnds_taken ((State.calm_iff s).mp hcalm) hc hrunning hs hlimit
    exact ⟨_, c', exec_stallExpiry_due hc hexpired hnot, hc', hattention, hto.geo, hto.stalled, hto.expiries, hto.counted, hends⟩
  · have hcalm := (State.calm_iff s).mp hcalm
    obtain ⟨binds, hfinish, hdone⟩ := finishCombine_good hjudged hu hc hp hen hgood
    refine ⟨fun hheld => ?_, fun f g hheld hpair => ?_⟩
    · rw [hheld] at hfinish
      obtain ⟨d, c', hend, hnone, hended⟩ := combineComplete_timeOut hcalm hc hrunning hdone hfinish
      have hbones := hend.bones.trans hended
      exact ⟨_, c', exec_combineComplete hw, hend.held.trans hnone, hend.ctx, (congrArg Ctx.state hbones :), (congrArg Ctx.outcome hbones :),
        (congrArg Ctx.roles hbones :), (congrArg Ctx.counters hbones :)⟩
    · rw [hheld] at hfinish
      obtain ⟨d, c', hend, hnone, hswapped, hunread⟩ := combineComplete_swap hcalm hc hrunning hs hp hen hfly hpair hdone hfinish
      have hbones := hend.bones.trans hswapped
      obtain ⟨hf, hg⟩ := swaps_roles hpair
      have hrole : ∀ h, c'.role h = if h = g then .source else if h = f then .spare else c.role h := fun h =>
        (congrArg (fun x : Ctx => x.role h) hbones :).trans (swapped_role c f g h)
      have hne : f ≠ g := fun h => by rw [h, hg] at hf; cases hf
      rw [hdone.store] at hunread
      exact ⟨_, c', exec_combineComplete hw, hend.held.trans hnone, hend.ctx, (congrArg Ctx.state hbones :), (congrArg Ctx.timerRuns hbones :),
        by rw [hrole, if_neg hne, if_pos rfl], by rw [hrole, if_pos rfl], fun h hhf hhg => by rw [hrole, if_neg hhg, if_neg hhf],
        (congrArg Ctx.counters hbones :), sourcesChanged_of_unreadTo (unreadTo_of_contributed hp hunread) hend⟩

end Sys2Proof.Machine
end


section
/-! PROOFS. Feed and Sink entries stay balanced over every command (R74, R75, R86, R87): composed from the frames of the operations. -/

namespace Sys2Proof.Machine

/-! ### Entries over one operation -/

/-- Between `s` and `t` balanced entries stay balanced. -/
structure EntriesKept (s t : State) : Prop where
  feeds : s.feedsBalanced → t.feedsBalanced
  sinks : s.sinksBalanced → t.sinksBalanced

variable {s t u : State}

/-- A step that leaves both tables alone. -/
theorem EntriesKept.of_eq (hfeeds : t.feeds = s.feeds) (hsinks : t.sinks = s.sinks) : EntriesKept s t :=
  ⟨fun h e f hf => h e f (hfeeds ▸ hf), fun h e k hk => h e k (hsinks ▸ hk)⟩

theorem EntriesKept.trans (h1 : EntriesKept s t) (h2 : EntriesKept t u) : EntriesKept s u :=
  ⟨fun h => h2.feeds (h1.feeds h), fun h => h2.sinks (h1.sinks h)⟩

theorem Frame.entriesKept {P : Role → Role → Prop} (h : Frame P s t) : EntriesKept s t := ⟨h.feeds, h.sinks⟩

/-- What settles an event keeps the entries. -/
theorem EntriesKept.settle (h : EntriesKept s t) : EntriesKept s t.settle := h.trans (settle_frame roleMove_rel t).entriesKept

theorem EntriesKept.offer (h : EntriesKept s t) (w : Writer) : EntriesKept s (t.offer w) :=
  h.trans (offer_frame roleMove_rel t w).entriesKept

/-- A command that is not due changes nothing. -/
theorem EntriesKept.ite {c : Prop} [Decidable c] (h : EntriesKept s t) : EntriesKept s (if c then t else s) := by
  split
  · exact h
  · exact .of_eq rfl rfl

/-- Tables with no entry in use are balanced. -/
theorem EntriesKept.of_empty (hfeeds : t.feeds = Table.empty) (hsinks : t.sinks = Table.empty) : EntriesKept s t := by
  refine ⟨fun _ e f hf => ?_, fun _ e k hk => ?_⟩
  · rw [hfeeds, Table.get_empty] at hf; cases hf
  · rw [hsinks, Table.get_empty] at hk; cases hk

/-! ### Records -/

theorem dispatchOpen_entriesKept (s : State) (b : List Byte) : EntriesKept s (s.dispatchOpen b) := by
  unfold State.dispatchOpen
  split
  · exact .of_eq rfl rfl
  · extract_lets s1
    have hfilled : EntriesKept s { s1 with ctxs := s1.ctxs.set (recContext b) (newContext s.walker.next b) } := .of_eq rfl rfl
    exact hfilled.trans (placeContext_frame roleMove_rel _ _).entriesKept

theorem dispatchRegion_entriesKept (s : State) (b : List Byte) : EntriesKept s (s.dispatchRegion b) := by
  unfold State.dispatchRegion
  split <;> exact .of_eq rfl rfl

theorem dispatchLevel_entriesKept (s : State) (b : List Byte) : EntriesKept s (s.dispatchLevel b) := by
  unfold State.dispatchLevel
  split <;> exact .of_eq rfl rfl

theorem dispatch_entriesKept (s : State) : EntriesKept s s.dispatch := by
  unfold State.dispatch
  extract_lets b
  split
  · exact dispatchOpen_entriesKept s b
  · exact (dispatchFeed_frame roleMove_rel s b).entriesKept
  · exact (dispatchSink_frame roleMove_rel s b).entriesKept
  · exact (dispatchDrop_frame roleMove_rel roleMove_allows s b).entriesKept
  · exact (dispatchAbort_frame roleMove_rel s b).entriesKept
  · exact dispatchRegion_entriesKept s b
  · exact .of_eq rfl rfl
  · exact dispatchLevel_entriesKept s b
  · exact .of_eq rfl rfl

theorem checkRecord_entriesKept (s : State) : EntriesKept s s.checkRecord := by
  unfold State.checkRecord
  extract_lets b
  split
  · exact (fault_frame roleMove_rel s _ _).entriesKept
  · split
    · exact .of_eq rfl rfl
    · split
      · exact .of_eq rfl rfl
      · exact dispatch_entriesKept s

theorem firstHalfArrived_entriesKept (s : State) (bytes : List Byte) : EntriesKept s (s.firstHalfArrived bytes) := by
  unfold State.firstHalfArrived
  extract_lets _ s1
  have harrived : EntriesKept s s1 := .of_eq rfl rfl
  split
  · split
    · exact .of_eq rfl rfl
    · exact harrived.trans (fault_frame roleMove_rel s1 _ _).entriesKept
  · exact harrived.trans (checkRecord_entriesKept s1)

theorem secondHalfArrived_entriesKept (s : State) (bytes : List Byte) : EntriesKept s (s.secondHalfArrived bytes) :=
  EntriesKept.trans (t := State.clearFetch { s with walker := { s.walker with buffer := s.walker.buffer ++ bytes } }) (.of_eq rfl rfl)
    (checkRecord_entriesKept _)

theorem recordArrived_entriesKept (s : State) (bytes : List Byte) : EntriesKept s (s.recordArrived bytes) := by
  unfold State.recordArrived
  refine EntriesKept.ite ?_
  split
  · exact .of_eq rfl rfl
  · exact (firstHalfArrived_entriesKept s bytes).settle

theorem openTailArrived_entriesKept (s : State) (bytes : List Byte) : EntriesKept s (s.openTailArrived bytes) := by
  unfold State.openTailArrived
  split
  · exact .of_eq rfl rfl
  · exact (secondHalfArrived_entriesKept s bytes).settle

/-! ### Registers, time and issue -/

theorem applyRun_entriesKept (s : State) (v : Word64) : EntriesKept s (s.applyRun v) := by
  unfold State.applyRun
  split
  · exact .of_eq rfl rfl
  · split
    · extract_lets _ s1
      have hrun : EntriesKept s s1 := .of_eq rfl rfl
      split
      · exact hrun.trans (start_frame roleMove_rel s1).entriesKept
      · exact hrun
    · exact EntriesKept.trans (t := { s with ctl := { s.ctl with run := false } }) (.of_eq rfl rfl) (stop_frame roleMove_rel _).entriesKept

theorem applyAttn_entriesKept (s : State) (v : Word64) : EntriesKept s (s.applyAttn v) := .of_eq rfl rfl

/-- A write of ENG_CTRL, a soft reset among them (R186, R193). -/
theorem writeEngCtrl_entriesKept (s : State) (v : Word64) : EntriesKept s (s.writeEngCtrl v) := by
  unfold State.writeEngCtrl
  split
  · exact (applyAttn_entriesKept s v).offer _
  · split
    · exact .of_empty rfl rfl
    · split
      · extract_lets t
        have hdrawn : EntriesKept s t := .of_eq rfl rfl
        split
        · exact (hdrawn.trans ((applyAttn_entriesKept t v).trans (applyRun_entriesKept _ v))).offer _
        · exact (hdrawn.trans ((applyRun_entriesKept t v).trans (applyAttn_entriesKept _ v))).offer _
      · exact ((applyRun_entriesKept s v).trans (applyAttn_entriesKept _ v)).offer _

theorem tick_entriesKept (s : State) : EntriesKept s s.tick := by
  unfold State.tick
  extract_lets s1
  have hticked : EntriesKept s s1 := .of_eq rfl rfl
  exact hticked.trans ((oweStale_frame _ s1).trans roleMove_rel (oweStaleReport_frame _)).entriesKept

theorem issueOne_entriesKept (s : State) : EntriesKept s s.issueOne := by
  unfold State.issueOne
  split
  · exact .of_eq rfl rfl
  · split
    · exact (issueFetch_frame roleMove_rel s _).entriesKept
    · split
      · next w rest hqueue =>
        exact ((popWrite_frame roleMove_rel s w rest hqueue).trans roleMove_rel (issueWrite_frame roleMove_rel _ w)).entriesKept.offer _
      · split
        · next k rest _ =>
          exact EntriesKept.trans (t := { s with port := { s.port with reissueLine := rest } }) (.of_eq rfl rfl)
            (reissue_frame roleMove_rel _ k).entriesKept
        · obtain ⟨g, hgrant, -⟩ := grant_frame roleMove_rel s
          exact EntriesKept.trans (t := { s with gov := g }) (.of_eq rfl rfl) hgrant.entriesKept

/-! ### A context's teardown resumed -/

theorem closeContext_entriesKept (s : State) (i : Nat) (c : Ctx) : EntriesKept s (s.closeContext i c) := by
  obtain ⟨r, hclosed⟩ := closeContext_apart s i c
  rw [hclosed]
  exact .of_eq rfl rfl

theorem resumed_entriesKept {i : Nat} {c : Ctx} (hc : s.ctxs.get i = some c) : EntriesKept s (s.resumed i c) :=
  ((returnCells_frame hc).entriesKept.settle.trans (closeContext_entriesKept _ i c)).settle

/-! ### Every command -/

theorem exec_entriesKept {c : Instr} (h : exec c s = .next t) : EntriesKept s t := by
  cases c with
  | openRecord bytes =>
    cases h
    split
    · exact openTailArrived_entriesKept s _
    · exact recordArrived_entriesKept s _
  | feed bytes => cases h; exact recordArrived_entriesKept s _
  | sink bytes => cases h; exact recordArrived_entriesKept s _
  | drop bytes => cases h; exact recordArrived_entriesKept s _
  | abort bytes => cases h; exact recordArrived_entriesKept s _
  | region bytes => cases h; exact recordArrived_entriesKept s _
  | tune bytes => cases h; exact recordArrived_entriesKept s _
  | level bytes => cases h; exact recordArrived_entriesKept s _
  | badKind bytes => cases h; exact recordArrived_entriesKept s _
  | recordFetchError => cases h; exact (fetchErred_frame roleMove_rel s).entriesKept
  | fetchDiscard => cases h; exact .ite (.of_eq rfl rfl)
  | walkerWriteIssued => cases h; exact .ite ((followLink_frame roleMove_rel s).entriesKept.offer _)
  | linkWordRead link => cases h; exact (linkRead_frame roleMove_rel s link).entriesKept
  | pollTimer => cases h; exact .ite (.of_eq rfl rfl)
  | chnCheck value => cases h; exact (check_frame roleMove_rel s).entriesKept
  | chnHead value => cases h; split <;> exact .of_eq rfl rfl
  | registerWrite reg value => cases h; cases reg <;> (split <;> exact .of_eq rfl rfl)
  | runSet value => cases h; exact writeEngCtrl_entriesKept s value
  | runClear value => cases h; exact writeEngCtrl_entriesKept s value
  | heldStart => cases h; exact .ite ((start_frame roleMove_rel s).entriesKept.offer _)
  | attnEnable value => cases h; exact writeEngCtrl_entriesKept s value
  | clearAttention value => cases h; exact .ite (.of_eq rfl rfl)
  | softReset value => cases h; exact writeEngCtrl_entriesKept s value
  | fullReset => cases h; exact .of_empty rfl rfl
  | outstandingReturn => cases h; exact .ite (.of_eq rfl rfl)
  | tick => cases h; exact (tick_entriesKept s).trans (offerReady_frame roleMove_rel _).entriesKept
  | stallExpiry slot =>
    cases h
    split
    · exact .of_eq rfl rfl
    · exact .ite (takeExpiry_frame roleMove_rel s _ _ ⟨roleMove_allows.demote, roleMove_allows.promote⟩).entriesKept.settle
  | tableFull => cases h; exact .ite ((refuseRecord_frame roleMove_rel s _).entriesKept.offer _)
  | blockedRecheck =>
    cases h
    refine .ite (EntriesKept.settle ?_)
    exact EntriesKept.trans (t := { s with walker := { s.walker with room := false } }) (.of_eq rfl rfl)
      (recheck_frame roleMove_rel _).entriesKept
  | issueOpportunity => cases h; exact issueOne_entriesKept s
  | claimLineServe => cases h; exact (serveClaims_frame roleMove_rel s).entriesKept
  | sourceReadComplete slot data => cases h; exact .ite (readArrived_frame roleMove_rel s _ _).entriesKept.settle
  | sourceReadError slot => cases h; exact .ite (readErred_frame roleMove_rel s _).entriesKept.settle
  | combineComplete =>
    cases h
    split
    · exact .of_eq rfl rfl
    · exact (finishCombine_frame s _).entriesKept.settle
  | emitComplete =>
    cases h
    split
    · exact .of_eq rfl rfl
    · exact .ite (finishEmit_frame s _).entriesKept.settle
  | solveComplete =>
    cases h
    split
    · exact .of_eq rfl rfl
    · exact (finishSolve_frame s _).entriesKept.settle
  | drained slot =>
    cases h
    split
    · exact .of_eq rfl rfl
    · exact .ite (finaliseContext_frame s _ _).entriesKept.settle
  | teardownResume slot =>
    cases h
    split
    · exact .of_eq rfl rfl
    · next c hc => exact .ite (resumed_entriesKept hc)

/-- Settles O58: every command keeps balanced entries balanced, a reset by leaving none. -/
theorem entriesBalance : Obligations.EntriesBalance := by
  intro s t hfeeds hsinks hstep
  unfold step at hstep
  split at hstep
  · cases hstep
    exact ⟨hfeeds, hsinks⟩
  · next cmd rest _ =>
    have hkept := exec_entriesKept (s := { s with pending := rest }) hstep
    exact ⟨hkept.feeds hfeeds, hkept.sinks hsinks⟩

end Sys2Proof.Machine
end


section
/-! PROOFS. The address checks (R79, R166, R187), and a REGION record checked and taken (R77, R184, R185). -/

namespace Sys2Proof.Machine

/-! ### Addresses -/

theorem recordAddressValid_iff (base size addr : Word64) : recordAddressValid base size addr = true ↔
    64 ∣ addr.toNat ∧ base.toNat + 256 ≤ addr.toNat ∧ addr.toNat + 64 ≤ base.toNat + size.toNat := by
  simp only [recordAddressValid, Bool.and_eq_true, decide_eq_true_eq, and_assoc, Nat.dvd_iff_mod_eq_zero]

theorem chainRegionValid_iff (base size : Word64) : chainRegionValid base size = true ↔
    4096 ∣ base.toNat ∧ 4096 ∣ size.toNat ∧ 4096 ≤ size.toNat ∧ size.toNat ≤ 2 ^ 30 ∧ base.toNat + size.toNat ≤ 2 ^ 48 := by
  simp only [chainRegionValid, Bool.and_eq_true, decide_eq_true_eq, and_assoc, Nat.dvd_iff_mod_eq_zero]

theorem covers_region_iff (r : Region) (addr length : Nat) :
    r.covers addr length = true ↔ r.base ≤ addr ∧ addr + length ≤ r.base + r.length := by
  simp only [Region.covers, Bool.and_eq_true, decide_eq_true_eq]

/-- The right that a buffer's use asks for (R79, R184). -/
theorem right_iff (r : Region) (write : Bool) :
    (if write then r.writable else r.readable) = true ↔ r.rights = 3 ∨ r.rights = if write then 2 else 1 := by
  cases write <;> simp [Region.writable, Region.readable, or_comm]

/-- Region `j` holds the run whole and grants the right. -/
def regionGrants (regions : Table Region) (write : Bool) (addr length j : Nat) : Bool :=
  match regions.get j with
  | some r => (if write then r.writable else r.readable) && r.covers addr length
  | none => false

theorem regionGrants_iff (regions : Table Region) (write : Bool) (addr length j : Nat) :
    regionGrants regions write addr length j = true ↔ ∃ r, regions.get j = some r ∧
      (r.rights = 3 ∨ r.rights = if write then 2 else 1) ∧ r.base ≤ addr ∧ addr + length ≤ r.base + r.length := by
  unfold regionGrants
  cases regions.get j with
  | none => simp
  | some r => simp only [Bool.and_eq_true, right_iff, covers_region_iff, Option.some.injEq, exists_eq_left']

theorem addressRegion_iff (regions : Table Region) (write : Bool) (addr length i : Nat) :
    addressRegion regions write addr length = some i ↔ 64 ∣ addr ∧ i < 8 ∧ regionGrants regions write addr length i = true ∧
      ∀ j < i, ¬ regionGrants regions write addr length j = true := by
  have hfind : addressRegion regions write addr length =
      if addr % 64 = 0 then (List.range 8).find? (regionGrants regions write addr length) else none := rfl
  rw [hfind, Nat.dvd_iff_mod_eq_zero]
  by_cases haligned : addr % 64 = 0
  · simp only [haligned, if_true, List.find?_range_eq_some, List.mem_range, Bool.not_eq_true', Bool.not_eq_true, true_and]
    tauto
  · simp [haligned]

/-- Settles O25: each check is its conditions on whole numbers; the search for a region stops at the first that grants. -/
theorem addressChecks : Obligations.AddressChecks := by
  refine ⟨fun base size addr => ⟨recordAddressValid_iff base size addr, ?_, chainRegionValid_iff base size⟩,
    fun regions write addr length i => ?_⟩
  · simp only [openFits, decide_eq_true_eq]
  · simpa only [regionGrants_iff] using addressRegion_iff regions write addr length i

/-! ### REGION -/

theorem dispatch_region {s : State} (h : recKind s.walker.buffer = 6) : s.dispatch = s.dispatchRegion s.walker.buffer := by
  simp only [State.dispatch, h]

/-- A posted REGION record arrives: its owner checks it, and the event is settled. -/
theorem exec_region_posted {s : State} {b : List Byte} (ha : s.awaitsRecord = true) (hp : postedRecord 6 b = true) :
    exec (.region b) s = .next ((s.fetched b).dispatchRegion b).settle := by
  show Host.Outcome.next (s.recordArrived (withKind 6 b)) = _
  rw [recordArrived_posted s b 6 ha hp (by omega) (by omega), dispatch_region (recKind_posted 6 b hp)]
  rfl

/-- A disabled region has no base and no length; any other is made of whole pages below 2^48 (R185, check 2). -/
theorem shapeValid_eq_false_iff (r : Region) : r.shapeValid = false ↔ (r.rights = 0 ∧ (r.base ≠ 0 ∨ r.length ≠ 0)) ∨
    (r.rights ≠ 0 ∧ ¬(4096 ∣ r.base ∧ 4096 ∣ r.length ∧ 4096 ≤ r.length ∧ r.base + r.length ≤ 2 ^ 48)) := by
  unfold Region.shapeValid
  by_cases hrights : r.rights = 0
  · simp only [hrights, if_true, true_and, ne_eq, not_true_eq_false, false_and, or_false, Bool.and_eq_false_iff, beq_eq_false_iff_ne]
  · rw [if_neg hrights, ← Bool.not_eq_true]
    simp only [hrights, Bool.and_eq_true, decide_eq_true_eq, and_assoc, Nat.dvd_iff_mod_eq_zero, ne_eq, not_false_eq_true, true_and,
      false_and, false_or]

/-- The end of an event that handled a REGION record: its DONE is placed, the region stands as the record describes it. -/
theorem settle_regionSet {s : State} {b : List Byte} (hcalm : Calm s) (hroom : s.port.writeQueue.length + 1 ≤ 64) (regions : Table Region) :
    ({ (s.fetched b).handle .done 0 [] with ctl := { s.ctl with regions := regions } } : State).settle =
      (let t := s.finished b [outcomeBytes s.walker.next 2 0]
       { t with ctl := { t.ctl with regions := regions } }) := by
  have hcalm' : Calm { s.fetched b with ctl := { s.ctl with regions := regions } } :=
    ⟨hcalm.line, hcalm.statuses, hcalm.ready, hcalm.owed, hcalm.messages, hcalm.units, hcalm.emits, hcalm.solves, hcalm.combines⟩
  exact settle_handle _ hcalm' hroom .done 0 []

/-- No entry in use names a region whose reference count is 0 (R77). -/
theorem refCount_eq_zero_iff {s : State} (hfeeds : s.feeds.wf = true) (hsinks : s.sinks.wf = true) (i : Nat) : s.refCount i = 0 ↔
    (∀ e f, s.feeds.get e = some f → f.region ≠ i) ∧ ∀ e k, s.sinks.get e = some k → k.region ≠ i := by
  simp only [State.refCount, Nat.add_eq_zero_iff, List.countP_eq_zero, beq_iff_eq]
  constructor
  · rintro ⟨hf, hk⟩
    exact ⟨fun e f he => hf _ (Table.mem_of_get he), fun e k he => hk _ (Table.mem_of_get he)⟩
  · rintro ⟨hf, hk⟩
    exact ⟨fun x hx => hf x.1 x.2 (Table.get_of_mem hfeeds hx), fun x hx => hk x.1 x.2 (Table.get_of_mem hsinks hx)⟩

/-- Settles O29: the checks in order, each a refusal; past them the region is set and the record DONE. -/
theorem regionRecord : Obligations.RegionRecord := by
  intro s b ha hr hp
  obtain ⟨hcalm, -, hroom⟩ := (s.atRest_iff 1).1 hr
  refine ⟨?_, fun i => ⟨rfl, fun hfeeds hsinks => refCount_eq_zero_iff hfeeds hsinks i⟩⟩
  have hrefused : ∀ r, (s.fetched b).regionRefusal b = some r → exec (.region b) s = .next (s.refused b r) := by
    intro r h
    rw [exec_region_posted ha hp, State.dispatchRegion, h, settle_refuse s b hr]
  extract_lets i r old
  have hchecks : (s.fetched b).regionRefusal b = if 8 ≤ i ∨ 3 < r.rights then some .badField
      else if r.shapeValid = false then some .badField else if r ≠ old ∧ s.refCount i ≠ 0 then some .regionInUse else none := rfl
  by_cases hfields : 8 ≤ i ∨ 3 < r.rights
  · rw [if_pos hfields, hrefused .badField (by rw [hchecks, if_pos hfields])]
  · rw [if_neg hfields] at hchecks ⊢
    by_cases hshape : r.shapeValid = false
    · rw [hrefused .badField (by rw [hchecks, if_pos hshape])]
      rcases (shapeValid_eq_false_iff r).mp hshape with hdisabled | henabled
      · rw [if_pos hdisabled]
      · rw [if_neg (fun h => henabled.1 h.1), if_pos henabled]
    · rw [if_neg hshape] at hchecks
      rw [shapeValid_eq_false_iff, not_or] at hshape
      rw [if_neg hshape.1, if_neg hshape.2]
      by_cases huse : r ≠ old ∧ s.refCount i ≠ 0
      · rw [if_pos huse, hrefused .regionInUse (by rw [hchecks, if_pos huse])]
      · rw [if_neg huse] at hchecks ⊢
        rw [exec_region_posted ha hp, State.dispatchRegion, hchecks]
        exact congrArg Host.Outcome.next (settle_regionSet hcalm hroom _)

end Sys2Proof.Machine
end


section
/-! PROOFS. Why a FEED or a SINK is refused (R78, R82), and when it blocks the Walker (R85, R177). -/

namespace Sys2Proof.Machine

/-! ### The checks of a FEED and of a SINK -/

theorem runFieldsValid_eq_false_iff (b : List Byte) : runFieldsValid b = false ↔
    64 ≤ recContext b ∨ 24 ≤ recFragment b ∨ recCount b = 0 ∨ 64 < recCount b := by
  simp only [runFieldsValid, Bool.and_eq_false_iff, decide_eq_false_iff_not]
  simp only [Config.slotCount, Config.fragmentCount]
  omega

/-- The refusal that a check answers, if it answers one. -/
def Verdict.reason : Verdict → Option Reason
  | .refuse r => some r
  | .accept _ _ => none

theorem refuse_of_reason {v : Verdict} {r : Reason} (h : v.reason = some r) : v = .refuse r := by
  cases v <;> cases h
  rfl

/-- The owner's check of a FEED answers the first check of R78 that fails. -/
theorem checkFeed_reason (s : State) (b : List Byte) : (s.checkFeed b).reason = s.feedReason b := by
  simp only [State.checkFeed, State.feedReason, State.namedContext, runFieldsValid_eq_false_iff, apply_ite Verdict.reason]
  refine ite_congr rfl (fun _ => rfl) (fun _ => ?_)
  cases s.ctxs.get (recContext b) with
  | none => rfl
  | some c =>
    by_cases hstripe : c.geo.stripe = recStripe b
    · simp only [hstripe, if_true, ne_eq, not_true_eq_false, if_false, apply_ite Verdict.reason]
      cases addressRegion s.ctl.regions false (recBuffer b) (recCount b * c.geo.unitSize) <;> rfl
    · simp only [hstripe, if_false, ne_eq, not_false_eq_true, if_true]
      rfl

/-- The owner's check of a SINK answers the first check of R82 that fails. -/
theorem checkSink_reason (s : State) (b : List Byte) : (s.checkSink b).reason = s.sinkReason b := by
  simp only [State.checkSink, State.sinkReason, State.namedContext, runFieldsValid_eq_false_iff, apply_ite Verdict.reason]
  refine ite_congr rfl (fun _ => rfl) (fun _ => ?_)
  cases s.ctxs.get (recContext b) with
  | none => rfl
  | some c =>
    by_cases hstripe : c.geo.stripe = recStripe b
    · simp only [hstripe, if_true, ne_eq, not_true_eq_false, if_false, apply_ite Verdict.reason]
      cases addressRegion s.ctl.regions true (recBuffer b) (recCount b * c.geo.unitSize) with
      | none => rfl
      | some region => simp only [apply_ite Verdict.reason]; rfl
    · simp only [hstripe, if_false, ne_eq, not_false_eq_true, if_true]
      rfl

theorem checkFeed_of_feedPasses {s : State} {b : List Byte} {c : Ctx} {r : Nat} (h : s.feedPasses b c r) : s.checkFeed b = .accept c r := by
  obtain ⟨hctx, hfrag, hone, hmany, hc, hstripe, hstate, habsent, htarget, hrange, haddress⟩ := h
  have hfields : ¬ runFieldsValid b = false := by
    rw [runFieldsValid_eq_false_iff]
    omega
  rw [State.checkFeed, if_neg hfields, namedContext_eq_some hc hstripe]
  dsimp only
  rw [if_neg hstate, if_neg (not_or.mpr ⟨habsent, htarget⟩), if_neg (Nat.not_lt.mpr hrange), haddress]

/-! ### What the checks decide -/

theorem dispatchFeed_refused {s : State} {b : List Byte} {r : Reason} (h : s.feedReason b = some r) : s.dispatchFeed b = s.refuseRecord r := by
  rw [State.dispatchFeed, refuse_of_reason ((checkFeed_reason s b).trans h)]

theorem dispatchSink_refused {s : State} {b : List Byte} {r : Reason} (h : s.sinkReason b = some r) : s.dispatchSink b = s.refuseRecord r := by
  rw [State.dispatchSink, refuse_of_reason ((checkSink_reason s b).trans h)]

theorem dispatchFeed_blocked {s : State} {b : List Byte} {c : Ctx} {r : Nat} (h : s.feedPasses b c r)
    (hfull : 1280 ≤ s.statusTotal ∨ (c.role (recFragment b) ≠ .failed ∧ s.feeds.lowestFree 1024 = none)) : s.dispatchFeed b = s.block := by
  simp only [State.dispatchFeed, checkFeed_of_feedPasses h]
  rcases hfull with hstatuses | ⟨hrole, hentries⟩
  · exact if_pos hstatuses
  · have hentries' : s.feeds.lowestFree Config.feedEntries = none := hentries
    rw [if_neg hrole, hentries', ite_self]

theorem dispatchFeed_failed {s : State} {b : List Byte} {c : Ctx} {r : Nat} (h : s.feedPasses b c r) (hroom : s.statusTotal < 1280)
    (hrole : c.role (recFragment b) = .failed) : s.dispatchFeed b = s.acceptFailedFeed b := by
  have hroom' : ¬ Config.statusBound ≤ s.statusTotal := Nat.not_le.mpr hroom
  simp only [State.dispatchFeed, checkFeed_of_feedPasses h, if_neg hroom', if_pos hrole]

theorem dispatchFeed_accepted {s : State} {b : List Byte} {c : Ctx} {r e : Nat} (h : s.feedPasses b c r) (hroom : s.statusTotal < 1280)
    (hrole : c.role (recFragment b) ≠ .failed) (hfree : s.feeds.lowestFree 1024 = some e) : s.dispatchFeed b = s.acceptFeed b r e := by
  have hroom' : ¬ Config.statusBound ≤ s.statusTotal := Nat.not_le.mpr hroom
  have hfree' : s.feeds.lowestFree Config.feedEntries = some e := hfree
  simp only [State.dispatchFeed, checkFeed_of_feedPasses h, if_neg hroom', if_neg hrole, hfree']

/-! ### A posted FEED -/

theorem dispatch_feed {s : State} (h : recKind s.walker.buffer = 2) : s.dispatch = s.dispatchFeed s.walker.buffer := by
  simp only [State.dispatch, h]

/-- A posted FEED record arrives: its owner checks it, and the event is settled. -/
theorem exec_feed_posted {s : State} {b : List Byte} (ha : s.awaitsRecord = true) (hp : postedRecord 2 b = true) :
    exec (.feed b) s = .next ((s.fetched b).dispatchFeed b).settle := by
  show Host.Outcome.next (s.recordArrived (withKind 2 b)) = _
  rw [recordArrived_posted s b 2 ha hp (by omega) (by omega), dispatch_feed (recKind_posted 2 b hp)]
  rfl

/-- Settles O33: the owner's check is the first reason of the record, and a refusal is all that follows. -/
theorem feedAndSinkRefused : Obligations.FeedAndSinkRefused := by
  refine ⟨fun s b ha hr hp r h => ?_, fun s b ha hr hp r h => ?_⟩
  · rw [exec_feed_posted ha hp, dispatchFeed_refused (s := s.fetched b) h, settle_refuse s b hr]
  · rw [exec_sink_posted ha hp, dispatchSink_refused (s := s.fetched b) h, settle_refuse s b hr]

end Sys2Proof.Machine
end


section
/-! PROOFS. A record TAKEN (R172), whatever its owner then does to contexts, entries and statuses: how its event ends (R66, R91, R135, R136). -/

namespace Sys2Proof.Machine

/-! ### Placing writes for a Walker that is not BLOCKED -/

theorem slotPlaced_walker (s : State) (i : Nat) : (s.slotPlaced i).walker = s.walker := by
  unfold State.slotPlaced State.freeContext
  split
  · rfl
  · exact modCtx_walker _ i _
  · split <;> rfl
  · rfl

theorem placed_walker {s : State} {w : Writer} (hw : w ≠ .walker) (hstate : s.walker.state ≠ .blocked) : (s.placed w).walker = s.walker := by
  cases w with
  | walker => exact absurd rfl hw
  | registry => exact if_neg hstate
  | emit => rw [State.placed]; split <;> rfl
  | control => rw [State.placed]; split <;> rfl
  | slot i => exact slotPlaced_walker s i

/-- A Walker with nothing ready, and not BLOCKED, sees nothing of what the others place. -/
theorem offerReady_walkerSame {s : State} (hready : s.walker.ready = none) (hstate : s.walker.state ≠ .blocked) :
    s.offerReady.walker = s.walker := by
  refine offerReady_induct (P := fun t => t.walker = s.walker) (fun t w q hq ht => ?_) (fun _ _ ht => ht) (fun _ _ ht => ht) s rfl
  have hw : w ≠ .walker := by
    rintro rfl
    have hnext : t.walker.ready = some q := nextWrite_of_placeable hq
    rw [ht, hready] at hnext
    cases hnext
  exact (placed_walker hw (by rw [ht]; exact hstate)).trans ht

/-! ### The record's TAKEN is readied, and its owner acts -/

theorem handle_notBlocked (w : Walker) (d : Disposition) (reason : Nat) (result : List Byte) :
    (w.handle d reason result).state ≠ .blocked := by
  show (if w.stopping = true then WalkerState.idle else .fetching) ≠ .blocked
  split <;> decide

/-- `v` is `s` with the TAKEN of its record readied and what the record's owner then did: contexts, entries, statuses, and positions sent to
the Emit Unit or taken by it. -/
structure RecordTaken (s v : State) : Prop where
  apart : ∃ ctxs feeds sinks statuses queue emit, v = { s.handle .taken 0 [] with
    ctxs := ctxs, feeds := feeds, sinks := sinks, statusQueue := statuses, emitQueue := queue, emit := emit }

/-- The event of `v` has ended in `t`: the TAKEN is placed first, then what else was ready. -/
structure TakenPlaced (s v t : State) : Prop where
  walker : t.walker = (s.concluded .taken [outcomeBytes s.walker.next 1 0]).walker
  writes : ∃ more, t.port.writeQueue = s.port.writeQueue ++ takenWrite s.walker.next :: more ∧
    ∀ x, v.statusQueue = [x] → t.statusQueue = [x] ∨ x.toWrite ∈ more
  ctxs : ∀ i, (t.ctxs.get i).map Ctx.steady = (v.ctxs.get i).map Ctx.steady
  feeds : t.feeds = v.feeds
  sinks : t.sinks = v.sinks
  emitQueue : t.emitQueue = v.emitQueue
  emitOf : t.emitOf = v.emitOf
  store : t.store = s.store
  staging : t.port.staging = s.port.staging
  ctl : t.ctl = s.ctl
  gov : t.gov = s.gov

theorem RecordTaken.placed {s v : State} (h : RecordTaken s v) (hcalm : Calm s) :
    TakenPlaced s v (v.walkerPlaced (takenWrite s.walker.next)).offerReady := by
  obtain ⟨ctxs, feeds, sinks, statuses, queue, emit, hv⟩ := h.apart
  obtain ⟨x, hx⟩ : ∃ x, x = v.walkerPlaced (takenWrite s.walker.next) := ⟨_, rfl⟩
  rw [← hx]
  have hplacing := offerReady_placing x
  have hwalker : x.offerReady.walker = x.walker :=
    offerReady_walkerSame (by rw [hx]; rfl) (by rw [hx, hv]; exact handle_notBlocked s.walker .taken 0 [])
  obtain ⟨more, hqueue, hstatus⟩ := offerReady_status x
  have hready : x.ready.rows = [] := by rw [hx, hv]; exact hcalm.ready
  refine ⟨?_, ⟨more, ?_, fun y hy => hstatus y (by rw [hx]; exact hy)⟩, fun i => ?_, ?_, ?_, ?_, ?_, ?_, ?_, ?_, ?_⟩
  · rw [hwalker, hx, hv]; rfl
  · rw [hqueue, hx, hv]; exact List.append_assoc _ _ _
  · rw [hplacing.ctx_steady (fun hi => holds_of_progressAlone (calm_progressAlone hready) hi), hx]; rfl
  · exact (congrArg State.feeds hplacing.steady :).trans (by rw [hx]; rfl)
  · exact (congrArg State.sinks hplacing.steady :).trans (by rw [hx]; rfl)
  · exact hplacing.emitQueue.trans (by rw [hx]; rfl)
  · rw [offerReady_emitOf, hx]; rfl
  · exact hplacing.store.trans (by rw [hx, hv]; rfl)
  · exact (congrArg (fun y : State => y.port.staging) hplacing.steady :).trans (by rw [hx, hv]; rfl)
  · rw [offerReady_ctl (by rw [hx, hv]; exact hcalm.owed) (by rw [hx, hv]; exact hcalm.messages), hx, hv]; rfl
  · exact (congrArg State.gov hplacing.steady :).trans (by rw [hx, hv]; rfl)

/-- The event ends: the Emit Unit takes what it can, then the TAKEN is placed before all else. -/
theorem settle_taken {s u : State} (hcalm : Calm s) (hroom : s.port.writeQueue.length + 1 ≤ 64) (hu : RecordTaken s u)
    (htake : RecordTaken s u.takeEmit) : u.settle = (u.takeEmit.walkerPlaced (takenWrite s.walker.next)).offerReady := by
  obtain ⟨_, _, _, _, _, _, hu⟩ := hu.apart
  obtain ⟨_, _, _, _, _, _, htake⟩ := htake.apart
  rw [State.settle, startSolve_idle (by rw [hu]; exact hcalm.solves), takeCombine_idle (by rw [hu]; exact hcalm.combines)]
  exact offerReady_walker (by rw [htake]; exact hcalm.line) (by rw [htake]; rfl) (by rw [htake]; exact hroom)

end Sys2Proof.Machine
end


section
/-! PROOFS. A FEED accepted: its segments classified (R53, R80), or all of them unused for a FAILED fragment (R81). -/

namespace Sys2Proof.Machine

/-! ### What classifying touches -/

/-- Between `s` and `t` only contexts, Feed entries and statuses have changed. -/
structure FeedsOnly (s t : State) : Prop where
  apart : ∃ ctxs feeds statuses, t = { s with ctxs := ctxs, feeds := feeds, statusQueue := statuses }

theorem FeedsOnly.refl (s : State) : FeedsOnly s s := ⟨_, _, _, rfl⟩

theorem FeedsOnly.trans {s t u : State} (h1 : FeedsOnly s t) (h2 : FeedsOnly t u) : FeedsOnly s u := by
  obtain ⟨_, _, _, rfl⟩ := h1.apart
  obtain ⟨_, _, _, rfl⟩ := h2.apart
  exact ⟨_, _, _, rfl⟩

theorem FeedsOnly.walker {s t : State} (h : FeedsOnly s t) : t.walker = s.walker := by
  obtain ⟨_, _, _, rfl⟩ := h.apart
  rfl

theorem modCtx_feedsOnly (s : State) (i : Nat) (f : Ctx → Ctx) : FeedsOnly s (s.modCtx i f) := by
  unfold State.modCtx
  split <;> exact ⟨_, _, _, rfl⟩

/-- A Walker that is not BLOCKED is told of no room. -/
theorem finaliseFeed_feedsOnly {s : State} (hstate : s.walker.state ≠ .blocked) (e : Nat) (f : FeedEntry) : FeedsOnly s (s.finaliseFeed e f) := by
  have hlist := modCtx_feedsOnly s f.ctx (fun c => { c with feedList := c.feedList.filter (· ≠ e) })
  refine hlist.trans ?_
  unfold State.finaliseFeed State.reportRoom
  rw [if_neg (fun h => hstate (by rw [← hlist.walker]; exact h.1))]
  exact ⟨_, _, _, rfl⟩

theorem feedOutcome_feedsOnly {s : State} (hstate : s.walker.state ≠ .blocked) (e : Nat) (o : FeedOutcome) : FeedsOnly s (s.feedOutcome e o) := by
  cases hf : s.feeds.get e with
  | none => rw [feedOutcome_none hf]; exact .refl s
  | some f =>
    rw [feedOutcome_some hf]
    split
    · exact finaliseFeed_feedsOnly hstate e _
    · exact ⟨_, _, _, rfl⟩

/-- A count in a context, and the outcome handed for it. -/
theorem counted_feedsOnly {s : State} (hstate : s.walker.state ≠ .blocked) (i e : Nat) (f : Ctx → Ctx) (o : FeedOutcome) :
    FeedsOnly s ((s.modCtx i f).feedOutcome e o) :=
  (modCtx_feedsOnly s i f).trans (feedOutcome_feedsOnly (by rw [(modCtx_feedsOnly s i f).walker]; exact hstate) e o)

theorem classify_feedsOnly {s : State} (hstate : s.walker.state ≠ .blocked) (i e f seg : Nat) : FeedsOnly s (s.classify i e f seg) := by
  obtain hnone | hlate | hunused | hduplicate | ⟨_, _, -, -, hlogged⟩ := (classify_cases s i e f seg).cases
  · rw [hnone]; exact .refl s
  · rw [hlate]; exact counted_feedsOnly hstate i e _ _
  · rw [hunused]; exact feedOutcome_feedsOnly hstate e _
  · rw [hduplicate]; exact counted_feedsOnly hstate i e _ _
  · rw [hlogged]; exact modCtx_feedsOnly s i _

theorem classifyRun_feedsOnly (i e f n : Nat) (seg : Nat) {s : State} (hstate : s.walker.state ≠ .blocked) :
    FeedsOnly s (State.classifyRun i e f n seg s) := by
  induction n generalizing seg s with
  | zero => exact .refl s
  | succ n ih =>
    have hfirst := classify_feedsOnly hstate i e f seg
    exact hfirst.trans (ih (seg + 1) (by rw [hfirst.walker]; exact hstate))

/-! ### Classifying reads contexts and Feed entries alone -/

/-- The two states have the same contexts and Feed entries. -/
structure SameFeeds (s t : State) : Prop where
  ctxs : t.ctxs = s.ctxs
  feeds : t.feeds = s.feeds

/-- A relation of two choices by one condition, from the relation of what each branch chooses. -/
theorem ite_rel {α : Type} {R : α → α → Prop} {p : Prop} [Decidable p] {a b a' b' : α} (hthen : R a a') (helse : R b b') :
    R (if p then a else b) (if p then a' else b') := by
  split
  · exact hthen
  · exact helse

section SameFeeds

variable {s t : State} (h : SameFeeds s t)
include h

theorem SameFeeds.modCtx (i : Nat) (f : Ctx → Ctx) : SameFeeds (s.modCtx i f) (t.modCtx i f) := by
  refine ⟨?_, by rw [modCtx_feeds, modCtx_feeds, h.feeds]⟩
  unfold State.modCtx
  rw [h.ctxs]
  cases s.ctxs.get i with
  | none => exact h.ctxs
  | some c => rfl

theorem SameFeeds.feedOutcome (e : Nat) (o : FeedOutcome) : SameFeeds (s.feedOutcome e o) (t.feedOutcome e o) := by
  refine ⟨?_, feedOutcome_feeds_congr h.feeds e o⟩
  cases hf : s.feeds.get e with
  | none => rw [feedOutcome_none hf, feedOutcome_none (h.feeds ▸ hf), h.ctxs]
  | some f =>
    rw [feedOutcome_some hf, feedOutcome_some (h.feeds ▸ hf)]
    split
    · rw [finaliseFeed_ctxs, finaliseFeed_ctxs, (h.modCtx _ _).ctxs]
    · exact h.ctxs

theorem SameFeeds.classify (i e f seg : Nat) : SameFeeds (s.classify i e f seg) (t.classify i e f seg) := by
  have hlate : SameFeeds (s.countLate i e) (t.countLate i e) := (h.modCtx i _).feedOutcome e _
  have hduplicate : SameFeeds (s.countDuplicate i e) (t.countDuplicate i e) := (h.modCtx i _).feedOutcome e _
  have hlogged : SameFeeds (s.putEntry i seg f (some ⟨.logged, e, false⟩)) (t.putEntry i seg f (some ⟨.logged, e, false⟩)) := h.modCtx i _
  unfold State.classify
  rw [h.ctxs]
  cases s.ctxs.get i with
  | none => exact h
  | some c =>
    refine ite_rel h (ite_rel hlate (ite_rel h ?_))
    cases c.holding seg with
    | none => exact h
    | some p =>
      refine ite_rel hlate (ite_rel (h.feedOutcome e .unused) ?_)
      cases p.row.get f with
      | none => exact hlogged
      | some en =>
        dsimp only
        cases en.state with
        | logged => exact hduplicate
        | inflight => exact hduplicate
        | contributed => exact hduplicate
        | refused => exact hlogged
        | readFailed => exact hlogged

end SameFeeds

theorem SameFeeds.classifyRun (i e f n : Nat) (seg : Nat) {s t : State} (h : SameFeeds s t) :
    SameFeeds (State.classifyRun i e f n seg s) (State.classifyRun i e f n seg t) := by
  induction n generalizing seg s t with
  | zero => exact h
  | succ n ih => exact ih (seg + 1) (h.classify i e f seg)

/-! ### The entry of an accepted FEED, settled -/

/-- The accepted FEED's entry, before its segments are classified. -/
def State.feedEntered (s : State) (b : List Byte) (c : Ctx) (r e : Nat) : State :=
  { s with
    feeds := s.feeds.set e (newFeed s.walker.next b r)
    ctxs := s.ctxs.set (recContext b) { c with feedList := c.feedList ++ [e] } }

theorem acceptFeed_eq {s : State} {b : List Byte} {c : Ctx} (hc : s.ctxs.get (recContext b) = some c) (r e : Nat) :
    s.acceptFeed b r e = State.classifyRun (recContext b) e (recFragment b) (recCount b) (recFirst b)
      ((s.feedEntered b c r e).handle .taken 0 []) := by
  have hlisted : State.modCtx { s.handle .taken 0 [] with feeds := s.feeds.set e (newFeed s.walker.next b r) } (recContext b)
      (fun c => { c with feedList := c.feedList ++ [e] }) = (s.feedEntered b c r e).handle .taken 0 [] := by
    have hc' : ({ s.handle .taken 0 [] with feeds := s.feeds.set e (newFeed s.walker.next b r) } : State).ctxs.get (recContext b) = some c := hc
    simp only [State.modCtx, hc']
    rfl
  exact congrArg (State.classifyRun (recContext b) e (recFragment b) (recCount b) (recFirst b)) hlisted

/-- A FEED accepted in a calm state is TAKEN into its entry, and its segments are classified: as they are from any state `s'` with the same
contexts, Feed entries and record address. -/
theorem acceptFeed_taken {s s' : State} {b : List Byte} {c : Ctx} {r e : Nat} (hcalm : Calm s) (hroom : s.port.writeQueue.length + 1 ≤ 64)
    (hc : s.ctxs.get (recContext b) = some c) (hctxs : s'.ctxs = s.ctxs) (hfeeds : s'.feeds = s.feeds)
    (hnext : s'.walker.next = s.walker.next) :
    let t := (s.acceptFeed b r e).settle
    let u := State.classifyRun (recContext b) e (recFragment b) (recCount b) (recFirst b) (s'.feedEntered b c r e)
    t.feeds = u.feeds ∧ u.ctxsSteady t ∧ t.walker = (s.concluded .taken [outcomeBytes s.walker.next 1 0]).walker ∧
    (∃ more, t.port.writeQueue = s.port.writeQueue ++ takenWrite s.walker.next :: more) ∧
    t.sinks = s.sinks ∧ t.store = s.store ∧ t.port.staging = s.port.staging ∧ t.ctl = s.ctl ∧ t.gov = s.gov := by
  obtain ⟨v, hv⟩ : ∃ v, v = s.acceptFeed b r e := ⟨_, rfl⟩
  have hentered := acceptFeed_eq hc r e
  obtain ⟨ctxs, feeds, statuses, hapart⟩ := (classifyRun_feedsOnly (recContext b) e (recFragment b) (recCount b) (recFirst b)
    (s := (s.feedEntered b c r e).handle .taken 0 []) (handle_notBlocked s.walker .taken 0 [])).apart
  rw [← hentered, ← hv] at hapart
  have htaken : RecordTaken s v := ⟨_, _, _, _, _, _, hapart⟩
  have hidle : v.takeEmit = v := takeEmit_idle (by rw [hapart]; exact hcalm.emits)
  have hplaced := htaken.placed hcalm
  have hsettle := settle_taken hcalm hroom htaken (by rw [hidle]; exact htaken)
  rw [hidle] at hsettle
  rw [← hv, hsettle]
  have hsame : SameFeeds (State.classifyRun (recContext b) e (recFragment b) (recCount b) (recFirst b) (s'.feedEntered b c r e)) v := by
    rw [hv, hentered]
    refine SameFeeds.classifyRun _ _ _ _ _ ⟨?_, ?_⟩
    · rw [State.feedEntered, State.feedEntered, hctxs]
      rfl
    · rw [State.feedEntered, State.feedEntered, hfeeds, hnext]
      rfl
  obtain ⟨more, hqueue, -⟩ := hplaced.writes
  exact ⟨hplaced.feeds.trans hsame.feeds, fun i => .inl ((hplaced.ctxs i).trans (by rw [hsame.ctxs])), hplaced.walker, ⟨more, hqueue⟩,
    hplaced.sinks.trans (by rw [hapart]; rfl), hplaced.store, hplaced.staging, hplaced.ctl, hplaced.gov⟩

/-! ### A FEED for a FAILED fragment -/

theorem feedResult_unused (n : Nat) :
    feedResult { FeedCounts.zero with unused := n } = List.replicate 10 0 ++ toLE 2 n ++ List.replicate 4 0 := by
  simp [feedResult, FeedCounts.zero, toLE]

/-- The status of a FEED whose every segment is unused. -/
def unusedStatus (addr : Word64) (b : List Byte) : Status :=
  { addr := addr, notify := recNotify b, ctx := recContext b, result := feedResult { FeedCounts.zero with unused := recCount b } }

theorem unusedStatus_toWrite (addr : Word64) (b : List Byte) : (unusedStatus addr b).toWrite =
    { writer := .registry, kind := .final (recNotify b),
      spans := [outcomeBytes addr 2 0,
        { addr := addr.toNat + 48, bytes := List.replicate 10 0 ++ toLE 2 (recCount b) ++ List.replicate 4 0 }] } := by
  rw [Status.toWrite_eq _ (feedResult_ne_nil _), unusedStatus, feedResult_unused]

/-- With one status ready, a free place and a Walker that is not BLOCKED, the Registry places it and that is all. -/
theorem offer_oneStatus {s : State} {y : Status} (hline : s.port.claimLine = []) (hready : s.walker.ready = none)
    (hstate : s.walker.state ≠ .blocked) (hfree : 1 ≤ s.freePlaces) (hy : s.statusQueue = [y]) : s.offer .registry =
      { s with statusQueue := [], port := { s.port with writeQueue := s.port.writeQueue ++ [y.toWrite] } } := by
  have hdrop : [y].drop s.freePlaces = [] := List.drop_eq_nil_of_le hfree
  have htake : [y].take s.freePlaces = [y] := List.take_of_length_le hfree
  rw [offer_registry s hline hready, hy, if_pos hdrop, State.statusesPlaced, hy, hdrop, htake, decide_eq_false hstate, Bool.false_and,
    Bool.or_false]
  rfl

/-- It is TAKEN and at once final, both writes placed (R81, R91). -/
theorem settle_acceptFailedFeed {s : State} {b : List Byte} (hcalm : Calm s) (hroom : s.port.writeQueue.length + 2 ≤ 64) :
    (s.acceptFailedFeed b).settle =
      (let t := s.concluded .taken [outcomeBytes s.walker.next 1 0]
       { t with port := { t.port with writeQueue := t.port.writeQueue ++
           [{ writer := .registry, kind := .final (recNotify b),
              spans := [outcomeBytes s.walker.next 2 0,
                { addr := s.walker.next.toNat + 48,
                  bytes := List.replicate 10 0 ++ toLE 2 (recCount b) ++ List.replicate 4 0 }] }] } }) := by
  obtain ⟨y, hy⟩ : ∃ y, y = unusedStatus s.walker.next b := ⟨_, rfl⟩
  have hapart : s.acceptFailedFeed b = { s.handle .taken 0 [] with statusQueue := [y] } := by
    rw [State.acceptFailedFeed, handle_statusQueue, hcalm.statuses, hy]
    rfl
  have htaken : RecordTaken s (s.acceptFailedFeed b) := ⟨_, _, _, _, _, _, hapart⟩
  have hidle : (s.acceptFailedFeed b).takeEmit = s.acceptFailedFeed b := takeEmit_idle (by rw [hapart]; exact hcalm.emits)
  have hsettle := settle_taken hcalm (by omega) htaken (by rw [hidle]; exact htaken)
  rw [hidle, hapart] at hsettle
  obtain ⟨x, hx⟩ : ∃ x, x = ({ s.handle .taken 0 [] with statusQueue := [y] } : State).walkerPlaced (takenWrite s.walker.next) := ⟨_, rfl⟩
  have hplaces : 1 ≤ x.freePlaces := by
    rw [hx]
    show 1 ≤ 64 - (s.port.writeQueue ++ [takenWrite s.walker.next]).length
    rw [List.length_append, List.length_singleton]
    omega
  have hready : x.walker.ready = none := by rw [hx]; rfl
  have hline : x.port.claimLine = [] := by rw [hx]; exact hcalm.line
  rw [hapart, hsettle, ← hx, offerReady_registry hline (by rw [hx]; exact hcalm.ready) (by rw [hx]; exact hcalm.owed)
    (by rw [hx]; exact hcalm.messages) (by rw [hx]; exact hcalm.units) hready,
    offer_oneStatus hline hready (by rw [hx]; exact handle_notBlocked s.walker .taken 0 []) hplaces (by rw [hx]; rfl),
    hy, unusedStatus_toWrite, hx, State.concluded, ← hcalm.statuses]
  rfl

end Sys2Proof.Machine
end


section
/-! PROOFS. A posted FEED that passes its checks (R80, R81, R85). -/

namespace Sys2Proof.Machine

/-- Settles O34: blocked, TAKEN and at once final for a FAILED fragment, or TAKEN into the lowest free entry and classified. -/
theorem feedAccepted : Obligations.FeedAccepted := by
  intro s b c r ha hr hp hpass
  obtain ⟨hcalm, hready, hroom⟩ := (s.atRest_iff 2).1 hr
  obtain ⟨hfetching, -⟩ := awaitsRecord_walker ha
  obtain ⟨-, -, -, -, hc, -⟩ := id hpass
  have hpass' : (s.fetched b).feedPasses b c r := hpass
  refine ⟨fun hfull => ?_, fun htotal hrole => ?_, fun e htotal hrole hfree => ?_, fun _ _ _ _ _ _ => ⟨rfl, rfl⟩⟩
  · rw [exec_feed_posted ha hp, dispatchFeed_blocked hpass' hfull, block_of_fetching hfetching, settle_calm _ (calm_blockedOn hcalm b) hready]
  · rw [exec_feed_posted ha hp, dispatchFeed_failed hpass' htotal hrole, settle_acceptFailedFeed (calm_fetched s b hcalm) hroom]
    rfl
  · obtain ⟨hcap, hnone⟩ := Table.lowestFree_some hfree
    have hexec := exec_feed_posted ha hp
    rw [dispatchFeed_accepted hpass' htotal hrole hfree] at hexec
    obtain ⟨hfeeds, hctxs, hwalker, ⟨more, hqueue⟩, hrest⟩ := acceptFeed_taken (s := s.fetched b) (s' := s) (r := r) (e := e)
      (calm_fetched s b hcalm) (Nat.le_of_succ_le hroom) hc rfl rfl rfl
    exact ⟨_, more, hexec, hcap, hnone, hfeeds, hctxs, hwalker, hqueue, hrest⟩

end Sys2Proof.Machine
end


section
/-! PROOFS. A SINK accepted in any calm state, its record fetched just now or checked again (R63 to R66, R83, R85). -/

namespace Sys2Proof.Machine

/-! ### The entry, listed and counted -/

/-- A Walker that is not BLOCKED is told of no room. -/
theorem finaliseSink_apart {s : State} (hstate : s.walker.state ≠ .blocked) (e : Nat) (k : SinkEntry) :
    ∃ ctxs sinks statuses, s.finaliseSink e k = { s with ctxs := ctxs, sinks := sinks, statusQueue := statuses } := by
  obtain ⟨ctxs, feeds, statuses, hlist⟩ := (modCtx_feedsOnly s k.ctx (fun c => { c with sinkList := c.sinkList.filter (· ≠ e) })).apart
  have hfeeds : feeds = s.feeds := (congrArg State.feeds hlist).symm.trans (modCtx_feeds s k.ctx _)
  rw [State.finaliseSink, hlist, hfeeds]
  exact ⟨_, _, _, if_neg (fun h => hstate h.1)⟩

/-- The record's TAKEN is readied, and its Sink entry is listed in its context and counted: nothing has been bound yet. -/
structure SinkCounted (s u : State) (b : List Byte) (c : Ctx) (r e : Nat) (c' : Ctx) : Prop where
  apart : ∃ ctxs sinks statuses, u = { s.handle .taken 0 [] with ctxs := ctxs, sinks := sinks, statusQueue := statuses }
  ctx : u.ctxs.get (recContext b) = some c'
  bones : c'.bones = c.bones
  slots : c'.slots = c.slots
  held : c.behindBase b < recCount b → c'.sinkList = c.sinkList ++ [e] ∧
    u.sinks = s.sinks.set e ((newSink s.walker.next b r).unwrittenBy (c.behindBase b))
  last : c.behindBase b = recCount b → u.sinks.get e = none ∧ u.statusQueue = s.statusQueue ++ [behindStatus s.walker.next b]

/-- The accepted SINK's entry, listed, the record's TAKEN readied: its run has not been looked at. -/
def State.sinkReadied (s : State) (b : List Byte) (c : Ctx) (r e : Nat) : State :=
  { s.handle .taken 0 [] with
    sinks := s.sinks.set e (newSink s.walker.next b r)
    ctxs := s.ctxs.set (recContext b) { c with sinkList := c.sinkList ++ [e] } }

theorem acceptSink_eq_bindEach {s : State} {b : List Byte} {c : Ctx} (hc : s.ctxs.get (recContext b) = some c) (r e : Nat) :
    s.acceptSink b c r e = State.bindEach (recContext b) e (recFragment b) (c.fullSegs (recFirst b) (recCount b))
      (State.unwrittenRun e (c.behindBase b) (s.sinkReadied b c r e)) := by
  have hlisted : State.modCtx { s.handle .taken 0 [] with sinks := s.sinks.set e (newSink s.walker.next b r) } (recContext b)
      (fun c => { c with sinkList := c.sinkList ++ [e] }) = s.sinkReadied b c r e := by
    have hc' : ({ s.handle .taken 0 [] with sinks := s.sinks.set e (newSink s.walker.next b r) } : State).ctxs.get (recContext b) = some c := hc
    simp only [State.modCtx, hc']
    rfl
  exact congrArg (fun x => State.bindEach (recContext b) e (recFragment b) (c.fullSegs (recFirst b) (recCount b))
    (State.unwrittenRun e (c.behindBase b) x)) hlisted

theorem sinkCounted (s : State) {b : List Byte} (c : Ctx) (hone : 1 ≤ recCount b) (r e : Nat) :
    ∃ c', SinkCounted s (State.unwrittenRun e (c.behindBase b) (s.sinkReadied b c r e)) b c r e c' := by
  have hle : c.behindBase b ≤ recCount b := Nat.min_le_left _ _
  have hctx : (s.sinkReadied b c r e).ctxs.get (recContext b) = some { c with sinkList := c.sinkList ++ [e] } := Table.get_set_same _ _ _
  by_cases hheld : c.behindBase b < recCount b
  · rw [unwrittenRun_held e (c.behindBase b) (s := s.sinkReadied b c r e) rfl hheld]
    exact ⟨_, ⟨_, _, _, rfl⟩, hctx, rfl, rfl, fun _ => ⟨rfl, rfl⟩, fun h => absurd h (by omega)⟩
  · have hall : c.behindBase b = recCount b := by omega
    obtain ⟨n, hn⟩ : ∃ n, recCount b = n + 1 := ⟨recCount b - 1, by omega⟩
    obtain ⟨u, hu, sinks, hsinks⟩ := unwrittenRun_last e n (s := s.sinkReadied b c r e) (k := newSink s.walker.next b r) rfl hn
    obtain ⟨ctxs, sinks', statuses, hfinal⟩ := finaliseSink_apart (s := u) (by rw [hsinks]; exact handle_notBlocked s.walker .taken 0 []) e
      ((newSink s.walker.next b r).unwrittenBy (n + 1))
    rw [hall, hn, hu]
    refine ⟨{ c with sinkList := (c.sinkList ++ [e]).filter (· ≠ e) }, ⟨ctxs, sinks', statuses, ?_⟩, ?_, rfl, rfl,
      fun h => absurd hall (by omega), fun _ => ⟨?_, ?_⟩⟩
    · rw [hfinal, hsinks]
      rfl
    · have hctx' : u.ctxs.get (recContext b) = some { c with sinkList := c.sinkList ++ [e] } := by rw [hsinks]; exact hctx
      rw [finaliseSink_ctxs]
      exact (modCtx_get_same u _ _).trans (congrArg (Option.map _) hctx')
    · rw [finaliseSink_sinks, Table.get_erase_same]
    · rw [finaliseSink_statusQueue, hsinks, ← hn]
      simp only [behindStatus, SinkEntry.unwrittenBy, newSink, sinkResult, Nat.zero_add]
      rfl

/-! ### What binding leaves at each position -/

/-- Every position of the context: outside the run, or not FULL, it stands; a FULL one in the run has the entry bound, and with every target
bound it waits for the Emit Unit or is what the Unit took. -/
theorem BoundTaken.position {u v : State} {i e t first count : Nat} {c c1 c3 : Ctx}
    (h : BoundTaken u v i e t (c.fullSegs first count) c1 c3) (hbones : c1.bones = c.bones) (hslots : c1.slots = c.slots)
    (hseated : c.seated) {seg : Nat} {p : Position} (hp : c.holding seg = some p) :
    (p.state ≠ .full ∨ seg < first ∨ first + count ≤ seg → c3.holding seg = some p) ∧
    (p.state = .full → first ≤ seg → seg < first + count → ∃ p', c3.holding seg = some p' ∧
      p'.row = p.row ∧ p'.binds.get t = some e ∧ (∀ g, g ≠ t → p'.binds.get g = p.binds.get g) ∧
      ((∃ g ∈ c.targets, p'.binds.get g = none) → p'.state = .full ∧ v.emitQueue.count (i, seg) = u.emitQueue.count (i, seg)) ∧
      ((∀ g ∈ c.targets, (p'.binds.get g).isSome = true) →
        (p'.state = .full ∧ (i, seg) ∈ v.emitQueue) ∨
        (p'.state = .emitting ∧ u.emit = none ∧ ∃ left, v.emit = some { ctx := i, seg := seg, targetsLeft := left }))) := by
  have hp1 : c1.holding seg = some p := (holding_of_slots hslots (congrArg Ctx.geo hbones :) seg).trans hp
  refine ⟨fun hout => h.kept seg p hp1 (fun hmem => ?_), fun hfull hlow hhigh => ?_⟩
  · obtain ⟨p', hp', hfull, hlow, hhigh⟩ := (mem_fullSegs hseated).mp hmem
    obtain rfl := Option.some.inj (hp.symm.trans hp')
    rcases hout with hother | hout
    · exact hother hfull
    · omega
  · obtain ⟨p', hp', hrow, hbinds, hpart, hwhole⟩ := h.bound seg p hp1 hfull ((mem_fullSegs hseated).mpr ⟨p, hp, hfull, hlow, hhigh⟩)
    have hall : c1.allBound (p.bound t e) = true ↔ ∀ g ∈ c.targets, (p'.binds.get g).isSome = true := by
      rw [allBound_of_bones hbones, allBound_iff, hbinds]
      rfl
    refine ⟨p', hp', hrow, by rw [hbinds, Table.get_set_same], fun g hg => by rw [hbinds, Table.get_set_other _ hg], ?_,
      fun hevery => hwhole (hall.mpr hevery)⟩
    rintro ⟨g, hg, hunbound⟩
    exact hpart (Bool.eq_false_iff.mpr (fun h => by simpa [hunbound] using hall.mp h g hg))

/-! ### The whole of it, settled -/

theorem bones_of_steady {c c' : Ctx} (h : c'.steady = c.steady) : c'.bones = c.bones ∧ c'.slots = c.slots ∧ c'.sinkList = c.sinkList :=
  ⟨(congrArg Ctx.bones h :), (congrArg Ctx.slots h :), (congrArg Ctx.sinkList h :)⟩

/-- A SINK accepted in a calm state is TAKEN into its entry, bound, and sent to the Emit Unit. -/
theorem acceptSink_sinkTaken {s : State} {b : List Byte} {c : Ctx} {r e : Nat} (hcalm : Calm s) (hroom : s.port.writeQueue.length + 1 ≤ 64)
    (hc : s.ctxs.get (recContext b) = some c) (hone : 1 ≤ recCount b) : s.sinkTaken (s.acceptSink b c r e).settle b c r e := by
  obtain ⟨u, hu⟩ : ∃ u, u = State.unwrittenRun e (c.behindBase b) (s.sinkReadied b c r e) := ⟨_, rfl⟩
  obtain ⟨v, hv⟩ : ∃ v, v = s.acceptSink b c r e := ⟨_, rfl⟩
  obtain ⟨c1, hcounted⟩ := sinkCounted s c hone r e
  obtain ⟨c2, hbound⟩ := bindEach_bound e (recFragment b) (c.fullSegs (recFirst b) (recCount b)) hcounted.ctx
  rw [← acceptSink_eq_bindEach hc, ← hv, ← hu] at hbound
  rw [← hu] at hcounted
  obtain ⟨_, _, _, hapart⟩ := hcounted.apart
  obtain ⟨c3, htaken⟩ := hbound.boundTaken (by rw [hapart]; exact hcalm.emits)
  obtain ⟨_, _, hboundApart⟩ := hbound.apart
  obtain ⟨_, _, _, htakenApart⟩ := htaken.apart
  have hemitting : RecordTaken s v.takeEmit := ⟨_, _, _, _, _, _, by rw [htakenApart, hapart]⟩
  have hplaced := hemitting.placed hcalm
  rw [← hv, settle_taken hcalm hroom ⟨_, _, _, _, _, _, by rw [hboundApart, hapart]⟩ hemitting]
  obtain ⟨c4, hc4, hsteady⟩ : ∃ c4, ((v.takeEmit.walkerPlaced (takenWrite s.walker.next)).offerReady).ctxs.get (recContext b) = some c4 ∧
      c4.steady = c3.steady := by
    have h := hplaced.ctxs (recContext b)
    rw [htaken.ctx] at h
    exact Option.map_eq_some_iff.mp h
  obtain ⟨hbones, hslots, hlist⟩ := bones_of_steady hsteady
  obtain ⟨more, hqueue, hstatus⟩ := hplaced.writes
  have hsinks : v.takeEmit.sinks = u.sinks := by rw [htakenApart]
  refine ⟨c4, more, hc4, hbones.trans (htaken.same.bones.trans hcounted.bones), fun hbehind => ?_, fun hbehind => ?_, hqueue,
    fun hseated seg p hp => ?_, ?_, hplaced.store, hplaced.staging, hplaced.ctl, hplaced.gov⟩
  · obtain ⟨hlisted, hentry⟩ := hcounted.held hbehind
    exact ⟨hlist.trans (htaken.same.sinkList.trans hlisted), hplaced.sinks.trans (hsinks.trans (hentry.trans (by
      simp [SinkEntry.unwrittenBy, newSink, Ctx.behindBase])))⟩
  · obtain ⟨hgone, hline⟩ := hcounted.last hbehind
    refine ⟨by rw [hplaced.sinks, hsinks]; exact hgone, fun result hresult => ?_⟩
    rw [hcalm.statuses, List.nil_append] at hline
    subst hresult
    refine (hstatus _ ((by rw [htakenApart] : v.takeEmit.statusQueue = u.statusQueue).trans hline)).imp id (fun hmem => ?_)
    rwa [Status.toWrite_eq _ (by simp [behindStatus, toLE])] at hmem
  · have hidle : u.emit = s.emit := by rw [hapart]; rfl
    have hwaiting : u.emitQueue = s.emitQueue := by rw [hapart]; rfl
    have hposition := htaken.position hcounted.bones hcounted.slots hseated hp
    rw [holding_of_slots hslots (congrArg Ctx.geo hbones :), hplaced.emitQueue, ← hwaiting, ← hidle]
    refine hposition.imp id (fun hbind hfull hlow hhigh => ?_)
    obtain ⟨p', hp', hrow, hthis, hother, hpart, hwhole⟩ := hbind hfull hlow hhigh
    refine ⟨p', hp', hrow, hthis, hother, hpart, fun hevery => (hwhole hevery).imp id ?_⟩
    rintro ⟨hstate, hnone, left, hleft⟩
    exact ⟨hstate, hnone, emit_of_emitOf (hplaced.emitOf.trans (by rw [State.emitOf, hleft]; rfl))⟩
  · exact hplaced.feeds.trans (by rw [htakenApart, hapart]; rfl)

end Sys2Proof.Machine
end


section
/-! PROOFS. The record of a BLOCKED Walker checked again in full (R85, R178). -/

namespace Sys2Proof.Machine

/-- The room reported has been seen: the record of the BLOCKED Walker is about to be checked again. -/
def State.roomTaken (s : State) : State := { s with walker := { s.walker with room := false } }

theorem calm_roomTaken {s : State} (h : Calm s) : Calm s.roomTaken :=
  ⟨h.line, h.statuses, h.ready, h.owed, h.messages, h.units, h.emits, h.solves, h.combines⟩

theorem block_of_blocked {s : State} (h : s.walker.state = .blocked) : s.block = s := if_pos h

/-! ### The command -/

theorem exec_blockedRecheck_noRoom {s : State} (h : s.walker.room = false) : exec .blockedRecheck s = .next s :=
  congrArg Host.Outcome.next (if_neg (fun hdue => Bool.eq_false_iff.mp h hdue.2))

theorem exec_blockedRecheck_room {s : State} (hstate : s.walker.state = .blocked) (hroom : s.walker.room = true) :
    exec .blockedRecheck s = .next s.roomTaken.recheck.settle :=
  congrArg Host.Outcome.next (if_pos ⟨hstate, hroom⟩)

theorem recheck_feed {s : State} (h : recKind s.walker.buffer = 2) : s.recheck = s.dispatchFeed s.walker.buffer := by
  simp only [State.recheck, h]

theorem recheck_sink {s : State} (h : recKind s.walker.buffer = 3) : s.recheck = s.dispatchSink s.walker.buffer := by
  simp only [State.recheck, h]

/-! ### What the checks of a SINK decide, for a record fetched or checked again -/

theorem dispatchSink_block {s : State} {b : List Byte} {c : Ctx} {r : Nat} (h : s.sinkPasses b c r)
    (hfull : 1280 ≤ s.statusTotal ∨ s.sinks.lowestFree 256 = none) : s.dispatchSink b = s.block := by
  simp only [State.dispatchSink, checkSink_of_sinkPasses h]
  rcases hfull with hstatuses | hentries
  · exact if_pos hstatuses
  · have hentries' : s.sinks.lowestFree Config.sinkEntries = none := hentries
    rw [hentries', ite_self]

theorem dispatchSink_accept {s : State} {b : List Byte} {c : Ctx} {r e : Nat} (h : s.sinkPasses b c r) (hroom : s.statusTotal < 1280)
    (hfree : s.sinks.lowestFree 256 = some e) : s.dispatchSink b = s.acceptSink b c r e := by
  have hroom' : ¬ Config.statusBound ≤ s.statusTotal := Nat.not_le.mpr hroom
  have hfree' : s.sinks.lowestFree Config.sinkEntries = some e := hfree
  simp only [State.dispatchSink, checkSink_of_sinkPasses h, if_neg hroom', hfree']

/-! ### The outcomes, settled -/

section Settled

variable {s : State} (hcalm : Calm s)
include hcalm

theorem settle_refused_again (hroom : s.port.writeQueue.length + 1 ≤ 64) (r : Reason) : (s.roomTaken.refuseRecord r).settle =
    s.concluded (.final (recNotify s.walker.buffer)) [outcomeBytes s.walker.next 3 r.code] :=
  settle_handle s.roomTaken (calm_roomTaken hcalm) hroom .refused r.code []

theorem settle_blocked_again (hstate : s.walker.state = .blocked) (hready : s.walker.ready = none) :
    s.roomTaken.block.settle = s.roomTaken := by
  rw [block_of_blocked (s := s.roomTaken) hstate]
  exact settle_calm _ (calm_roomTaken hcalm) hready

theorem feedTaken_again {b : List Byte} {c : Ctx} {r e : Nat} (hroom : s.port.writeQueue.length + 1 ≤ 64)
    (hc : s.ctxs.get (recContext b) = some c) : s.feedTaken (s.roomTaken.acceptFeed b r e).settle b c r e :=
  acceptFeed_taken (s := s.roomTaken) (s' := s) (calm_roomTaken hcalm) hroom hc rfl rfl rfl

theorem sinkTaken_again {b : List Byte} {c : Ctx} {r e : Nat} (hroom : s.port.writeQueue.length + 1 ≤ 64)
    (hc : s.ctxs.get (recContext b) = some c) (hone : 1 ≤ recCount b) : s.sinkTaken (s.roomTaken.acceptSink b c r e).settle b c r e :=
  acceptSink_sinkTaken (s := s.roomTaken) (calm_roomTaken hcalm) hroom hc hone

end Settled

/-- Settles O38: the record of the BLOCKED Walker ends as its owner's checks now decide. -/
theorem blockedRecheck : Obligations.BlockedRecheck := by
  intro s hstate
  refine ⟨exec_blockedRecheck_noRoom, fun hseen hrest hkind => ?_, fun hseen hrest hkind => ?_⟩
  · obtain ⟨hcalm, hready, hroom⟩ := (s.atRest_iff 2).1 hrest
    have hexec : exec .blockedRecheck s = .next (s.roomTaken.dispatchFeed s.walker.buffer).settle := by
      rw [exec_blockedRecheck_room hstate hseen, recheck_feed (s := s.roomTaken) hkind]
      rfl
    rw [hexec]
    refine ⟨fun r hreason => ?_, fun c r hpass => ?_⟩
    · rw [dispatchFeed_refused (s := s.roomTaken) hreason, settle_refused_again hcalm (Nat.le_of_succ_le hroom)]
    · have hpass' : s.roomTaken.feedPasses s.walker.buffer c r := hpass
      obtain ⟨-, -, -, -, hc, -⟩ := id hpass
      refine ⟨fun hfull => ?_, fun htotal hrole => ?_, fun e htotal hrole hfree => ?_⟩
      · rw [dispatchFeed_blocked hpass' hfull, settle_blocked_again hcalm hstate hready]
        rfl
      · rw [dispatchFeed_failed hpass' htotal hrole, settle_acceptFailedFeed (calm_roomTaken hcalm) hroom]
        rfl
      · obtain ⟨hcap, hnone⟩ := Table.lowestFree_some hfree
        rw [dispatchFeed_accepted hpass' htotal hrole hfree]
        exact ⟨_, rfl, hcap, hnone, feedTaken_again hcalm (Nat.le_of_succ_le hroom) hc⟩
  · obtain ⟨hcalm, hready, hroom⟩ := (s.atRest_iff 2).1 hrest
    have hexec : exec .blockedRecheck s = .next (s.roomTaken.dispatchSink s.walker.buffer).settle := by
      rw [exec_blockedRecheck_room hstate hseen, recheck_sink (s := s.roomTaken) hkind]
      rfl
    rw [hexec]
    refine ⟨fun r hreason => ?_, fun c r hpass => ?_⟩
    · rw [dispatchSink_refused (s := s.roomTaken) hreason, settle_refused_again hcalm (Nat.le_of_succ_le hroom)]
    · have hpass' : s.roomTaken.sinkPasses s.walker.buffer c r := hpass
      obtain ⟨-, -, hone, -, hc, -⟩ := id hpass
      refine ⟨fun hfull => ?_, fun e htotal hfree => ?_⟩
      · rw [dispatchSink_block hpass' hfull, settle_blocked_again hcalm hstate hready]
        rfl
      · obtain ⟨hcap, hnone⟩ := Table.lowestFree_some hfree
        rw [dispatchSink_accept hpass' htotal hfree]
        exact ⟨_, rfl, hcap, hnone, sinkTaken_again hcalm (Nat.le_of_succ_le hroom) hc hone⟩

end Sys2Proof.Machine
end

section
/-! PROOFS. A soft reset, the reads it waits for and their return (R153, R193). -/

namespace Sys2Proof.Machine

/-! ### Reads on the link, counted over the staging slots -/

/-- Freeing a listed entry takes it, and no other, out of a count over the entries. -/
theorem Table.countP_erase {α : Type} (p : Nat × α → Bool) {t : Table α} {k : Nat} {v : α} (hwf : t.wf = true)
    (hget : t.get k = some v) : t.rows.countP p = (t.erase k).rows.countP p + if p (k, v) = true then 1 else 0 := by
  obtain ⟨rows⟩ := t
  simp only [Table.wf, Table.get, Table.erase] at *
  induction rows with
  | nil => cases hget
  | cons r rest ih =>
    obtain ⟨j, u⟩ := r
    obtain ⟨habove, hrest⟩ := rising_cons.mp hwf
    by_cases hj : j = k
    · subst hj
      obtain rfl : u = v := by simpa [findRow] using hget
      have hkeep : rest.filter (fun r => r.1 ≠ j) = rest :=
        List.filter_eq_self.mpr (fun r hr => by have hlt := habove r hr; simp only [ne_eq, decide_eq_true_eq]; omega)
      rw [List.filter_cons_of_neg (by simp), hkeep, List.countP_cons]
    · have hget' : findRow k rest = some v := by simpa [findRow, hj] using hget
      rw [List.filter_cons_of_pos (by simpa using hj), List.countP_cons, List.countP_cons, ih hrest hget']
      omega

/-- Of a pair's two slots, one stands for the read. -/
theorem readOnLink_pair {s : State} {a b : Nat} {x y : Staging} (h : s.readPair a b x y) :
    (if readOnLink (a, x) = true then 1 else 0) + (if readOnLink (b, y) = true then 1 else 0) = 1 := by
  have hx : readOnLink (a, x) = decide (a < b) := by simp [readOnLink, h.reading.1, h.partners.1]
  have hy : readOnLink (b, y) = decide (b < a) := by simp [readOnLink, h.reading.2, h.partners.2]
  have hne := h.slots.1
  rw [hx, hy]
  rcases Nat.lt_or_gt_of_ne hne with hlt | hlt
  · simp [hlt, Nat.lt_asymm hlt]
  · simp [hlt, Nat.lt_asymm hlt]

/-- A pair counts once among the reads on the link. -/
theorem linkReads_pair {s : State} {a b : Nat} {x y : Staging} (hwf : s.port.staging.wf = true) (h : s.readPair a b x y) :
    s.linkReads = ({ s with port := { s.port with staging := (s.port.staging.erase a).erase b } } : State).linkReads + 1 := by
  obtain ⟨hne, hx, hy⟩ := h.slots
  have hy' : (s.port.staging.erase a).get b = some y := by rw [Table.get_erase_other _ hne.symm, hy]
  have hone := readOnLink_pair h
  simp only [State.linkReads, Table.countP_erase readOnLink hwf hx, Table.countP_erase readOnLink (Table.wf_erase _ a hwf) hy']
  omega

/-- A read on the link has one slot, or is counted at the lower slot of its pair. -/
theorem countP_readOnLink (rows : List (Nat × Staging)) : rows.countP readOnLink =
    rows.countP (fun r => r.2.phase == .reading && r.2.partner.isNone) +
    rows.countP (fun r => r.2.phase == .reading && r.2.partner.any (fun j => decide (r.1 < j))) := by
  induction rows with
  | nil => rfl
  | cons r rest ih =>
    have hr : (if readOnLink r = true then 1 else 0) = (if (r.2.phase == .reading && r.2.partner.isNone) = true then 1 else 0) +
        (if (r.2.phase == .reading && r.2.partner.any (fun j => decide (r.1 < j))) = true then 1 else 0) := by
      cases hp : r.2.partner <;> simp [readOnLink, hp]
    simp only [List.countP_cons, ih, hr]
    omega

theorem linkReads_eq (s : State) : s.linkReads =
    s.port.staging.rows.countP (fun r => r.2.phase == .reading && r.2.partner.isNone) +
      s.port.staging.rows.countP (fun r => r.2.phase == .reading && r.2.partner.any (fun j => decide (r.1 < j))) +
      (if s.port.fetch.any (·.outstanding) = true then 1 else 0) := by
  rw [State.linkReads, countP_readOnLink]
  cases s.port.fetch <;> rfl

/-! ### The reset, and writes of ENG_CTRL while it lasts -/

/-- With no reset under way, SOFT_RESET at 1 starts one. -/
theorem exec_softReset_starts {s : State} {v : Word64} (hv : v.getLsbD 1 = true) (h : s.ctl.resetting = false) :
    exec (.softReset v) s = .next s.softReset := by
  show Host.Outcome.next (s.writeEngCtrl v) = _
  rw [State.writeEngCtrl, h, if_neg Bool.false_ne_true, if_pos hv]

/-- While RESETTING is set, only ATTN_ENABLE is taken (R186). -/
theorem exec_softReset_resetting {s : State} (v : Word64) (h : s.ctl.resetting = true) :
    exec (.softReset v) s = .next ((s.applyAttn v).offer .control) := by
  show Host.Outcome.next (s.writeEngCtrl v) = _
  rw [State.writeEngCtrl, if_pos h]

/-- No request is issued while reads from before a soft reset are out. -/
theorem exec_issueOpportunity_outstanding {s : State} (h : 0 < s.port.outstanding) : exec .issueOpportunity s = .next s := by
  show Host.Outcome.next s.issueOne = _
  rw [State.issueOne, if_pos h]

theorem exec_outstandingReturn_none {s : State} (h : s.port.outstanding = 0) : exec .outstandingReturn s = .next s := by
  show execOutstandingReturn s = _
  rw [execOutstandingReturn, if_neg (by omega)]

theorem exec_outstandingReturn_due {s : State} (h : 0 < s.port.outstanding) : exec .outstandingReturn s = .next
    { s with port := { s.port with outstanding := s.port.outstanding - 1 },
             ctl := { s.ctl with resetting := decide (s.port.outstanding ≠ 1) } } := by
  have hlast : decide (1 < s.port.outstanding) = decide (s.port.outstanding ≠ 1) := decide_eq_decide.mpr (by omega)
  show execOutstandingReturn s = _
  rw [execOutstandingReturn, if_pos h, hlast]

/-- Settles O20: the reset by the model's reset state, a second one by what offering a message leaves, the reads by counting slots. -/
theorem softReset : Obligations.SoftReset := by
  intro s v hv
  refine ⟨fun h => ⟨_, exec_softReset_starts hv h, rfl, rfl, rfl, rfl, rfl, rfl, rfl, rfl, rfl, rfl, rfl, rfl, rfl, rfl, rfl, rfl,
      rfl, rfl, ?_⟩, fun h => ⟨_, exec_softReset_resetting v h, ?_⟩,
    fun h => ⟨exec_issueOpportunity_outstanding h, exec_outstandingReturn_due h⟩, exec_outstandingReturn_none, linkReads_eq s,
    fun a b x y hwf hpair => linkReads_pair hwf hpair⟩
  · show { Control.reset with chnBase := s.ctl.chnBase, chnSize := s.ctl.chnSize, resetting := decide (0 < s.linkReads) } = _
    rw [decide_eq_decide.mpr (Nat.pos_iff_ne_zero (n := s.linkReads))]
    rfl
  · have hsteady := (offer_placing (s.applyAttn v) .control).steady
    have hgov := congrArg State.gov hsteady
    have hwalker := congrArg (fun t => t.walker.state) hsteady
    have hctl := congrArg (fun t => (t.ctl.resetting, t.ctl.run, t.ctl.chnHead)) hsteady
    have hport := congrArg (fun t => t.port.outstanding) hsteady
    obtain ⟨hresetting, hrun, hhead⟩ : _ ∧ _ ∧ _ := by simpa only [Prod.mk.injEq] using hctl
    exact ⟨hgov, hwalker, hresetting.trans h, hrun, hhead, hport⟩

end Sys2Proof.Machine
end

section
/-! PROOFS. Record fetches that end with an error or a discard, and link words read (R133, R169, R174 to R176, R179). -/

namespace Sys2Proof.Machine

/-! ### A fetch on the link -/

section OnLink

variable {s : State} {f : Fetch} (hf : s.port.fetch = some ⟨f, true⟩)

include hf

theorem fetchStale_onLink : s.fetchStale = f.discard := by simp [State.fetchStale, hf]

theorem fetchOut_onLink (what : FetchKind) : s.fetchOut what = (f.what == what) := by simp [State.fetchOut, hf]

theorem exec_fetchDiscard_stale (h : f.discard = true) : exec .fetchDiscard s = .next s.discardFetch := by
  show execFetchDiscard s = _
  rw [execFetchDiscard, fetchStale_onLink hf, if_pos h]

theorem exec_fetchDiscard_kept (h : f.discard = false) : exec .fetchDiscard s = .next s := by
  show execFetchDiscard s = _
  rw [execFetchDiscard, fetchStale_onLink hf, h, if_neg Bool.false_ne_true]

theorem exec_recordFetchError_reissue (h : 0 < f.reissues) : exec .recordFetchError s = .next
    { s with port := { s.port with fetch := some ⟨{ f with reissues := f.reissues - 1 }, false⟩ } } := by
  show Host.Outcome.next s.fetchErred = _
  simp [State.fetchErred, hf, h]

/-- The last reissue of a fetch to be discarded fails like a discard (log entry 15). -/
theorem exec_recordFetchError_stale (h : f.discard = true) (hlast : f.reissues = 0) : exec .recordFetchError s = .next s.discardFetch := by
  show Host.Outcome.next s.fetchErred = _
  simp [State.fetchErred, hf, h, hlast]

theorem exec_recordFetchError_failed (h : f.discard = false) (hlast : f.reissues = 0) :
    exec .recordFetchError s = .next ((s.clearFetch.fault .fetchError f.addr).offer .control) := by
  show Host.Outcome.next s.fetchErred = _
  simp [State.fetchErred, hf, h, hlast]

theorem exec_linkWordRead_stale (link : Word64) (hwhat : f.what = .linkWord) (h : f.discard = true) :
    exec (.linkWordRead link) s = .next s.discardFetch := by
  show Host.Outcome.next (s.linkRead link) = _
  rw [State.linkRead, fetchOut_onLink hf, hwhat, if_pos (by rfl), fetchStale_onLink hf, if_pos h]

theorem exec_linkWordRead_taken (link : Word64) (hwhat : f.what = .linkWord) (h : f.discard = false) :
    exec (.linkWordRead link) s = .next ((s.linkArrived link).offer .control) := by
  show Host.Outcome.next (s.linkRead link) = _
  rw [State.linkRead, fetchOut_onLink hf, hwhat, if_pos (by rfl), fetchStale_onLink hf, h, if_neg Bool.false_ne_true]

end OnLink

/-! ### A fetch discarded -/

/-- A Walker on its way to IDLE that waits for no other fetch is IDLE. -/
theorem discardFetch_stops {s : State} (hstate : s.walker.state = .fetching) (hstop : s.walker.stopping = true)
    (hwanted : s.walker.wanted = none) : s.discardFetch =
      { s with port := { s.port with fetch := none }, walker := { s.walker with state := .idle, stopping := false } } := by
  rw [State.discardFetch, if_pos ⟨hstate, hstop, by rw [hwanted]; rfl⟩]

/-- Any other Walker goes on as it was. -/
theorem discardFetch_goes_on {s : State}
    (h : s.walker.state ≠ .fetching ∨ s.walker.stopping = false ∨ s.walker.wanted ≠ none) :
    s.discardFetch = { s with port := { s.port with fetch := none } } := by
  rw [State.discardFetch, if_neg]
  rintro ⟨hstate, hstop, hwanted⟩
  rcases h with h | h | h
  · exact h hstate
  · rw [h] at hstop; cases hstop
  · exact h (Option.isNone_iff_eq_none.mp hwanted)

/-- Settles O22: what becomes of the fetch by its reissues and its mark, and of the Walker by what it waits for. -/
theorem recordFetchEnds : Obligations.RecordFetchEnds := by
  intro s f hf
  refine ⟨exec_recordFetchError_reissue hf, fun hlast h hrest => ?_, fun h hstate hstop hwanted => ?_, fun h hwaits => ?_,
    exec_fetchDiscard_kept hf⟩
  · obtain ⟨hcalm, -, hroom⟩ := (s.atRest_iff 2).1 hrest
    have hcalm' : Calm s.clearFetch := calm_fetched s s.walker.buffer hcalm
    rw [exec_recordFetchError_failed hf h hlast, offer_fault s.clearFetch hcalm' hroom]
    rfl
  · rw [exec_fetchDiscard_stale hf h]
    exact ⟨by rw [discardFetch_stops hstate hstop hwanted], exec_recordFetchError_stale hf h⟩
  · rw [exec_fetchDiscard_stale hf h]
    exact ⟨by rw [discardFetch_goes_on hwaits], exec_recordFetchError_stale hf h⟩

/-! ### A link word -/

/-- A Control Interface with nothing to tell places nothing. -/
theorem offer_control_calm {s t : State} (h : Calm s) (hctl : t.ctl = s.ctl) : t.offer .control = t :=
  offer_none t .control (nextWrite_control_none t (by rw [hctl]; exact h.owed) (by rw [hctl]; exact h.messages))

section LinkArrived

variable {s : State} {link : Word64}

/-- A link of 0 with a check owed makes the one more read (R176). -/
theorem linkArrived_owed (hzero : link = 0) (howed : s.walker.checkOwed = true) : s.linkArrived link =
    (let t := s.fetched (toLE 8 link.toNat)
     { t with walker := { t.asking .linkWord s.walker.cursor with checkOwed := false } }) :=
  (if_pos hzero).trans (if_pos howed)

/-- A link of 0 with no check owed starts the poll timer (R175). -/
theorem linkArrived_polls (hzero : link = 0) (howed : s.walker.checkOwed = false) : s.linkArrived link =
    (let t := s.fetched (toLE 8 link.toNat)
     { t with walker := { t.walker with pollTimer := some s.walker.pollInterval } }) :=
  (if_pos hzero).trans (if_neg (ne_true_of_eq_false howed))

/-- A valid link is taken (R174). -/
theorem linkArrived_valid (hlink : link ≠ 0) (hvalid : recordAddressValid s.ctl.chnBase s.ctl.chnSize link = true) : s.linkArrived link =
    (let t := s.fetched (toLE 8 link.toNat)
     State.taking { t with walker := { t.walker with checkOwed := false } } link) :=
  (if_neg hlink).trans (if_pos hvalid)

/-- Any other link faults (R174). -/
theorem linkArrived_bad (hlink : link ≠ 0) (hbad : recordAddressValid s.ctl.chnBase s.ctl.chnSize link = false) : s.linkArrived link =
    (s.fetched (toLE 8 link.toNat)).fault .badLink link :=
  (if_neg hlink).trans (if_neg (ne_true_of_eq_false hbad))

end LinkArrived

/-- Settles O24: a link of 0, a valid link and another, each with nothing to place but a fault's writes. -/
theorem linkWordRead : Obligations.LinkWordRead := by
  intro s link f hf hwhat
  refine ⟨fun h hstate => ?_, fun h hrest => ?_⟩
  · rw [exec_linkWordRead_stale hf link hwhat h, discardFetch_goes_on (.inl hstate)]
  · obtain ⟨hcalm, -, hroom⟩ := (s.atRest_iff 2).1 hrest
    rw [exec_linkWordRead_taken hf link hwhat h]
    refine congrArg Host.Outcome.next ?_
    by_cases hzero : link = 0
    · refine Eq.trans ?_ (if_pos hzero).symm
      cases howed : s.walker.checkOwed with
      | true => rw [linkArrived_owed hzero howed]; exact offer_control_calm hcalm rfl
      | false => rw [linkArrived_polls hzero howed]; exact offer_control_calm hcalm rfl
    · refine Eq.trans ?_ (if_neg hzero).symm
      cases hvalid : recordAddressValid s.ctl.chnBase s.ctl.chnSize link with
      | true => rw [linkArrived_valid hzero hvalid]; exact offer_control_calm hcalm rfl
      | false => rw [linkArrived_bad hzero hvalid, offer_fault _ (calm_fetched s _ hcalm) hroom]; rfl

end Sys2Proof.Machine
end

section
/-! PROOFS. The claim line (R134, R136): who joins it, what a writer places, and how CLAIM_LINE_SERVE serves it. -/

namespace Sys2Proof.Machine

/-! ### Writers that wait for the Walker's write -/

/-- Only a write that the Walker has not placed makes a writer wait (log entry 33). -/
theorem mustWait_of_ready_none {s : State} (h : s.walker.ready = none) (w : Writer) : s.mustWait w = false := by
  cases w with
  | walker => rfl
  | registry => exact mustWait_registry h
  | emit => rfl
  | control => rfl
  | slot i => exact mustWait_slot h i

theorem mustWait_true {s : State} {w : Writer} (h : s.mustWait w = true) :
    w ≠ .walker ∧ w ≠ .emit ∧ w ≠ .control ∧ s.walker.ready ≠ none := by
  refine ⟨?_, ?_, ?_, fun hnone => ?_⟩
  · rintro rfl; cases h
  · rintro rfl; cases h
  · rintro rfl; cases h
  · rw [mustWait_of_ready_none hnone w] at h; cases h

/-- A slot that did not place keeps what it has ready and its context. -/
theorem placed_slot_other (s : State) {w : Writer} {i : Nat} (h : w ≠ .slot i) :
    (s.placed w).readyOf i = s.readyOf i ∧ (s.placed w).ctxs.get i = s.ctxs.get i := by
  cases w with
  | walker => exact ⟨rfl, rfl⟩
  | registry => exact ⟨rfl, rfl⟩
  | emit => rw [State.placed]; split <;> exact ⟨rfl, rfl⟩
  | control => rw [State.placed]; split <;> exact ⟨rfl, rfl⟩
  | slot j =>
    have hne : i ≠ j := fun hij => h (hij ▸ rfl)
    have hleft : ∀ rest, (s.setReady j rest).readyOf i = s.readyOf i := fun rest => by rw [readyOf_setReady, if_neg hne]
    rw [State.placed, State.slotPlaced]
    split
    · exact ⟨rfl, rfl⟩
    · exact ⟨by rw [State.readyOf, modCtx_ready]; exact hleft _, modCtx_get_other _ hne _⟩
    · rw [State.freeContext]
      split
      · exact ⟨hleft _, rfl⟩
      · exact ⟨by rw [readyOf_setReady, if_neg hne]; exact hleft _, Table.get_erase_other _ hne⟩
    · exact ⟨hleft _, rfl⟩

/-- What another writer than the Walker places leaves the Walker's write. -/
theorem placed_walkerWrite (s : State) {w : Writer} (h : w ≠ .walker) :
    (s.placed w).walker.ready = s.walker.ready ∧ (s.placed w).walker.dropped = s.walker.dropped := by
  cases w with
  | walker => exact absurd rfl h
  | registry => rw [State.placed]; split <;> exact ⟨rfl, rfl⟩
  | emit => rw [State.placed]; split <;> exact ⟨rfl, rfl⟩
  | control => rw [State.placed]; split <;> exact ⟨rfl, rfl⟩
  | slot i => rw [State.placed, slotPlaced_walker]; exact ⟨rfl, rfl⟩

/-- Whether a writer waits is seen in the Walker's write and in what the writer has ready. -/
theorem mustWait_congr {s t : State} {v : Writer} (hready : t.walker.ready = s.walker.ready)
    (hdropped : t.walker.dropped = s.walker.dropped) (hstatuses : v = .registry → t.statusQueue = s.statusQueue)
    (hslot : ∀ i, v = .slot i → t.readyOf i = s.readyOf i ∧ t.ctxs.get i = s.ctxs.get i) : t.mustWait v = s.mustWait v := by
  have htaken : ∀ addr, t.takenWaits addr = s.takenWaits addr := fun addr => by rw [State.takenWaits, State.takenWaits, hready]
  have hdrop : ∀ i, t.dropWaits i = s.dropWaits i := fun i => by rw [State.dropWaits, State.dropWaits, hready, hdropped]
  cases v with
  | walker => rfl
  | registry => simp only [State.mustWait, hstatuses rfl, htaken]
  | emit => rfl
  | control => rfl
  | slot i =>
    obtain ⟨hown, hctx⟩ := hslot i rfl
    have hwrite : t.slotMustWait i = s.slotMustWait i := by
      funext x
      cases x <;> simp only [State.slotMustWait, hctx, htaken, hdrop]
    simp only [State.mustWait, hown, hwrite]

/-- A write placed by one writer, the Walker apart, makes no other writer wait or stop waiting. -/
theorem entered_mustWait_other (s : State) {w v : Writer} (q : QWrite) (hw : w ≠ .walker) (hv : v ≠ w) :
    (s.entered w q).mustWait v = s.mustWait v := by
  obtain ⟨hready, hdropped⟩ := placed_walkerWrite s hw
  refine mustWait_congr hready hdropped (fun h => placed_statusQueue s (h ▸ hv.symm)) (fun i h => ?_)
  exact placed_slot_other s (h ▸ hv.symm)

theorem setLine_mustWait (s : State) (line : List Writer) (w : Writer) : (s.setLine line).mustWait w = s.mustWait w := by
  cases w <;> rfl

theorem setLine_nextWrite (s : State) (line : List Writer) (w : Writer) : (s.setLine line).nextWrite w = s.nextWrite w := by
  cases w <;> rfl

theorem placeable_eq_none_iff {s : State} {w : Writer} : s.placeable w = none ↔ s.mustWait w = true ∨ s.nextWrite w = none := by
  unfold State.placeable
  split
  · next h => simp [h]
  · next h => simp [h]

/-! ### A writer places its writes -/

/-- A writer that can place nothing changes nothing. -/
theorem placeReady_stuck {s : State} {w : Writer} (n : Nat) (h : s.placeable w = none) : State.placeReady w n s = s := by
  cases n with
  | zero => rfl
  | succ n => rw [State.placeReady, h]

theorem entered_freePlaces (s : State) (w : Writer) (q : QWrite) : (s.entered w q).freePlaces = s.freePlaces - 1 := by
  rw [State.entered, enqueue_freePlaces, placed_freePlaces]

theorem entered_port (s : State) (w : Writer) (q : QWrite) :
    (s.entered w q).port = { s.port with writeQueue := s.port.writeQueue ++ [q] } := by
  rw [State.entered, State.enqueue, placed_port]

theorem entered_placing (s : State) (w : Writer) (q : QWrite) : Placing s (s.entered w q) :=
  (placed_placing s w).trans (enqueue_placing _ q)

/-- All that writer `w` can place is placed. -/
def State.allPlaced (s : State) (w : Writer) : State := State.placeReady w s.freePlaces s

/-- A writer places until the queue is full or nothing is left that it can place. -/
theorem allPlaced_stops (s : State) (w : Writer) : (s.allPlaced w).freePlaces = 0 ∨ (s.allPlaced w).placeable w = none := by
  have hgen : ∀ n (s : State), s.freePlaces = n →
      (State.placeReady w n s).freePlaces = 0 ∨ (State.placeReady w n s).placeable w = none := by
    intro n
    induction n with
    | zero => exact fun s hn => .inl hn
    | succ n ih =>
      intro s hn
      cases hq : s.placeable w with
      | none => rw [placeReady_stuck _ hq]; exact .inr hq
      | some q =>
        rw [State.placeReady, hq]
        exact ih (s.entered w q) (by rw [entered_freePlaces, hn, Nat.add_sub_cancel])
  exact hgen _ s rfl

/-- While there is room, a writer with a write it can place goes on from that write. -/
theorem allPlaced_entered {s : State} {w : Writer} {q : QWrite} (hroom : s.freePlaces ≠ 0) (hwait : s.mustWait w = false)
    (hq : s.nextWrite w = some q) : s.allPlaced w = (s.entered w q).allPlaced w := by
  obtain ⟨n, hn⟩ := Nat.exists_eq_succ_of_ne_zero hroom
  rw [State.allPlaced, hn, placeReady_entered n hwait hq, State.allPlaced, entered_freePlaces, hn]
  rfl

/-- What stands when one writer has placed: the line, the Walker's write, and whether the others wait. -/
theorem allPlaced_others (s : State) {w : Writer} (hw : w ≠ .walker) :
    (s.allPlaced w).walker.ready = s.walker.ready ∧ ∀ v, v ≠ w → (s.allPlaced w).mustWait v = s.mustWait v := by
  have hgen : ∀ n (s : State), (State.placeReady w n s).walker.ready = s.walker.ready ∧
      ∀ v, v ≠ w → (State.placeReady w n s).mustWait v = s.mustWait v := by
    intro n
    induction n with
    | zero => exact fun s => ⟨rfl, fun _ _ => rfl⟩
    | succ n ih =>
      intro s
      cases hq : s.placeable w with
      | none => rw [placeReady_stuck _ hq]; exact ⟨rfl, fun _ _ => rfl⟩
      | some q =>
        rw [State.placeReady, hq]
        obtain ⟨hready, hothers⟩ := ih (s.entered w q)
        exact ⟨hready.trans (placed_walkerWrite s hw).1, fun v hv => (hothers v hv).trans (entered_mustWait_other s q hw hv)⟩
  exact hgen _ s

theorem allPlaced_claimLine (s : State) (w : Writer) : (s.allPlaced w).port.claimLine = s.port.claimLine := placeReady_claimLine w _ s

theorem freePlaces_eq_zero_iff {s : State} : s.freePlaces = 0 ↔ 64 ≤ s.port.writeQueue.length := Nat.sub_eq_zero_iff_le

/-! ### One writer of the line served -/

/-- The line has been served: the queue is full, or each writer on it waits for the Walker's write. -/
def State.lineServed (s : State) : Prop := s.freePlaces = 0 ∨ ∀ v ∈ s.port.claimLine, s.mustWait v = true

/-- The first writer on the line that need not wait. -/
def State.nextServed (s : State) : Option Writer := s.port.claimLine.find? (fun w => !s.mustWait w)

/-- Writer `w` of the line is served: it places, and leaves once it has no write left. -/
def State.served (s : State) (w : Writer) : State := (s.allPlaced w).leaveLine w

theorem nextServed_none_iff {s : State} : s.nextServed = none ↔ ∀ v ∈ s.port.claimLine, s.mustWait v = true := by
  simp [State.nextServed]

/-- The first writer behind those that wait. -/
theorem nextServed_of_split {s : State} {before rest : List Writer} {w : Writer} (hline : s.port.claimLine = before ++ w :: rest)
    (hbefore : ∀ v ∈ before, s.mustWait v = true) (hw : s.mustWait w = false) : s.nextServed = some w := by
  have hnone : before.find? (fun v => !s.mustWait v) = none := by simpa using hbefore
  rw [State.nextServed, hline, List.find?_append, hnone, Option.none_or, List.find?_cons_of_pos (by simp [hw])]

theorem lineServed_or_next (s : State) : s.lineServed ∨ s.freePlaces ≠ 0 ∧ ∃ w, s.nextServed = some w := by
  by_cases hroom : s.freePlaces = 0
  · exact .inl (.inl hroom)
  · cases hw : s.nextServed with
    | none => exact .inl (.inr (nextServed_none_iff.mp hw))
    | some w => exact .inr ⟨hroom, w, rfl⟩

theorem serveLine_of_lineServed {s : State} (h : s.lineServed) (n : Nat) : State.serveLine n s = s := by
  cases n with
  | zero => rfl
  | succ n =>
    rw [State.serveLine]
    by_cases hroom : s.freePlaces = 0
    · rw [if_pos hroom]
    · have hnone : s.port.claimLine.find? (fun w => !s.mustWait w) = none := nextServed_none_iff.mpr (h.resolve_left hroom)
      rw [if_neg hroom, hnone]

theorem serveLine_succ {s : State} {w : Writer} (hroom : s.freePlaces ≠ 0) (hw : s.nextServed = some w) (n : Nat) :
    State.serveLine (n + 1) s = State.serveLine n (s.served w) := by
  have hfind : s.port.claimLine.find? (fun w => !s.mustWait w) = some w := hw
  rw [State.serveLine, if_neg hroom, hfind]
  rfl

/-- A writer with a write left keeps its place. -/
theorem served_stays {s : State} {w : Writer} (h : (s.allPlaced w).nextWrite w ≠ none) : s.served w = s.allPlaced w := by
  rw [State.served, State.leaveLine, if_pos (Option.isSome_iff_ne_none.mpr h)]

/-- A writer with no write left leaves. -/
theorem served_leaves {s : State} {w : Writer} (h : (s.allPlaced w).nextWrite w = none) :
    s.served w = (s.allPlaced w).setLine (s.port.claimLine.filter (· ≠ w)) := by
  rw [State.served, State.leaveLine, if_neg (by simp [h]), allPlaced_claimLine]

/-! ### How often the line is served -/

/-- How often a writer can be served yet: once each, and once more if it waits for a write that the Walker has still to place. -/
def State.servings (s : State) : Nat :=
  s.port.claimLine.length + if s.walker.ready = none then 0 else s.port.claimLine.countP (fun v => !s.mustWait v)

theorem servings_le (s : State) : s.servings ≤ 2 * s.port.claimLine.length := by
  have hcount := List.countP_le_length (p := fun v => !s.mustWait v) (l := s.port.claimLine)
  unfold State.servings
  split <;> omega

/-- A line on which fewer need not wait, the served one among them. -/
theorem countP_lt_of_served {line line' : List Writer} {p q : Writer → Bool} {w : Writer} (hsub : line'.Sublist line)
    (hw : w ∈ line) (hpw : p w = true) (hq : ∀ v ∈ line', q v = true → v ≠ w ∧ p v = true) : line'.countP q < line.countP p := by
  have hle : line'.countP q ≤ line.countP (fun v => decide (v ≠ w) && p v) :=
    (List.countP_mono_left (fun v hv hqv => by simpa using hq v hv hqv)).trans hsub.countP_le
  have hlt : line.countP (fun v => decide (v ≠ w) && p v) < line.countP p := by
    rw [List.countP_eq_length_filter, List.countP_eq_length_filter, ← List.filter_filter]
    exact List.length_filter_lt_length_iff_exists.mpr ⟨w, List.mem_filter.mpr ⟨hw, hpw⟩, by simp⟩
  exact Nat.lt_of_le_of_lt hle hlt

/-- Serving a writer fills the queue or uses up a serving. -/
theorem served_servings {s : State} {w : Writer} (hnext : s.nextServed = some w) :
    (s.served w).freePlaces = 0 ∨ (s.served w).servings < s.servings := by
  have hmem : w ∈ s.port.claimLine := List.mem_of_find?_eq_some hnext
  have hgo : s.mustWait w = false := by simpa using List.find?_some hnext
  have hshorter : (s.port.claimLine.filter (· ≠ w)).length < s.port.claimLine.length :=
    List.length_filter_lt_length_iff_exists.mpr ⟨w, hmem, by simp⟩
  have hfree : (s.served w).freePlaces = (s.allPlaced w).freePlaces := by
    rw [State.served, State.leaveLine]; split <;> rfl
  rw [hfree]
  refine (allPlaced_stops s w).imp_right (fun hstuck => ?_)
  by_cases hready : (s.allPlaced w).walker.ready = none
  · have hdone : (s.allPlaced w).nextWrite w = none :=
      (placeable_eq_none_iff.mp hstuck).resolve_left (by rw [mustWait_of_ready_none hready]; exact Bool.false_ne_true)
    rw [served_leaves hdone]
    have hnone : ((s.allPlaced w).setLine (s.port.claimLine.filter (· ≠ w))).walker.ready = none := hready
    rw [State.servings, if_pos hnone, State.servings]
    exact Nat.lt_of_lt_of_le hshorter (Nat.le_add_right _ _)
  · have hw : w ≠ .walker := by
      rintro rfl
      exact hready ((placeable_eq_none_iff.mp hstuck).resolve_left Bool.false_ne_true)
    obtain ⟨hsame, hothers⟩ := allPlaced_others s hw
    have hready' : s.walker.ready ≠ none := hsame ▸ hready
    by_cases hdone : (s.allPlaced w).nextWrite w = none
    · rw [served_leaves hdone]
      have hcount := countP_lt_of_served (line' := s.port.claimLine.filter (· ≠ w))
        (q := fun v => !((s.allPlaced w).setLine (s.port.claimLine.filter (· ≠ w))).mustWait v)
        (p := fun v => !s.mustWait v) List.filter_sublist hmem (by simp [hgo]) (fun v hv hq => by
          have hne : v ≠ w := by simpa using (List.mem_filter.mp hv).2
          rw [setLine_mustWait, hothers v hne] at hq
          exact ⟨hne, hq⟩)
      have hready'' : ((s.allPlaced w).setLine (s.port.claimLine.filter (· ≠ w))).walker.ready ≠ none := hready
      rw [State.servings, State.servings, if_neg hready', if_neg hready'']
      exact Nat.add_lt_add hshorter hcount
    · have hwaits : (s.allPlaced w).mustWait w = true := (placeable_eq_none_iff.mp hstuck).resolve_right hdone
      rw [served_stays hdone]
      have hcount := countP_lt_of_served (line := s.port.claimLine) (q := fun v => !(s.allPlaced w).mustWait v)
        (p := fun v => !s.mustWait v) (List.Sublist.refl _) hmem (by simp [hgo]) (fun v _ hq => by
          have hne : v ≠ w := by rintro rfl; rw [hwaits] at hq; cases hq
          rw [hothers v hne] at hq
          exact ⟨hne, hq⟩)
      rw [State.servings, State.servings, if_neg hready', if_neg hready, allPlaced_claimLine]
      exact Nat.add_lt_add_left hcount _

/-- Served often enough, the line has been served. -/
theorem serveLine_served (n : Nat) (s : State) (h : s.servings ≤ n) : (State.serveLine n s).lineServed := by
  induction n generalizing s with
  | zero =>
    have hempty : s.port.claimLine = [] := List.length_eq_zero_iff.mp (by unfold State.servings at h; omega)
    exact .inr (by simp [State.serveLine, hempty])
  | succ n ih =>
    rcases lineServed_or_next s with hserved | ⟨hroom, w, hw⟩
    · rwa [serveLine_of_lineServed hserved]
    · rw [serveLine_succ hroom hw]
      rcases served_servings hw with hfull | hfewer
      · rw [serveLine_of_lineServed (.inl hfull)]; exact .inl hfull
      · exact ih _ (by omega)

theorem serveLine_add (n m : Nat) (s : State) : State.serveLine (n + m) s = State.serveLine m (State.serveLine n s) := by
  induction n generalizing s with
  | zero => rw [Nat.zero_add]; rfl
  | succ n ih =>
    rcases lineServed_or_next s with hserved | ⟨hroom, w, hw⟩
    · simp only [serveLine_of_lineServed hserved]
    · rw [Nat.add_right_comm, serveLine_succ hroom hw, serveLine_succ hroom hw, ih]

/-- Serving more often changes nothing. -/
theorem serveLine_eq_serveClaims {s : State} {n : Nat} (h : s.servings ≤ n) : State.serveLine n s = s.serveClaims := by
  have hleft := serveLine_add n (2 * s.port.claimLine.length) s
  rw [serveLine_of_lineServed (serveLine_served n s h)] at hleft
  have hright := serveLine_add (2 * s.port.claimLine.length) n s
  rw [serveLine_of_lineServed (serveLine_served _ s (servings_le s))] at hright
  rw [← hleft, Nat.add_comm, hright, State.serveClaims]

theorem serveClaims_of_lineServed {s : State} (h : s.lineServed) : s.serveClaims = s := serveLine_of_lineServed h _

theorem serveClaims_lineServed (s : State) : s.serveClaims.lineServed := serveLine_served _ s (servings_le s)

/-- The line is served from its first writer that need not wait, and then on. -/
theorem serveClaims_next {s : State} {w : Writer} (hroom : s.freePlaces ≠ 0) (hw : s.nextServed = some w) :
    s.serveClaims = (s.served w).serveClaims := by
  have hmore : s.serveClaims = State.serveLine s.servings (s.served w) := by
    rw [← serveLine_succ hroom hw, serveLine_eq_serveClaims (Nat.le_succ _)]
  rw [hmore]
  rcases served_servings hw with hfull | hfewer
  · rw [serveLine_of_lineServed (.inl hfull), serveClaims_of_lineServed (.inl hfull)]
  · exact serveLine_eq_serveClaims hfewer.le

theorem leaveLine_sublist (s : State) (w : Writer) : (s.leaveLine w).port.claimLine.Sublist s.port.claimLine := by
  rw [State.leaveLine]
  split
  · exact List.Sublist.refl _
  · exact List.filter_sublist

/-- Writers leave the line; none joins it. -/
theorem serveLine_sublist (n : Nat) (s : State) : (State.serveLine n s).port.claimLine.Sublist s.port.claimLine := by
  induction n generalizing s with
  | zero => exact List.Sublist.refl _
  | succ n ih =>
    rcases lineServed_or_next s with hserved | ⟨hroom, w, hw⟩
    · rw [serveLine_of_lineServed hserved]
    · rw [serveLine_succ hroom hw]
      refine (ih _).trans ?_
      rw [← allPlaced_claimLine s w]
      exact leaveLine_sublist _ w

/-! ### A writer offers what it has ready -/

theorem offer_claimed {s : State} {w : Writer} (h : w ∈ s.port.claimLine) : s.offer w = s := if_pos h

theorem joinLine_ready {s : State} {w : Writer} (h : s.nextWrite w ≠ none) : s.joinLine w = s.setLine (s.port.claimLine ++ [w]) :=
  if_pos (Option.isSome_iff_ne_none.mpr h)

/-- Behind a line, with a full queue or behind the Walker's write, a writer places nothing and joins the line. -/
theorem offer_joins {s : State} {w : Writer} (hnot : w ∉ s.port.claimLine) (hnext : s.nextWrite w ≠ none)
    (h : s.port.claimLine ≠ [] ∨ s.port.writeQueue.length = 64 ∨ s.mustWait w = true) :
    s.offer w = s.setLine (s.port.claimLine ++ [w]) := by
  rw [State.offer, if_neg hnot]
  split
  · next hempty =>
    have hnothing : State.placeReady w s.freePlaces s = s := by
      rcases h.resolve_left (not_not_intro hempty) with hfull | hwait
      · rw [freePlaces_eq_zero_iff.mpr hfull.ge]; rfl
      · exact placeReady_stuck _ (placeable_eq_none_iff.mpr (.inl hwait))
    rw [hnothing, joinLine_ready hnext]
  · exact joinLine_ready hnext

/-- With no line and room, a writer places all it can, and joins the line if a write is left. -/
theorem offer_places {s : State} {w : Writer} (hempty : s.port.claimLine = []) :
    s.offer w = (s.allPlaced w).setLine (if ((s.allPlaced w).nextWrite w).isSome then [w] else []) := by
  have hline : (s.allPlaced w).port.claimLine = [] := (allPlaced_claimLine s w).trans hempty
  rw [State.offer, if_neg (by simp [hempty]), if_pos hempty, ← State.allPlaced, State.joinLine, hline]
  split
  · rfl
  · rw [State.setLine, ← hline]

theorem allPlaced_bounded {s : State} (w : Writer) (h : s.port.queuesBounded) : (s.allPlaced w).port.writeQueue.length ≤ 64 :=
  ((placeReady_frame eq_rel w _ s (Nat.le_refl _)).queues h).1

/-- What is placed from the first write on stands behind the queue, that write first. -/
theorem allPlaced_queue {s : State} {w : Writer} {q : QWrite} (hroom : s.freePlaces ≠ 0) (hwait : s.mustWait w = false)
    (hq : s.nextWrite w = some q) : ∃ more, (s.allPlaced w).port.writeQueue = s.port.writeQueue ++ q :: more := by
  obtain ⟨more, hmore⟩ := (placeReady_placing w (s.entered w q).freePlaces (s.entered w q)).queue
  rw [allPlaced_entered hroom hwait hq, State.allPlaced, hmore, entered_port]
  exact ⟨more, by simp⟩

/-- A writer that stops with a write left has filled the queue, or waits. -/
theorem allPlaced_left {s : State} {w : Writer} (h : s.port.queuesBounded) (hleft : (s.allPlaced w).nextWrite w ≠ none) :
    (s.allPlaced w).port.writeQueue.length = 64 ∨ (s.allPlaced w).mustWait w = true := by
  refine (allPlaced_stops s w).imp (fun hfull => ?_) (fun hstuck => ?_)
  · exact le_antisymm (allPlaced_bounded w h) (freePlaces_eq_zero_iff.mp hfull)
  · exact (placeable_eq_none_iff.mp hstuck).resolve_right hleft

/-! ### What a slot has next -/

theorem slot_nextWrite {s : State} {i : Nat} {x : CtxWrite} {rest : List CtxWrite} (h : s.readyOf i = x :: rest) :
    s.nextWrite (.slot i) = s.slotWrite i x := by
  simp [State.nextWrite, h]

/-- A write that is not the OPEN's DONE leaves its slot the writes behind it. -/
theorem slot_placed_readyOf {s : State} {i : Nat} {x : CtxWrite} {rest : List CtxWrite} (h : s.readyOf i = x :: rest)
    (hx : x.notDone = true) : (s.placed (.slot i)).readyOf i = rest := by
  have hleft : (s.setReady i rest).readyOf i = rest := by rw [readyOf_setReady, if_pos rfl]
  rw [State.placed, State.slotPlaced, h]
  cases x with
  | progress => exact (congrArg (fun r => (Table.get r i).getD []) (modCtx_ready _ i _)).trans hleft
  | openDone addr o notify => cases hx
  | abortDone addr notify => exact hleft

/-! ### The writer at the head of what can be served -/

section Head

variable {s : State} {before rest : List Writer} {w : Writer} {q : QWrite} (hbounded : s.port.queuesBounded)
  (hline : s.port.claimLine = before ++ w :: rest) (hbefore : ∀ v ∈ before, s.mustWait v = true) (hw : s.mustWait w = false)
  (hroom : s.freePlaces ≠ 0)

include hbounded hline in
/-- A writer stands in the line once, so that its leaving takes one place out of it. -/
theorem line_without : s.port.claimLine.filter (· ≠ w) = before ++ rest := by
  obtain ⟨-, hnodup⟩ := hbounded
  rw [hline, List.nodup_append] at hnodup
  obtain ⟨-, hwrest, hapart⟩ := hnodup
  have hnot : w ∉ rest := (List.nodup_cons.mp hwrest).1
  rw [hline, List.filter_append, List.filter_cons_of_neg (by simp),
    List.filter_eq_self.mpr (fun v hv => by simpa using hapart v hv w List.mem_cons_self),
    List.filter_eq_self.mpr (fun v hv => by simp only [ne_eq, decide_eq_true_eq]; rintro rfl; exact hnot hv)]

include hbounded hline hbefore hw hroom in
/-- With no write, it leaves, and the line is served from there. -/
theorem serveClaims_leaves (hnone : s.nextWrite w = none) : s.serveClaims = (s.setLine (before ++ rest)).serveClaims := by
  have hstuck : s.allPlaced w = s := placeReady_stuck _ (placeable_eq_none_iff.mpr (.inr hnone))
  rw [serveClaims_next hroom (nextServed_of_split hline hbefore hw), served_leaves (hstuck.symm ▸ hnone), hstuck,
    line_without hbounded hline]

include hbounded hline hbefore hw hroom in
/-- With one write, it places it and leaves. -/
theorem serveClaims_last (hq : s.nextWrite w = some q) (hnone : (s.entered w q).nextWrite w = none) :
    s.serveClaims = ((s.entered w q).setLine (before ++ rest)).serveClaims := by
  have hall : s.allPlaced w = s.entered w q :=
    (allPlaced_entered hroom hw hq).trans (placeReady_stuck _ (placeable_eq_none_iff.mpr (.inr hnone)))
  rw [serveClaims_next hroom (nextServed_of_split hline hbefore hw), served_leaves (hall.symm ▸ hnone), hall,
    line_without hbounded hline]

include hline hbefore hw hroom in
/-- With more than one write, it places one, and the line is served from there: by the same writer, if there is room and it need not wait. -/
theorem serveClaims_more (hq : s.nextWrite w = some q) (hmore : (s.entered w q).nextWrite w ≠ none) :
    s.serveClaims = (s.entered w q).serveClaims := by
  have hall := allPlaced_entered hroom hw hq
  have hserved : s.served w = (s.entered w q).served w := by rw [State.served, hall, State.served]
  rw [serveClaims_next hroom (nextServed_of_split hline hbefore hw), hserved]
  by_cases hgo : (s.entered w q).freePlaces = 0 ∨ (s.entered w q).mustWait w = true
  · have hstop : (s.entered w q).allPlaced w = s.entered w q := by
      rcases hgo with hfull | hwait
      · rw [State.allPlaced, hfull]; rfl
      · exact placeReady_stuck _ (placeable_eq_none_iff.mpr (.inl hwait))
    rw [served_stays (hstop.symm ▸ hmore), hstop]
  · obtain ⟨hroom', hgo'⟩ := not_or.mp hgo
    have hwalker : w ≠ .walker := by rintro rfl; exact hmore rfl
    have hline' : (s.entered w q).port.claimLine = before ++ w :: rest := by rw [entered_port]; exact hline
    have hbefore' : ∀ v ∈ before, (s.entered w q).mustWait v = true := fun v hv => by
      have hne : v ≠ w := by rintro rfl; rw [hbefore v hv] at hw; cases hw
      rw [entered_mustWait_other s q hwalker hne, hbefore v hv]
    exact (serveClaims_next hroom' (nextServed_of_split hline' hbefore' (Bool.eq_false_iff.mpr hgo'))).symm

end Head

/-- Settles O45: a writer places until it is stopped, and the line is served writer by writer until none can place. -/
theorem claimLineServe : Obligations.ClaimLineServe := by
  refine ⟨fun s w hlen => ⟨offer_claimed, fun _ => offer_none s w, fun hnot hnext h => offer_joins hnot hnext h,
      fun q hempty hroom hq hwait => ?_⟩,
    fun s => ⟨rfl, rfl, fun i addr notify rest h => slot_nextWrite h, fun i addr o notify rest h => slot_nextWrite h,
      fun i c rest h hc => nextWrite_progress hc h, rfl, rfl, fun i x rest => slot_placed_readyOf, fun w => mustWait_true⟩,
    fun s hbounded => ⟨fun h => ?_, fun before w rest hline hbefore hw hlen => ?_, ?_⟩⟩
  · have hfree : s.freePlaces ≠ 0 := fun h => by have := freePlaces_eq_zero_iff.mp h; omega
    have hbounded : s.port.queuesBounded := ⟨hlen, by rw [hempty]; exact List.nodup_nil⟩
    obtain ⟨more, hmore⟩ := allPlaced_queue hfree hwait hq
    rw [offer_places hempty]
    simp only [setLine_nextWrite, setLine_mustWait]
    exact ⟨more, hmore, allPlaced_bounded w hbounded, rfl, allPlaced_left hbounded⟩
  · exact congrArg Host.Outcome.next
      (serveClaims_of_lineServed (h.imp_left (fun hfull => freePlaces_eq_zero_iff.mpr hfull.ge)))
  · have hroom : s.freePlaces ≠ 0 := fun h => by have := freePlaces_eq_zero_iff.mp h; omega
    refine ⟨fun hnone => congrArg Host.Outcome.next (serveClaims_leaves hbounded hline hbefore hw hroom hnone), fun q hq => ?_⟩
    refine ⟨by rw [enqueue_writeQueue, placed_port], by rw [← State.entered, entered_port], (entered_placing s w q).steady,
      (entered_placing s w q).ctxs, fun hmore => congrArg Host.Outcome.next (serveClaims_more hline hbefore hw hroom hq hmore),
      fun hnone => congrArg Host.Outcome.next (serveClaims_last hbounded hline hbefore hw hroom hq hnone)⟩
  · have hplacing := serveClaims_placing s
    have hlen : s.serveClaims.port.writeQueue.length ≤ 64 := ((serveClaims_frame eq_rel s).queues hbounded).1
    refine ⟨s.serveClaims, rfl, hplacing.steady, hplacing.ctxs, hplacing.queue, hlen, serveLine_sublist _ s, ?_⟩
    exact (serveClaims_lineServed s).imp_left (fun hfull => le_antisymm hlen (freePlaces_eq_zero_iff.mp hfull))

end Sys2Proof.Machine
end

section
/-! PROOFS. What ISSUE_OPPORTUNITY issues (R132, R133, R148, R180, R182, R191): one request, the first there is. -/

namespace Sys2Proof.Machine

/-! ### The order of R132 -/

section Order

variable {s : State} (hback : s.port.outstanding = 0)

include hback

theorem exec_issueOpportunity_fetch {f : Fetch} (hf : s.fetchToIssue = some f) : exec .issueOpportunity s = .next (s.issueFetch f) := by
  show Host.Outcome.next s.issueOne = _
  rw [State.issueOne, if_neg (by omega), hf]

theorem exec_issueOpportunity_write {w : QWrite} {rest : List QWrite} (hf : s.fetchToIssue = none)
    (hqueue : s.port.writeQueue = w :: rest) : exec .issueOpportunity s =
      .next ((State.issueWrite { s with port := { s.port with writeQueue := rest } } w).offer .control) := by
  show Host.Outcome.next s.issueOne = _
  rw [State.issueOne, if_neg (by omega), hf]
  simp only [hqueue]

theorem exec_issueOpportunity_reissue {k : Nat} {rest : List Nat} (hf : s.fetchToIssue = none) (hqueue : s.port.writeQueue = [])
    (hline : s.port.reissueLine = k :: rest) : exec .issueOpportunity s =
      .next (State.reissue { s with port := { s.port with reissueLine := rest } } k) := by
  show Host.Outcome.next s.issueOne = _
  rw [State.issueOne, if_neg (by omega), hf]
  simp only [hqueue, hline]

theorem exec_issueOpportunity_grant (hf : s.fetchToIssue = none) (hqueue : s.port.writeQueue = []) (hline : s.port.reissueLine = []) :
    exec .issueOpportunity s = .next s.grant := by
  show Host.Outcome.next s.issueOne = _
  rw [State.issueOne, if_neg (by omega), hf]
  simp only [hqueue, hline]

end Order

/-! ### Record fetches -/

theorem fetchToIssue_none {s : State} (h : s.noFetchDue) : s.fetchToIssue = none := by
  rcases h with ⟨p, hp, hout⟩ | ⟨hnone, hunissued | hwanted⟩
  · simp [State.fetchToIssue, hp, hout]
  · simp [State.fetchToIssue, hnone, hunissued]
  · simp [State.fetchToIssue, hnone, hwanted]

theorem fetchToIssue_again {s : State} {f : Fetch} (h : s.port.fetch = some ⟨f, false⟩) : s.fetchToIssue = some f := by
  simp [State.fetchToIssue, h]

theorem fetchToIssue_wanted {s : State} {f : Fetch} (h : s.port.fetch = none) (hissued : s.walker.unissued = false)
    (hwanted : s.walker.wanted = some f) : s.fetchToIssue = some f := by
  simp [State.fetchToIssue, h, hissued, hwanted]

theorem issueFetch_again {s : State} {f : Fetch} (h : s.port.fetch = some ⟨f, false⟩) : s.issueFetch f =
    { s with port := { s.port with fetch := some ⟨f, true⟩ }, issued := s.issued ++ [.fetch f.addr f.what.length] } := by
  rw [State.issueFetch, h]; rfl

theorem issueFetch_wanted {s : State} {f : Fetch} (h : s.port.fetch = none) : s.issueFetch f =
    { s with port := { s.port with fetch := some ⟨f, true⟩ }, walker := { s.walker with wanted := none },
             issued := s.issued ++ [.fetch f.addr f.what.length] } := by
  rw [State.issueFetch, h]; rfl

/-! ### Writes -/

/-- The write at the head of the queue is taken from it to be issued, and the Walker's, if it is its, is issued. -/
def State.popped (s : State) (w : QWrite) (rest : List QWrite) : State :=
  { s with port := { s.port with writeQueue := rest }
           walker := { s.walker with unissued := if w.writer = .walker then false else s.walker.unissued } }

section OneWrite

variable {s : State} {w : QWrite} {rest : List QWrite}

theorem popped_eq : (if w.writer = .walker then
      ({ s with port := { s.port with writeQueue := rest }, walker := { s.walker with unissued := false } } : State)
    else { s with port := { s.port with writeQueue := rest } }) = s.popped w rest := by
  unfold State.popped
  split <;> rfl

theorem issueWrite_message (h : w.kind = .message) : State.issueWrite { s with port := { s.port with writeQueue := rest } } w =
    { s.popped w rest with issued := s.issued ++ [.message w (Config.msiEnabled s.draws)], draws := s.draws + 1 } := by
  unfold State.issueWrite
  simp only [popped_eq, h]
  rfl

theorem issueWrite_final {notify : Bool} (h : w.kind = .final notify) :
    State.issueWrite { s with port := { s.port with writeQueue := rest } } w = ((s.popped w rest).log (.write w)).finalIssued notify := by
  unfold State.issueWrite
  simp only [popped_eq, h]

/-- The issue of any other write is logged, and that is all. -/
theorem issueWrite_plain (hmessage : w.kind ≠ .message) (hfinal : ∀ notify, w.kind ≠ .final notify) :
    State.issueWrite { s with port := { s.port with writeQueue := rest } } w = (s.popped w rest).log (.write w) := by
  unfold State.issueWrite
  simp only [popped_eq]
  cases hkind : w.kind with
  | message => exact absurd hkind hmessage
  | final notify => exact absurd hkind (hfinal notify)
  | taken => rfl
  | progress => rfl
  | report => rfl
  | unit => rfl

end OneWrite

/-- With room for one write and no report owed, the Control Interface places the message that is readied. -/
theorem offer_control_message {s : State} (hline : s.port.claimLine = []) (hroom : s.port.writeQueue.length + 1 ≤ 64)
    (howed : s.ctl.reportOwed = false) (hmessages : s.ctl.messages = 1) : s.offer .control =
      State.enqueue { s with ctl := { s.ctl with messages := 0 }, draws := s.draws + 1 } s.messageWrite := by
  obtain ⟨n, hn⟩ := freePlaces_pos hroom
  have hreport : s.reportReady = false := by rw [State.reportReady, howed, Bool.false_and]
  refine offer_of_placed hline (hn ▸ placeReady_message s n hreport hmessages) (nextWrite_control_none _ howed rfl)

/-- A final disposition with NOTIFY readies a message if ATTENTION was clear and ATTN_ENABLE is set (R191). -/
def State.tells (s : State) (notify : Bool) : Bool := notify && !s.ctl.attention && s.ctl.attnEnable

theorem finalIssued_eq (s : State) (notify : Bool) : s.finalIssued notify = { s with ctl := { s.ctl with
    finalised := bump64 s.ctl.finalised, attention := s.ctl.attention || notify
    messages := if s.tells notify then s.ctl.messages + 1 else s.ctl.messages } } := by
  unfold State.finalIssued State.cause Control.cause State.tells
  cases notify <;> cases hattention : s.ctl.attention <;> simp [hattention]

/-- The issue of a final disposition, counted, with the attention it causes and the message that tells of it (R180, R182, R191). -/
theorem offer_finalIssued {s : State} (h : Calm s) (hroom : s.port.writeQueue.length + 1 ≤ 64) (notify : Bool) :
    (s.finalIssued notify).offer .control =
      { s with
        ctl := { s.ctl with finalised := min (2 ^ 64 - 1) (s.ctl.finalised + 1), attention := s.ctl.attention || notify }
        port := { s.port with writeQueue := s.port.writeQueue ++ if s.tells notify then [s.messageWrite] else [] }
        draws := if s.tells notify then s.draws + 1 else s.draws } := by
  rw [finalIssued_eq]
  cases htells : s.tells notify with
  | false =>
    refine (offer_none _ .control (nextWrite_control_none _ ?_ ?_)).trans ?_
    · exact h.owed
    · exact h.messages
    · simp only [Bool.false_eq_true, if_false, List.append_nil, bump64]
  | true =>
    have hmessages : s.ctl.messages + 1 = 1 := by rw [h.messages]
    refine (offer_control_message ?_ ?_ ?_ ?_).trans ?_
    · exact h.line
    · exact hroom
    · exact h.owed
    · exact hmessages
    · simp only [if_true, State.enqueue, State.messageWrite, h.messages, bump64]

/-! ### Reissues -/

/-- A single read is issued again (R148). -/
theorem reissue_single {s : State} {k : Nat} {t : Staging} (h : s.port.staging.get k = some t) (hpartner : t.partner = none) :
    s.reissue k = { s with port := { s.port with staging := s.port.staging.set k { t with phase := .reading } }
                           issued := s.issued ++ [.read t.addr t.length] } := by
  have hmembers : s.readMembers k t = [k] := by rw [State.readMembers, hpartner]
  rw [State.reissue, h]
  simp only [hmembers, State.readEach, modStaging_eq h, List.length_singleton, Nat.one_mul]

/-- A pair is issued again with one read over both units (R148). -/
theorem reissue_pair {s : State} {k j : Nat} {t u : Staging} (hk : s.port.staging.get k = some t) (hpartner : t.partner = some j)
    (hne : j ≠ k) (hj : s.port.staging.get j = some u) (hlower : t.seg ≤ u.seg) :
    s.reissue k =
      { s with
        port := { s.port with
          staging := (s.port.staging.set k { t with phase := .reading }).set j { u with phase := .reading } }
        issued := s.issued ++ [.read t.addr (2 * t.length)] } := by
  have hmembers : s.readMembers k t = [k, j] := by
    rw [State.readMembers, hpartner]
    simp only [hj]
    exact if_neg (by omega)
  have hj' : (s.port.staging.set k { t with phase := .reading }).get j = some u := by rw [Table.get_set_other _ hne, hj]
  rw [State.reissue, hk]
  simp only [hmembers, State.readEach, modStaging_eq hk]
  rw [modStaging_eq hj']
  rfl

/-- Settles O42: each request in its turn, and with a final disposition what its issue tells. -/
theorem issuePreference : Obligations.IssuePreference := by
  intro s hback
  refine ⟨fun f hf => ?_, fun f hnone hissued hwanted => ?_, fun w rest hnot hqueue hrest => ?_,
    fun k rest t hnot hqueue hline hk hpartner => ?_, fun k rest t j u hnot hqueue hline hk hpartner hne hj hlower => ?_⟩
  · rw [exec_issueOpportunity_fetch hback (fetchToIssue_again hf), issueFetch_again hf]
  · rw [exec_issueOpportunity_fetch hback (fetchToIssue_wanted hnone hissued hwanted), issueFetch_wanted hnone]
  · obtain ⟨hcalm, -, hlen⟩ := (s.atRest_iff 0).1 hrest
    have hroom : rest.length + 1 ≤ 64 := by rw [hqueue] at hlen; exact hlen
    have hlogged : Calm ((s.popped w rest).log (.write w)) :=
      ⟨hcalm.line, hcalm.statuses, hcalm.ready, hcalm.owed, hcalm.messages, hcalm.units, hcalm.emits, hcalm.solves, hcalm.combines⟩
    rw [exec_issueOpportunity_write hback (fetchToIssue_none hnot) hqueue]
    refine congrArg Host.Outcome.next ?_
    have hplain : w.kind ≠ .message → (∀ notify, w.kind ≠ .final notify) →
        (State.issueWrite { s with port := { s.port with writeQueue := rest } } w).offer .control = (s.popped w rest).log (.write w) :=
      fun hmessage hfinal => by rw [issueWrite_plain hmessage hfinal]; exact offer_control_calm hcalm rfl
    cases hkind : w.kind with
    | message => rw [issueWrite_message hkind]; exact offer_control_calm hcalm rfl
    | final notify => rw [issueWrite_final hkind]; exact offer_finalIssued hlogged hroom notify
    | taken => exact hplain (by simp [hkind]) (by simp [hkind])
    | progress => exact hplain (by simp [hkind]) (by simp [hkind])
    | report => exact hplain (by simp [hkind]) (by simp [hkind])
    | unit => exact hplain (by simp [hkind]) (by simp [hkind])
  · rw [exec_issueOpportunity_reissue hback (fetchToIssue_none hnot) hqueue hline]
    exact congrArg Host.Outcome.next (reissue_single (s := { s with port := { s.port with reissueLine := rest } }) hk hpartner)
  · rw [exec_issueOpportunity_reissue hback (fetchToIssue_none hnot) hqueue hline]
    exact congrArg Host.Outcome.next
      (reissue_pair (s := { s with port := { s.port with reissueLine := rest } }) hk hpartner hne hj hlower)

end Sys2Proof.Machine
end

section
/-! PROOFS. A grant: the slot, the read, the charge, the pair (R144, R145, R160, R162, R164). -/

namespace Sys2Proof.Machine

/-! ### The Governor -/

theorem allows_iff {g : Governor} : g.allows = true ↔ g.level = 15 ∨ (1 ≤ g.level ∧ 0 < g.credit) := by
  simp [Governor.allows]

theorem charge_eq (g : Governor) (n : Nat) : g.charge n = { g with credit := if g.level = 15 then g.credit else g.credit - n } := by
  unfold Governor.charge
  split <;> rfl

/-! ### Whether a grant is made -/

/-- Without the Governor's leave, a context or a slot, nothing is granted. -/
theorem grant_refused {s : State} (h : s.gov.allows = false ∨ s.choose = none ∨ s.port.staging.lowestFree 32 = none) : s.grant = s := by
  unfold State.grant
  rcases h with hleave | hnobody | hfull
  · rw [hleave, if_neg Bool.false_ne_true]
  · rw [hnobody]
    split <;> rfl
  · have hfull' : s.port.staging.lowestFree Config.stagingSlots = none := hfull
    rw [hfull']
    split
    · cases s.choose <;> rfl
    · rfl

section Granted

variable {s : State} {i a : Nat} {c : Ctx} {first : Nat × Nat × Nat} {fe : FeedEntry} (hleave : s.gov.allows = true)
  (hchoose : s.choose = some i) (hc : s.ctxs.get i = some c) (hoffer : c.offered = some first)
  (hfe : s.feeds.get first.2.2 = some fe) (ha : s.port.staging.lowestFree 32 = some a)

include hleave hchoose hc hoffer hfe ha

theorem grant_single (hpair : s.pairOffer i c first = none) : s.grant = s.grantSingle i c first fe a := by
  have ha' : s.port.staging.lowestFree Config.stagingSlots = some a := ha
  unfold State.grant
  rw [if_pos hleave, hchoose, ha']
  simp only [hc, hoffer, hfe, hpair]

theorem grant_pair {b : Nat} {second : Nat × Nat × Nat} (hpair : s.pairOffer i c first = some second)
    (hb : (s.port.staging.set a (s.newStaging i c.geo first fe none)).lowestFree 32 = some b) :
    s.grant = s.grantPair i c first second fe a b := by
  have ha' : s.port.staging.lowestFree Config.stagingSlots = some a := ha
  have hb' : (s.port.staging.set a (s.newStaging i c.geo first fe none)).lowestFree Config.stagingSlots = some b := hb
  unfold State.grant
  rw [if_pos hleave, hchoose, ha']
  simp only [hc, hoffer, hfe, hpair, hb']

end Granted

/-! ### Whether pair mode applies -/

/-- The second entry is the next offer, were the first INFLIGHT, if R145's conditions hold. -/
theorem pairOffer_some_iff {s : State} {i : Nat} {c : Ctx} {first second : Nat × Nat × Nat} :
    s.pairOffer i c first = some second ↔ (c.inflight first.1 first.2.1).offered = some second ∧
      s.port.pairMode = true ∧ 2 ≤ s.port.readLimit ∧ s.slotsInUse i + 1 < s.port.readLimit ∧ s.port.staging.size + 2 ≤ 32 ∧
      second.2.2 = first.2.2 ∧ second.1 = first.1 + 1 := by
  unfold State.pairOffer
  cases hnext : (c.inflight first.1 first.2.1).offered with
  | none => simp
  | some x =>
    rw [Option.ite_none_right_eq_some, Option.some.injEq]
    constructor
    · rintro ⟨hmode, rfl⟩; exact ⟨rfl, hmode⟩
    · rintro ⟨rfl, hmode⟩; exact ⟨hmode, rfl⟩

theorem pairOffer_none {s : State} {i seg f e : Nat} {c : Ctx}
    (h : s.port.pairMode = false ∨ s.port.readLimit < 2 ∨ s.port.readLimit ≤ s.slotsInUse i + 1 ∨ 32 < s.port.staging.size + 2 ∨
      ∀ g, (c.inflight seg f).offered ≠ some (seg + 1, g, e)) : s.pairOffer i c (seg, f, e) = none := by
  refine Option.eq_none_iff_forall_ne_some.mpr (fun second hsecond => ?_)
  obtain ⟨hnext, hmode, hlimit, hslots, hroom, hfeed, hseg⟩ := pairOffer_some_iff.mp hsecond
  rcases h with h | h | h | h | h
  · rw [h] at hmode; cases hmode
  · omega
  · omega
  · omega
  · exact h second.2.1 (hnext.trans (congrArg some (Prod.ext hseg (Prod.ext rfl hfeed))))

/-! ### The entry granted -/

/-- The granted entry is INFLIGHT, and nothing else of the context changes (R56). -/
theorem inflight_holding {c : Ctx} {p : Position} {seg f : Nat} {en : LogEntry} (hp : c.holding seg = some p)
    (hen : p.row.get f = some en) : (c.inflight seg f).bones = c.bones ∧
      (c.inflight seg f).holding seg = some (p.putEntry f (some { en with state := .inflight })) := by
  simp only [Ctx.inflight, hp, hen]
  exact ⟨rfl, holding_putPosition_same c ((putEntry_seg p f _).trans (holding_seg hp))⟩

/-- Settles O44: refused, single or paired, as the Governor, the arbiter, the slots and pair mode decide. -/
theorem grantTaken : Obligations.GrantTaken := by
  intro s hback hnot hqueue hline
  have hexec := exec_issueOpportunity_grant hback (fetchToIssue_none hnot) hqueue hline
  refine ⟨fun h => ?_, fun i c seg f e fe a hleave hchoose hc hoffer hfe ha => ?_, fun c p seg f en hp hen => ?_⟩
  · have hrefused : s.gov.allows = false ∨ s.choose = none ∨ s.port.staging.lowestFree 32 = none := by
      rcases h with hzero | ⟨hlevel, hcredit⟩ | hrest
      · exact .inl (Bool.eq_false_iff.mpr (fun h => by rcases allows_iff.mp h with h | h <;> omega))
      · exact .inl (Bool.eq_false_iff.mpr (fun h => by rcases allows_iff.mp h with h | h <;> omega))
      · exact .inr hrest
    rw [hexec, grant_refused hrefused]
  · have hleave' := allows_iff.mpr hleave
    refine ⟨fun h => ?_, fun g b hmode hlimit hslots hroom hnext hb => ?_⟩
    · rw [hexec, grant_single hleave' hchoose hc hoffer hfe ha (pairOffer_none h), State.grantSingle, charge_eq]
      rfl
    · have hpair : s.pairOffer i c (seg, f, e) = some (seg + 1, g, e) :=
        pairOffer_some_iff.mpr ⟨hnext, hmode, hlimit, hslots, hroom, rfl, rfl⟩
      rw [hexec, grant_pair hleave' hchoose hc hoffer hfe ha hpair hb, State.grantPair, charge_eq]
      rfl
  · obtain ⟨hbones, hholding⟩ := inflight_holding hp hen
    refine ⟨_, hholding, putEntry_state p f _, ?_, fun g hg => ?_, hbones⟩
    · rw [putEntry_row_get, if_pos rfl]
    · rw [putEntry_row_get, if_neg hg]

end Sys2Proof.Machine
end


section
/-! PROOFS. The Rate Governor: budgets (R158), the refill at a tick (R159), a LEVEL record (R163, R165), and the credit in its bounds over every
command (R161). -/

namespace Sys2Proof.Machine

/-! ### The Governor's operations on level 15 and below it -/

theorem refill_credit_unlimited {g : Governor} (h : g.level = 15) : g.refill.credit = g.credit := if_pos h

theorem refill_credit_limited {g : Governor} (h : g.level ≤ 14) :
    g.refill.credit = min (g.credit + budget g.level) (budget g.level) := if_neg (by omega)

theorem charge_credit_unlimited {g : Governor} (h : g.level = 15) (n : Nat) : (g.charge n).credit = g.credit := by
  rw [charge_eq]; exact if_pos h

theorem charge_credit_limited {g : Governor} (h : g.level ≠ 15) (n : Nat) : (g.charge n).credit = g.credit - n := by
  rw [charge_eq]; exact if_neg h

@[simp] theorem charge_level (g : Governor) (n : Nat) : (g.charge n).level = g.level := by rw [charge_eq]

/-- Settles O11: the table is evaluated, and on level 15 neither operation touches the credit. -/
theorem levelBudgets : Obligations.LevelBudgets :=
  ⟨by decide, fun _ n h => ⟨refill_credit_unlimited h, charge_credit_unlimited h n⟩⟩

/-! ### A tick -/

/-- Placing writes leaves the tick's refill as it is. -/
theorem tick_offerReady_placing (s : State) : Placing s.ticked s.tick.offerReady := (tick_placing s).trans (offerReady_placing _)

/-- Settles O12: what a tick places comes after the refill, and touches neither the Governor nor an entry, a cell or a staging slot. -/
theorem tickRefillsCredit : Obligations.TickRefillsCredit := by
  intro s
  have hplacing := tick_offerReady_placing s
  have hsteady := hplacing.steady
  have hgov : s.tick.offerReady.gov = s.gov.refill := (congrArg State.gov hsteady :)
  refine ⟨s.tick.offerReady, rfl, by rw [hgov]; rfl, by rw [hgov]; rfl, fun hlevel => ?_, fun hzero => ?_, fun htop => ?_,
    (congrArg State.feeds hsteady :), (congrArg State.sinks hsteady :), (congrArg State.store hsteady :),
    (congrArg (fun x : State => x.port.staging) hsteady :), (congrArg (fun x : State => x.ctl.regions) hsteady :), hplacing.queue⟩
  · rw [hgov, refill_credit_limited hlevel]
    split <;> omega
  · have hnone : budget s.gov.level = 0 := by rw [hzero]; rfl
    rw [hgov, refill_credit_limited (by omega), hnone]
    split <;> omega
  · rw [hgov, refill_credit_unlimited htop]

/-! ### A LEVEL record -/

theorem dispatch_level {s : State} (h : recKind s.walker.buffer = 8) : s.dispatch = s.dispatchLevel s.walker.buffer := by
  simp only [State.dispatch, h]

/-- A posted LEVEL record arrives: its owner checks it, and the event is settled. -/
theorem exec_level_posted {s : State} {b : List Byte} (ha : s.awaitsRecord = true) (hp : postedRecord 8 b = true) :
    exec (.level b) s = .next ((s.fetched b).dispatchLevel b).settle := by
  show Host.Outcome.next (s.recordArrived (withKind 8 b)) = _
  rw [recordArrived_posted s b 8 ha hp (by omega) (by omega), dispatch_level (recKind_posted 8 b hp)]
  rfl

theorem newLevel_eq_none {level mode : Nat} (h : 2 < mode) (value : Nat) : newLevel level mode value = none := by
  unfold newLevel
  split
  · omega
  · omega
  · omega
  · rfl

theorem newLevel_eq_some {level mode : Nat} (h : mode ≤ 2) (value : Nat) : newLevel level mode value =
    some (if mode = 0 then min 15 value else if mode = 1 then min 15 (level + value) else level - value) := by
  have hmode : mode = 0 ∨ mode = 1 ∨ mode = 2 := by omega
  rcases hmode with rfl | rfl | rfl <;> rfl

/-- A record never takes the level above 15 (R165). -/
theorem newLevel_le {level mode value l : Nat} (hlevel : level ≤ 15) (h : newLevel level mode value = some l) : l ≤ 15 := by
  have hmode : mode ≤ 2 := by
    by_contra hno
    rw [newLevel_eq_none (by omega)] at h
    cases h
  rw [newLevel_eq_some hmode, Option.some.injEq] at h
  split at h
  · omega
  · split at h <;> omega

/-- R163's table: a credit above the new budget comes down to it. -/
theorem setLevel_eq (g : Governor) (l : Nat) : g.setLevel l = { g with
    level := l
    credit := if l = g.level then g.credit else if l = 15 then 0 else if g.level = 15 then budget l
      else if g.credit > budget l then budget l else g.credit } := by
  have hmin : min g.credit (budget l) = if g.credit > budget l then (budget l : Int) else g.credit := by split <;> omega
  rw [Governor.setLevel, hmin]

/-- The end of an event that handled a LEVEL record: its DONE is placed, and the Governor stands as the record left it. -/
theorem settle_levelSet {s : State} {b : List Byte} (hcalm : Calm s) (hroom : s.port.writeQueue.length + 1 ≤ 64) (result : List Byte)
    (g : Governor) :
    ({ (s.fetched b).handle .done 0 result with gov := g } : State).settle =
      { s.finished b (dispositionSpans s.walker.next .done 0 result) with gov := g } := by
  have hcalm' : Calm { s.fetched b with gov := g } :=
    ⟨hcalm.line, hcalm.statuses, hcalm.ready, hcalm.owed, hcalm.messages, hcalm.units, hcalm.emits, hcalm.solves, hcalm.combines⟩
  exact settle_handle _ hcalm' hroom .done 0 result

/-- Settles O30: a mode above 2 is refused; past that check the Governor takes the new level and the record is DONE. -/
theorem levelRecord : Obligations.LevelRecord := by
  intro s b ha hr hp
  obtain ⟨hcalm, -, hroom⟩ := (s.atRest_iff 1).1 hr
  rw [exec_level_posted ha hp, State.dispatchLevel]
  extract_lets mode value l
  by_cases hmode : 2 < mode
  · have hnone : newLevel (s.fetched b).gov.level (recLevelMode b) (recLevelValue b) = none := newLevel_eq_none hmode _
    rw [hnone, if_pos hmode, settle_refuse s b hr]
  · have hsome : newLevel (s.fetched b).gov.level (recLevelMode b) (recLevelValue b) = some l := newLevel_eq_some (Nat.le_of_not_lt hmode) _
    rw [hsome, if_neg hmode]
    refine congrArg Host.Outcome.next ((settle_levelSet hcalm hroom _ _).trans ?_)
    show { s.finished b _ with gov := s.gov.setLevel l } = _
    rw [setLevel_eq]
    rfl

/-! ### What one command can do to the Governor -/

/-- Nothing, a tick's refill, the level of a LEVEL record, the charge of one or two segment units of a context, or a reset. -/
inductive GovMove (ctxs : Table Ctx) (g : Governor) : Governor → Prop
  | kept : GovMove ctxs g g
  | refilled : GovMove ctxs g g.refill
  | leveled {mode value l : Nat} (h : newLevel g.level mode value = some l) : GovMove ctxs g (g.setLevel l)
  | charged {i n : Nat} {c : Ctx} (hc : ctxs.get i = some c) (hleave : g.allows = true) (hn : n = 1 ∨ n = 2) :
      GovMove ctxs g (g.charge (n * c.geo.unitSize))
  | reset : GovMove ctxs g Governor.reset

variable {s t : State}

theorem GovMove.of_eq {ctxs : Table Ctx} {g g' : Governor} (h : g' = g) : GovMove ctxs g g' := h ▸ .kept

/-- What follows the move leaves the Governor alone. -/
theorem GovMove.then_kept {ctxs : Table Ctx} {g : Governor} (h : GovMove ctxs g s.gov) (hkept : t.gov = s.gov) :
    GovMove ctxs g t.gov := hkept ▸ h

/-- A command that is not due leaves the Governor alone. -/
theorem gov_ite {c : Prop} [Decidable c] (h : t.gov = s.gov) : (if c then t else s).gov = s.gov := by
  split
  · exact h
  · rfl

theorem settle_gov (s : State) : s.settle.gov = s.gov := (settle_frame roleMove_rel s).gov

theorem offer_gov (s : State) (w : Writer) : (s.offer w).gov = s.gov := (offer_frame roleMove_rel s w).gov

/-- An event that is due leaves the Governor alone, and so does its end. -/
theorem Frame.gov_ite_settle {P : Role → Role → Prop} {c : Prop} [Decidable c] (h : Frame P s t) :
    (if c then t.settle else s).gov = s.gov := gov_ite ((settle_gov t).trans h.gov)

/-! ### Records -/

theorem dispatchOpen_gov (s : State) (b : List Byte) : (s.dispatchOpen b).gov = s.gov := by
  unfold State.dispatchOpen
  split
  · rfl
  · exact (placeContext_frame roleMove_rel _ _).gov

theorem dispatchRegion_gov (s : State) (b : List Byte) : (s.dispatchRegion b).gov = s.gov := by
  unfold State.dispatchRegion
  split <;> rfl

theorem dispatchLevel_govMove (s : State) (b : List Byte) : GovMove s.ctxs s.gov (s.dispatchLevel b).gov := by
  unfold State.dispatchLevel
  split
  · exact .kept
  · next hl => exact .leveled hl

theorem dispatch_govMove (s : State) : GovMove s.ctxs s.gov s.dispatch.gov := by
  unfold State.dispatch
  extract_lets b
  split
  · exact .of_eq (dispatchOpen_gov s b)
  · exact .of_eq (dispatchFeed_frame roleMove_rel s b).gov
  · exact .of_eq (dispatchSink_frame roleMove_rel s b).gov
  · exact .of_eq (dispatchDrop_frame roleMove_rel roleMove_allows s b).gov
  · exact .of_eq (dispatchAbort_frame roleMove_rel s b).gov
  · exact .of_eq (dispatchRegion_gov s b)
  · exact .kept
  · exact dispatchLevel_govMove s b
  · exact .kept

theorem checkRecord_govMove (s : State) : GovMove s.ctxs s.gov s.checkRecord.gov := by
  unfold State.checkRecord
  extract_lets b
  split
  · exact .of_eq (fault_frame roleMove_rel s _ _).gov
  · split
    · exact .kept
    · split
      · exact .kept
      · exact dispatch_govMove s

theorem firstHalfArrived_govMove (s : State) (bytes : List Byte) : GovMove s.ctxs s.gov (s.firstHalfArrived bytes).gov := by
  unfold State.firstHalfArrived
  extract_lets _ s1
  split
  · split
    · exact .kept
    · exact .of_eq (fault_frame roleMove_rel s1 _ _).gov
  · exact checkRecord_govMove s1

theorem secondHalfArrived_govMove (s : State) (bytes : List Byte) : GovMove s.ctxs s.gov (s.secondHalfArrived bytes).gov :=
  checkRecord_govMove (State.clearFetch { s with walker := { s.walker with buffer := s.walker.buffer ++ bytes } })

theorem recordArrived_govMove (s : State) (bytes : List Byte) : GovMove s.ctxs s.gov (s.recordArrived bytes).gov := by
  unfold State.recordArrived
  split
  · split
    · exact .of_eq (discardFetch_frame roleMove_rel s).gov
    · exact (firstHalfArrived_govMove s bytes).then_kept (settle_gov _)
  · exact .kept

theorem openTailArrived_govMove (s : State) (bytes : List Byte) : GovMove s.ctxs s.gov (s.openTailArrived bytes).gov := by
  unfold State.openTailArrived
  split
  · exact .of_eq (discardFetch_frame roleMove_rel s).gov
  · exact (secondHalfArrived_govMove s bytes).then_kept (settle_gov _)

/-! ### Registers, time, teardown and issue -/

theorem applyRun_gov (s : State) (v : Word64) : (s.applyRun v).gov = s.gov := by
  unfold State.applyRun
  split
  · rfl
  · split
    · extract_lets _ s1
      exact gov_ite (s := s1) (start_frame roleMove_rel s1).gov
    · exact (stop_frame roleMove_rel _).gov

/-- A write of ENG_CTRL leaves the Governor alone, but for a soft reset (R186, R193). -/
theorem writeEngCtrl_govMove (s : State) (v : Word64) : GovMove s.ctxs s.gov (s.writeEngCtrl v).gov := by
  unfold State.writeEngCtrl
  split
  · exact .of_eq (offer_gov (s.applyAttn v) _)
  · split
    · exact .reset
    · split
      · extract_lets t
        split
        · exact .of_eq ((offer_gov _ _).trans (applyRun_gov (t.applyAttn v) v))
        · exact .of_eq ((offer_gov _ _).trans (applyRun_gov t v))
      · exact .of_eq ((offer_gov _ _).trans (applyRun_gov s v))

theorem tick_govMove (s : State) : GovMove s.ctxs s.gov s.tick.offerReady.gov := by
  have hgov : s.tick.offerReady.gov = s.gov.refill := (congrArg State.gov (tick_offerReady_placing s).steady :)
  exact hgov ▸ .refilled

theorem resumed_gov {i : Nat} {c : Ctx} (hc : s.ctxs.get i = some c) : (s.resumed i c).gov = s.gov := by
  have hclosed : ((s.returnCells i c).settle.closeContext i c).gov = (s.returnCells i c).settle.gov := by
    obtain ⟨r, h⟩ := closeContext_apart (s.returnCells i c).settle i c
    rw [h]
  calc (s.resumed i c).gov = ((s.returnCells i c).settle.closeContext i c).gov := settle_gov _
    _ = (s.returnCells i c).settle.gov := hclosed
    _ = (s.returnCells i c).gov := settle_gov _
    _ = s.gov := (returnCells_frame hc).gov

theorem grant_govMove (s : State) : GovMove s.ctxs s.gov s.grant.gov := by
  obtain ⟨g, hframe, hg⟩ := grant_frame roleMove_rel s
  have hgov : s.grant.gov = g := hframe.gov
  rw [hgov]
  rcases hg with rfl | ⟨i, c, hc, hleave, rfl | rfl⟩
  · exact .kept
  · have hone : GovMove s.ctxs s.gov (s.gov.charge (1 * c.geo.unitSize)) := .charged hc hleave (.inl rfl)
    rwa [Nat.one_mul] at hone
  · exact .charged hc hleave (.inr rfl)

theorem issueOne_govMove (s : State) : GovMove s.ctxs s.gov s.issueOne.gov := by
  unfold State.issueOne
  split
  · exact .kept
  · split
    · exact .of_eq (issueFetch_frame roleMove_rel s _).gov
    · split
      · next w rest hqueue =>
        exact .of_eq ((offer_gov _ _).trans
          ((popWrite_frame roleMove_rel s w rest hqueue).trans roleMove_rel (issueWrite_frame roleMove_rel _ w)).gov)
      · split
        · exact .of_eq (reissue_frame roleMove_rel _ _).gov
        · exact grant_govMove s

/-! ### Every command -/

theorem exec_govMove {c : Instr} (h : exec c s = .next t) : GovMove s.ctxs s.gov t.gov := by
  cases c with
  | openRecord bytes =>
    cases h
    split
    · exact openTailArrived_govMove s _
    · exact recordArrived_govMove s _
  | feed bytes | sink bytes | drop bytes | abort bytes | region bytes | tune bytes | level bytes | badKind bytes =>
    cases h; exact recordArrived_govMove s _
  | recordFetchError => cases h; exact .of_eq (fetchErred_frame roleMove_rel s).gov
  | fetchDiscard => cases h; exact .of_eq (gov_ite (discardFetch_frame roleMove_rel s).gov)
  | walkerWriteIssued => cases h; exact .of_eq (gov_ite ((offer_gov _ _).trans (followLink_frame roleMove_rel s).gov))
  | linkWordRead link => cases h; exact .of_eq (linkRead_frame roleMove_rel s link).gov
  | pollTimer => cases h; exact .of_eq (gov_ite rfl)
  | chnCheck value => cases h; exact .of_eq (check_frame roleMove_rel s).gov
  | chnHead value => cases h; split <;> exact .kept
  | registerWrite reg value => cases h; cases reg <;> (split <;> exact .kept)
  | runSet value | runClear value | attnEnable value | softReset value => cases h; exact writeEngCtrl_govMove s value
  | heldStart => cases h; exact .of_eq (gov_ite ((offer_gov _ _).trans (start_frame roleMove_rel s).gov))
  | clearAttention value => cases h; exact .of_eq (gov_ite rfl)
  | fullReset => cases h; exact .reset
  | outstandingReturn => cases h; exact .of_eq (gov_ite rfl)
  | tick => cases h; exact tick_govMove s
  | stallExpiry slot =>
    cases h
    split
    · exact .kept
    · exact .of_eq (takeExpiry_frame roleMove_rel s _ _ ⟨roleMove_allows.demote, roleMove_allows.promote⟩).gov_ite_settle
  | tableFull => cases h; exact .of_eq (gov_ite (offer_gov (s.refuseRecord _) _))
  | blockedRecheck =>
    cases h
    exact .of_eq (gov_ite ((settle_gov _).trans (recheck_frame roleMove_rel { s with walker := { s.walker with room := false } }).gov))
  | issueOpportunity => cases h; exact issueOne_govMove s
  | claimLineServe => cases h; exact .of_eq (serveClaims_frame roleMove_rel s).gov
  | sourceReadComplete slot data => cases h; exact .of_eq (readArrived_frame roleMove_rel s _ _).gov_ite_settle
  | sourceReadError slot => cases h; exact .of_eq (readErred_frame roleMove_rel s _).gov_ite_settle
  | combineComplete =>
    cases h
    split
    · exact .kept
    · exact .of_eq ((settle_gov _).trans (finishCombine_frame s _).gov)
  | emitComplete =>
    cases h
    split
    · exact .kept
    · exact .of_eq (finishEmit_frame s _).gov_ite_settle
  | solveComplete =>
    cases h
    split
    · exact .kept
    · exact .of_eq ((settle_gov _).trans (finishSolve_frame s _).gov)
  | drained slot =>
    cases h
    split
    · exact .kept
    · exact .of_eq (finaliseContext_frame s _ _).gov_ite_settle
  | teardownResume slot =>
    cases h
    split
    · exact .kept
    · next c hc => exact .of_eq (gov_ite (resumed_gov hc))

/-! ### The bounds of the credit (R161) -/

variable {g : Governor}

theorem bounded_unlimited_iff (h : g.level = 15) : g.bounded ↔ g.credit = 0 := by
  simp [Governor.bounded, h]

theorem bounded_limited_iff (h : g.level ≤ 14) : g.bounded ↔ -8255 ≤ g.credit ∧ g.credit ≤ budget g.level := by
  rw [Governor.bounded, if_neg (by omega : ¬ g.level = 15)]
  exact and_iff_right (by omega)

/-- Level 15, where the credit is 0, or a level below it. -/
theorem Governor.bounded.level_cases (h : g.bounded) : g.level = 15 ∨ g.level ≤ 14 := by
  have hlevel : g.level ≤ 15 := h.1
  omega

theorem reset_bounded : Governor.reset.bounded := (bounded_limited_iff (by decide)).mpr (by decide)

theorem refill_bounded (h : g.bounded) : g.refill.bounded := by
  rcases h.level_cases with htop | hbelow
  · rw [bounded_unlimited_iff htop] at h
    exact (bounded_unlimited_iff (g := g.refill) htop).mpr ((refill_credit_unlimited htop).trans h)
  · rw [bounded_limited_iff hbelow] at h
    refine (bounded_limited_iff (g := g.refill) hbelow).mpr ?_
    rw [refill_credit_limited hbelow]
    show _ ∧ _ ≤ (budget g.level : Int)
    omega

theorem setLevel_bounded {l : Nat} (hl : l ≤ 15) (h : g.bounded) : (g.setLevel l).bounded := by
  rw [setLevel_eq]
  by_cases hsame : l = g.level
  · subst hsame
    rwa [if_pos rfl]
  rw [if_neg hsame]
  by_cases htop : l = 15
  · rw [if_pos htop]
    exact (bounded_unlimited_iff htop).mpr rfl
  rw [if_neg htop]
  refine (bounded_limited_iff (by show l ≤ 14; omega)).mpr ?_
  rcases h.level_cases with hfrom | hbelow
  · simp only [if_pos hfrom]
    omega
  · rw [bounded_limited_iff hbelow] at h
    simp only [if_neg (by omega : ¬ g.level = 15)]
    split <;> omega

/-- The largest segment unit is 4128 bytes (R13, R22). -/
theorem unitSize_le {c : Ctx} (h : c.sound) : c.geo.unitSize ≤ 4128 := by
  have hcode : c.geo.sizeCode ≤ 3 := h.1
  show segSizeOf c.geo.sizeCode + 32 ≤ 4128
  rcases segSizeOf_cases hcode with h | h | h | h <;> omega

/-- Below level 15 a grant needs a credit of at least 1, and two units take at most 8256 bytes of it (R160, R162). -/
theorem charge_bounded {n : Nat} (hleave : g.allows = true) (hn : n ≤ 8256) (h : g.bounded) : (g.charge n).bounded := by
  rcases h.level_cases with htop | hbelow
  · rw [bounded_unlimited_iff htop] at h
    exact (bounded_unlimited_iff ((charge_level g n).trans htop)).mpr ((charge_credit_unlimited htop n).trans h)
  · have hcredit : 0 < g.credit := by
      rcases allows_iff.mp hleave with htop | ⟨-, hcredit⟩
      · omega
      · exact hcredit
    rw [bounded_limited_iff hbelow] at h
    refine (bounded_limited_iff (by rwa [charge_level])).mpr ?_
    rw [charge_credit_limited (by omega), charge_level]
    omega

theorem GovMove.bounded {ctxs : Table Ctx} {g' : Governor} (hsound : ∀ i c, ctxs.get i = some c → c.sound) (hmove : GovMove ctxs g g')
    (h : g.bounded) : g'.bounded := by
  cases hmove with
  | kept => exact h
  | refilled => exact refill_bounded h
  | leveled hl => exact setLevel_bounded (newLevel_le h.1 hl) h
  | @charged i n c hc hleave hn =>
    have hbytes : n * c.geo.unitSize ≤ 2 * 4128 := Nat.mul_le_mul (by omega) (unitSize_le (hsound i c hc))
    exact charge_bounded hleave hbytes h
  | reset => exact reset_bounded

/-- Settles O14: whatever a command can do to the Governor keeps the credit in its bounds. -/
theorem creditBounds : Obligations.CreditBounds := by
  intro s t hsound hbounded hstep
  unfold step at hstep
  split at hstep
  · cases hstep; exact hbounded
  · next cmd rest _ =>
    exact (exec_govMove (s := { s with pending := rest }) hstep).bounded hsound hbounded

end Sys2Proof.Machine
end

section
/-! PROOFS. What the Walker does of itself (R173 to R178): it goes on by a link, asks for the link word again, refuses a record blocked to
its limit. -/

namespace Sys2Proof.Machine

/-! ### CHN_CHECK and POLL_TIMER -/

/-- A check of a Walker that is not PARKED is discarded (R176). -/
theorem check_of_not_parked {s : State} (h : s.walker.state ≠ .parked) : s.check = s := if_neg h

/-- A check of a PARKED Walker whose link-word read is on its way is owed (R176). -/
theorem check_pending {s : State} (h : s.walker.state = .parked) (hpending : s.linkPending = true) :
    s.check = { s with walker := { s.walker with checkOwed := true } } := (if_pos h).trans (if_pos hpending)

/-- Any other check of a PARKED Walker asks for the link word at once (R176). -/
theorem check_asks {s : State} (h : s.walker.state = .parked) (hpending : s.linkPending = false) :
    s.check = { s with walker := { s.asking .linkWord s.walker.cursor with pollTimer := none } } :=
  (if_pos h).trans (if_neg (ne_true_of_eq_false hpending))

theorem exec_pollTimer_due {s : State} (h : s.walker.state = .parked) (htimer : s.walker.pollTimer.isSome = true) :
    exec .pollTimer s = .next { s with walker := { s.asking .linkWord s.walker.cursor with pollTimer := none } } :=
  congrArg Host.Outcome.next (if_pos ⟨h, htimer⟩)

theorem exec_pollTimer_not_due {s : State} (h : s.walker.state ≠ .parked ∨ s.walker.pollTimer = none) : exec .pollTimer s = .next s := by
  refine congrArg Host.Outcome.next (if_neg ?_)
  rintro ⟨hparked, htimer⟩
  rcases h with h | h
  · exact h hparked
  · rw [h] at htimer; cases htimer

/-- Settles O16: a check by whether the Walker is PARKED and its read on the way, the poll timer by whether it runs. -/
theorem pollingAndChecking : Obligations.PollingAndChecking := fun _ _ =>
  ⟨fun h => congrArg Host.Outcome.next (check_of_not_parked h),
    fun h hpending => congrArg Host.Outcome.next (check_pending h hpending),
    fun h hpending => congrArg Host.Outcome.next (check_asks h hpending), exec_pollTimer_due, exec_pollTimer_not_due⟩

/-! ### WALKER_WRITE_ISSUED -/

section FollowLink

variable {s : State}

/-- A link of 0 parks the Walker, its poll timer running (R174). -/
theorem followLink_parks (h : recLink s.walker.buffer = 0) :
    s.followLink = { s with walker := { s.walker with state := .parked, pollTimer := some s.walker.pollInterval } } := if_pos h

/-- A valid link is taken (R174). -/
theorem followLink_takes (h : recLink s.walker.buffer ≠ 0)
    (hvalid : recordAddressValid s.ctl.chnBase s.ctl.chnSize (recLink s.walker.buffer) = true) :
    s.followLink = s.taking (recLink s.walker.buffer) := (if_neg h).trans (if_pos hvalid)

/-- Any other link faults (R174). -/
theorem followLink_faults (h : recLink s.walker.buffer ≠ 0)
    (hbad : recordAddressValid s.ctl.chnBase s.ctl.chnSize (recLink s.walker.buffer) = false) :
    s.followLink = s.fault .badLink (recLink s.walker.buffer) := (if_neg h).trans (if_neg (ne_true_of_eq_false hbad))

theorem exec_walkerWriteIssued_due (hstate : s.walker.state = .fetching) (hphase : s.walker.phase = .link)
    (hissued : s.walker.unissued = false) : exec .walkerWriteIssued s = .next (s.followLink.offer .control) :=
  congrArg Host.Outcome.next (if_pos ⟨hstate, hphase, hissued⟩)

theorem exec_walkerWriteIssued_not_due (h : s.walker.unissued = true) : exec .walkerWriteIssued s = .next s :=
  congrArg Host.Outcome.next (if_neg fun hdue => Bool.false_ne_true (hdue.2.2.symm.trans h))

end FollowLink

/-- Settles O23: a link of 0, a valid link and another, each with nothing to place but a fault's writes. -/
theorem walkerWriteIssued : Obligations.WalkerWriteIssued := by
  intro s hstate hphase
  refine ⟨exec_walkerWriteIssued_not_due, fun hissued hrest => ?_⟩
  obtain ⟨hcalm, -, hroom⟩ := (s.atRest_iff 2).1 hrest
  rw [exec_walkerWriteIssued_due hstate hphase hissued]
  refine congrArg Host.Outcome.next ?_
  by_cases hzero : recLink s.walker.buffer = 0
  · rw [if_pos hzero, followLink_parks hzero]
    exact offer_control_calm hcalm rfl
  · rw [if_neg hzero]
    cases hvalid : recordAddressValid s.ctl.chnBase s.ctl.chnSize (recLink s.walker.buffer) with
    | true => rw [if_pos rfl, followLink_takes hzero hvalid]; exact offer_control_calm hcalm rfl
    | false => rw [if_neg Bool.false_ne_true, followLink_faults hzero hvalid]; exact offer_fault s hcalm hroom _ _

/-! ### TABLE_FULL -/

theorem blockedOut_iff {w : Walker} (h : w.state = .blocked) :
    w.blockedOut = true ↔ ∃ n, w.blockedTimer = some n ∧ w.blockedLimit ≤ n := by
  cases htimer : w.blockedTimer <;> simp [Walker.blockedOut, h, htimer]

theorem exec_tableFull_due {s : State} (h : s.walker.blockedOut = true) :
    exec .tableFull s = .next ((s.refuseRecord .tableFull).offer .walker) := congrArg Host.Outcome.next (if_pos h)

theorem exec_tableFull_not_due {s : State} (h : ¬ s.walker.blockedOut = true) : exec .tableFull s = .next s :=
  congrArg Host.Outcome.next (if_neg h)

/-- Settles O26: the timer at the limit, the refusal placed at once; below it or with no timer, nothing. -/
theorem tableFull : Obligations.TableFull := by
  intro s hblocked
  refine ⟨fun n htimer hlimit hrest => ?_, fun n htimer hbelow => exec_tableFull_not_due ?_, fun hnone => exec_tableFull_not_due ?_⟩
  · obtain ⟨hcalm, -, hroom⟩ := (s.atRest_iff 1).1 hrest
    rw [exec_tableFull_due ((blockedOut_iff hblocked).mpr ⟨n, htimer, hlimit⟩)]
    exact congrArg Host.Outcome.next (offer_handle s hcalm hroom .refused 11 [])
  · rw [blockedOut_iff hblocked]
    rintro ⟨m, hm, hlimit⟩
    cases htimer.symm.trans hm
    omega
  · rw [blockedOut_iff hblocked]
    rintro ⟨m, hm, -⟩
    cases hnone.symm.trans hm

end Sys2Proof.Machine
end

section
/-! PROOFS. The Walker's checks of a record's header and body (R171), and a TUNE record taken (R183). -/

namespace Sys2Proof.Machine

/-! ### The commands by which records arrive -/

theorem recordBytes_recKind {b : List Byte} (h : b.length = 64) : recordBytes (recKind b) b = true := by
  obtain ⟨x, hx⟩ : ∃ x, b[8]? = some x := ⟨b[8], List.getElem?_eq_getElem (by omega)⟩
  have hget : b.getD 8 0 = x := by rw [List.getD_eq_getElem?_getD, hx]; rfl
  have hbytes : recordBytes x.toNat b = true := by simp only [recordBytes, h, hget, BEq.rfl, Bool.and_self]
  rwa [recKind_recordBytes _ b hbytes]

/-- BAD_KIND brings the 64 bytes as they are. -/
theorem exec_badKind {s : State} {b : List Byte} (h : b.length = 64) : exec (.badKind b) s = .next (s.recordArrived b) := by
  show Host.Outcome.next (s.recordArrived (exactBytes 64 b)) = _
  rw [exactBytes_length b 64 h]

/-- So does the command of every kind but OPEN's, its kind byte standing in the record. -/
theorem exec_recordCommand {s : State} {b : List Byte} (h : b.length = 64) (hopen : recKind b ≠ 1) :
    exec (recordCommand b) s = .next (s.recordArrived b) := by
  have harrives : ∀ k, recKind b = k → s.recordArrived (withKind k b) = s.recordArrived b := by
    intro k hk
    rw [withKind_recordBytes k b (hk ▸ recordBytes_recKind h)]
  unfold recordCommand
  split
  case h_1 hk => exact absurd hk hopen
  case h_2 hk => exact congrArg Host.Outcome.next (harrives 2 hk)
  case h_3 hk => exact congrArg Host.Outcome.next (harrives 3 hk)
  case h_4 hk => exact congrArg Host.Outcome.next (harrives 4 hk)
  case h_5 hk => exact congrArg Host.Outcome.next (harrives 5 hk)
  case h_6 hk => exact congrArg Host.Outcome.next (harrives 6 hk)
  case h_7 hk => exact congrArg Host.Outcome.next (harrives 7 hk)
  case h_8 hk => exact congrArg Host.Outcome.next (harrives 8 hk)
  case h_9 => exact exec_badKind h

/-- The record an awaiting Walker gets is checked, unless it is an OPEN's, and the event settled (R170, R171). -/
theorem recordArrived_checked {s : State} {b : List Byte} (h : s.awaitsRecord = true) (hopen : recKind b ≠ 1) :
    s.recordArrived b = (s.fetched b).checkRecord.settle := by
  rw [(recordArrived_awaits s b h).1, firstHalf_other s b hopen]

/-! ### The checks -/

section Checks

variable {s : State}

theorem checkRecord_notPosted (h : recDisposition s.walker.buffer ≠ 0) : s.checkRecord = s.fault .notPosted s.walker.next := if_pos h

theorem checkRecord_badKind (h : recDisposition s.walker.buffer = 0) (hkind : recKind s.walker.buffer = 0 ∨ 8 < recKind s.walker.buffer) :
    s.checkRecord = s.refuseRecord .badKind := (if_neg (not_not_intro h)).trans (if_pos hkind)

theorem checkRecord_badField (h : recDisposition s.walker.buffer = 0)
    (hkind : ¬ (recKind s.walker.buffer = 0 ∨ 8 < recKind s.walker.buffer))
    (hfield : headerClean s.walker.buffer = false ∨ bodyClean (recKind s.walker.buffer) s.walker.buffer = false) :
    s.checkRecord = s.refuseRecord .badField := (if_neg (not_not_intro h)).trans ((if_neg hkind).trans (if_pos hfield))

end Checks

/-- Settles O27: a record of any kind but OPEN's goes through the checks in order; the first that fails faults or refuses it. -/
theorem headerChecks : Obligations.HeaderChecks := by
  refine ⟨fun s b ha hrest hlength hkind hposted => ?_,
    fun s b ha hrest hlength hopen => ⟨fun htaken => ?_, fun hposted hlow hhigh hfield => ?_⟩⟩
  · rw [exec_badKind hlength, recordArrived_checked ha (by omega), checkRecord_badKind hposted hkind, settle_refuse s b hrest]
  · obtain ⟨hcalm, hready, hroom⟩ := (s.atRest_iff 2).1 hrest
    rw [exec_recordCommand hlength hopen, recordArrived_checked ha hopen, checkRecord_notPosted htaken,
      settle_fault (s.fetched b) (calm_fetched s b hcalm) hready hroom]
    rfl
  · have hkind : ¬ (recKind b = 0 ∨ 8 < recKind b) := by omega
    rw [exec_recordCommand hlength hopen, recordArrived_checked ha hopen, checkRecord_badField hposted hkind hfield,
      settle_refuse s b (atRest_mono hrest (by omega))]

/-! ### TUNE -/

theorem dispatch_tune {s : State} (h : recKind s.walker.buffer = 7) : s.dispatch = s.dispatchTune s.walker.buffer := by
  simp only [State.dispatch, h]

/-- A posted TUNE record arrives: its owner takes it, and the event is settled. -/
theorem exec_tune_posted {s : State} {b : List Byte} (ha : s.awaitsRecord = true) (hp : postedRecord 7 b = true) :
    exec (.tune b) s = .next ((s.fetched b).dispatchTune b).settle := by
  show Host.Outcome.next (s.recordArrived (withKind 7 b)) = _
  rw [recordArrived_posted s b 7 ha hp (by omega) (by omega), dispatch_tune (recKind_posted 7 b hp)]
  rfl

/-- The five settings of a TUNE record (R183), clamped. -/
def State.tuned (s : State) (b : List Byte) : State :=
  { s with
    port := { s.port with readLimit := max 1 (min 4 (recReadLimit b)), pairMode := decide (recPairMode b ≠ 0),
                          retryCount := min 3 (recRetryCount b) }
    walker := { s.walker with pollInterval := max 1 (recPollInterval b), blockedLimit := min 1000 (recBlockedLimit b) } }

/-- A TUNE record is handled like any other that is DONE, by a Walker and a port with the new settings. -/
theorem dispatchTune_eq (s : State) (b : List Byte) :
    s.dispatchTune b = (s.tuned b).handle .done 0 (toLE 1 (tuneMask b) ++ List.replicate 15 0) := by
  have hpair : (recPairMode b != 0) = decide (recPairMode b ≠ 0) := Bool.eq_iff_iff.mpr (by simp)
  rw [State.dispatchTune, hpair]
  rfl

/-- The end of an event that handled a TUNE record: its DONE and the mask are placed, the settings stand as the record set them. -/
theorem settle_dispatchTune {s : State} {b : List Byte} (hcalm : Calm s) (hroom : s.port.writeQueue.length + 1 ≤ 64) :
    ((s.fetched b).dispatchTune b).settle = State.tuned (s.finished b [outcomeBytes s.walker.next 2 0,
      { addr := s.walker.next.toNat + 48, bytes := BitVec.ofNat 8 (tuneMask b) :: List.replicate 15 0 }]) b := by
  have hcalm' : Calm ((s.fetched b).tuned b) :=
    ⟨hcalm.line, hcalm.statuses, hcalm.ready, hcalm.owed, hcalm.messages, hcalm.units, hcalm.emits, hcalm.solves, hcalm.combines⟩
  rw [dispatchTune_eq]
  exact settle_handle _ hcalm' hroom .done 0 _

/-- Settles O28: the settings are clamped at dispatch, and the record's DONE carries the mask. -/
theorem tuneRecord : Obligations.TuneRecord := by
  intro s b ha hrest hp
  obtain ⟨hcalm, -, hroom⟩ := (s.atRest_iff 1).1 hrest
  rw [exec_tune_posted ha hp, settle_dispatchTune hcalm hroom]
  rfl

end Sys2Proof.Machine
end

section
/-! PROOFS. Writes of ENG_CTRL that start no soft reset (R186, R192): the order of their two parts, and what they leave alone. -/

namespace Sys2Proof.Machine

/-! ### The two parts of a write -/

/-- A value that leaves ATTN_ENABLE as it was changes nothing (R192). -/
theorem applyAttn_of_eq {s : State} {v : Word64} (h : v.getLsbD 2 = s.ctl.attnEnable) : s.applyAttn v = s := by
  have hctl : s.ctl.setAttnEnable (v.getLsbD 2) = s.ctl := by
    rw [h, Control.setAttnEnable, if_neg (by cases s.ctl.attnEnable <;> simp)]
  rw [State.applyAttn, hctl]

/-- A value that leaves RUN as it was starts and stops nothing (R187). -/
theorem applyRun_of_eq {s : State} {v : Word64} (h : v.getLsbD 0 = s.ctl.run) : s.applyRun v = s := if_pos h

section RunChanges

variable {s : State} {v : Word64}

theorem applyRun_starts (hv : v.getLsbD 0 = true) (hrun : s.ctl.run = false) (hidle : s.walker.state = .idle) :
    s.applyRun v = State.start { s with ctl := { s.ctl with run := true } } :=
  (if_neg (by rw [hv, hrun]; decide)).trans ((if_pos hv).trans (if_pos hidle))

theorem applyRun_waits (hv : v.getLsbD 0 = true) (hrun : s.ctl.run = false) (hbusy : s.walker.state ≠ .idle) :
    s.applyRun v = { s with ctl := { s.ctl with run := true } } :=
  (if_neg (by rw [hv, hrun]; decide)).trans ((if_pos hv).trans (if_neg hbusy))

theorem applyRun_stops (hv : v.getLsbD 0 = false) (hrun : s.ctl.run = true) :
    s.applyRun v = State.stop { s with ctl := { s.ctl with run := false } } :=
  (if_neg (by rw [hv, hrun]; decide)).trans (if_neg (ne_true_of_eq_false hv))

end RunChanges

theorem programmed_run {c d : Control} (h : c.programmed = d.programmed) : c.run = d.run := congrArg (·.1) h

theorem programmed_attnEnable {c d : Control} (h : c.programmed = d.programmed) : c.attnEnable = d.attnEnable := congrArg (·.2.1) h

theorem applyRun_programmed (s : State) (v : Word64) :
    (s.applyRun v).ctl.programmed = ({ s.ctl with run := v.getLsbD 0 } : Control).programmed := by
  unfold State.applyRun
  split
  · next h => rw [h]
  · split
    · next hv =>
      rw [hv]
      extract_lets _ s1
      split
      · exact (start_frame roleMove_rel s1).programmed
      · rfl
    · next hv => rw [Bool.eq_false_of_not_eq_true hv]; exact (stop_frame roleMove_rel _).programmed

@[simp] theorem applyRun_run (s : State) (v : Word64) : (s.applyRun v).ctl.run = v.getLsbD 0 := programmed_run (applyRun_programmed s v)

@[simp] theorem applyRun_attnEnable (s : State) (v : Word64) : (s.applyRun v).ctl.attnEnable = s.ctl.attnEnable :=
  (programmed_attnEnable (applyRun_programmed s v) :)

/-- Setting RUN touches only a Walker that is IDLE when RUN is clear (R187). -/
theorem applyRun_walker {s : State} {v : Word64} (hv : v.getLsbD 0 = true) (h : s.ctl.run = true ∨ s.walker.state ≠ .idle) :
    (s.applyRun v).walker = s.walker := by
  cases hrun : s.ctl.run with
  | true => rw [applyRun_of_eq (hv.trans hrun.symm)]
  | false => rw [applyRun_waits hv hrun (h.resolve_left (ne_true_of_eq_false hrun))]

/-! ### The write -/

/-- A write applies its RUN and then its ATTN_ENABLE, but for the one order that can be seen (log entry 16). -/
theorem writeEngCtrl_run_first {s : State} {v : Word64} (hreset : v.getLsbD 1 = false) (hresetting : s.ctl.resetting = false)
    (horder : s.orderMatters v = false) : s.writeEngCtrl v = ((s.applyRun v).applyAttn v).offer .control := by
  rw [State.writeEngCtrl, hresetting, hreset, horder]
  rfl

/-- Either order, after a free value is used or not. -/
theorem writeEngCtrl_orders {s : State} {v : Word64} (hreset : v.getLsbD 1 = false) (hresetting : s.ctl.resetting = false) :
    ∃ n, s.writeEngCtrl v = ((State.applyRun { s with draws := n } v).applyAttn v).offer .control ∨
      s.writeEngCtrl v = ((State.applyAttn { s with draws := n } v).applyRun v).offer .control := by
  cases horder : s.orderMatters v with
  | false => exact ⟨s.draws, .inl (writeEngCtrl_run_first hreset hresetting horder)⟩
  | true =>
    refine ⟨s.draws + 1, ?_⟩
    rw [State.writeEngCtrl, hresetting, hreset, horder]
    simp only [Bool.false_eq_true, if_false, if_true]
    split
    · exact .inr rfl
    · exact .inl rfl

/-- With ATTN_ENABLE written as it stands, only RUN is applied. -/
theorem writeEngCtrl_run_only {s : State} {v : Word64} (hreset : v.getLsbD 1 = false) (hresetting : s.ctl.resetting = false)
    (hattn : v.getLsbD 2 = s.ctl.attnEnable) : s.writeEngCtrl v = (s.applyRun v).offer .control := by
  have horder : s.orderMatters v = false := by
    rw [State.orderMatters, hattn, Bool.and_assoc, Bool.and_not_self, Bool.and_false]
  rw [writeEngCtrl_run_first hreset hresetting horder, applyAttn_of_eq (hattn.trans (applyRun_attnEnable s v).symm)]

/-! ### What a write leaves alone -/

/-- The state but for what a write of ENG_CTRL can touch before its writes are placed: RUN, ATTN_ENABLE and what attention readies, the
Walker, the record fetch in the port's hands, the count of free values. -/
def State.besideEngCtrl (s : State) : State :=
  { s with
    ctl := { s.ctl with run := false, attnEnable := false, attention := false, reportOwed := false, messages := 0 }
    walker := Walker.reset
    port := { s.port with fetch := none }
    draws := 0 }

theorem oweReport_besideEngCtrl (s : State) : s.oweReport.besideEngCtrl = s.besideEngCtrl := by
  unfold State.oweReport
  split <;> rfl

theorem cause_besideEngCtrl (s : State) : s.cause.besideEngCtrl = s.besideEngCtrl := by
  unfold State.cause Control.cause
  split <;> rfl

theorem fault_besideEngCtrl (s : State) (r : WalkerFault) (addr : Word64) : (s.fault r addr).besideEngCtrl = s.besideEngCtrl :=
  (cause_besideEngCtrl _).trans (oweReport_besideEngCtrl _)

theorem start_besideEngCtrl (s : State) : s.start.besideEngCtrl = s.besideEngCtrl := by
  unfold State.start
  split
  · split
    · rfl
    · split <;> rfl
  · exact fault_besideEngCtrl s _ _

theorem stop_besideEngCtrl (s : State) : s.stop.besideEngCtrl = s.besideEngCtrl := by
  unfold State.stop
  split
  · rfl
  · rfl
  · rfl
  · rfl
  · split <;> rfl

theorem applyRun_besideEngCtrl (s : State) (v : Word64) : (s.applyRun v).besideEngCtrl = s.besideEngCtrl := by
  unfold State.applyRun
  split
  · rfl
  · split
    · extract_lets _ s1
      split
      · exact start_besideEngCtrl s1
      · rfl
    · exact stop_besideEngCtrl _

/-- What a write of ENG_CTRL that starts no soft reset keeps (R186): the other registers, regions, entries and the Governor; contexts and the
write queue but for what placing does. -/
structure EngCtrlKept (s t : State) : Prop where
  chnBase : t.ctl.chnBase = s.ctl.chnBase
  chnSize : t.ctl.chnSize = s.ctl.chnSize
  chnHead : t.ctl.chnHead = s.ctl.chnHead
  regions : t.ctl.regions = s.ctl.regions
  finalised : t.ctl.finalised = s.ctl.finalised
  gov : t.gov = s.gov
  feeds : t.feeds = s.feeds
  sinks : t.sinks = s.sinks
  ctxs : s.ctxsSteady t
  queue : s.queueExtends t

/-- Contexts and their readied writes the same, placing does the same to them. -/
theorem ctxsSteady_of_eq {s u t : State} (hctxs : u.ctxs = s.ctxs) (hready : u.ready = s.ready) (h : u.ctxsSteady t) : s.ctxsSteady t := by
  unfold State.ctxsSteady State.holds State.readyOf at *
  rwa [hctxs, hready] at h

/-- The event's writes are placed last. -/
theorem Placing.engCtrlKept {s u t : State} (hbeside : u.besideEngCtrl = s.besideEngCtrl) (h : Placing u t) : EngCtrlKept s t := by
  have hctl : u.besideEngCtrl.ctl = s.besideEngCtrl.ctl := congrArg State.ctl hbeside
  have hsteady : t.steady.ctl = u.steady.ctl := congrArg State.ctl h.steady
  have hqueue : u.port.writeQueue = s.port.writeQueue := (congrArg (fun x : State => x.port.writeQueue) hbeside :)
  exact {
    chnBase := (congrArg Control.chnBase hsteady :).trans (congrArg Control.chnBase hctl :)
    chnSize := (congrArg Control.chnSize hsteady :).trans (congrArg Control.chnSize hctl :)
    chnHead := (congrArg Control.chnHead hsteady :).trans (congrArg Control.chnHead hctl :)
    regions := (congrArg Control.regions hsteady :).trans (congrArg Control.regions hctl :)
    finalised := (congrArg Control.finalised hsteady :).trans (congrArg Control.finalised hctl :)
    gov := (congrArg State.gov h.steady :).trans (congrArg State.gov hbeside :)
    feeds := (congrArg State.feeds h.steady :).trans (congrArg State.feeds hbeside :)
    sinks := (congrArg State.sinks h.steady :).trans (congrArg State.sinks hbeside :)
    ctxs := ctxsSteady_of_eq (congrArg State.ctxs hbeside :) (congrArg State.ready hbeside :) h.ctxs
    queue := by
      obtain ⟨more, hmore⟩ := h.queue
      exact ⟨more, by rw [hmore, hqueue]⟩ }

section Placed

variable {s t : State} (h : Placing s t)

include h

theorem Placing.run : t.ctl.run = s.ctl.run := (congrArg (fun x : State => x.ctl.run) h.steady :)

theorem Placing.attnEnable : t.ctl.attnEnable = s.ctl.attnEnable := (congrArg (fun x : State => x.ctl.attnEnable) h.steady :)

theorem Placing.walkerState : t.walker.state = s.walker.state := (congrArg (fun x : State => x.walker.state) h.steady :)

theorem Placing.walkerStopping : t.walker.stopping = s.walker.stopping := (congrArg (fun x : State => x.walker.stopping) h.steady :)

theorem Placing.walkerWanted : t.walker.wanted = s.walker.wanted := (congrArg (fun x : State => x.walker.wanted) h.steady :)

end Placed

end Sys2Proof.Machine
end

section
/-! PROOFS. RUN_SET, HELD_START (R168, R187) and RUN_CLEAR (R169), alone or in a write that changes ATTN_ENABLE too (R186). -/

namespace Sys2Proof.Machine

/-! ### Starting -/

theorem startValid_iff (s : State) : s.startValid = true ↔
    chainRegionValid s.ctl.chnBase s.ctl.chnSize = true ∧ recordAddressValid s.ctl.chnBase s.ctl.chnSize s.startAddress = true :=
  Bool.and_eq_true_iff

/-- The start checks with nothing left over: a start places nothing, a BAD_START its writes (R168, R187). -/
theorem offer_start {s : State} (hcalm : Calm s) (hroom : s.port.writeQueue.length + 2 ≤ 64) : s.start.offer .control = s.started := by
  have hchecks := startValid_iff s
  unfold State.start State.started
  by_cases hvalid : s.startValid = true
  · refine Eq.trans ?_ (if_pos (hchecks.mp hvalid)).symm
    rw [if_pos hvalid]
    by_cases hhead : s.walker.newHead = true
    · rw [if_pos hhead, if_pos hhead]
      exact offer_control_calm hcalm rfl
    · rw [if_neg hhead, if_neg hhead]
      by_cases hcursor : s.walker.cursor ≠ 0
      · rw [if_pos hcursor, if_pos hcursor]
        exact offer_control_calm hcalm rfl
      · rw [if_neg hcursor, if_neg hcursor]
        exact offer_control_calm hcalm rfl
  · refine Eq.trans ?_ (if_neg (mt hchecks.mpr hvalid)).symm
    rw [if_neg hvalid]
    exact offer_fault s hcalm hroom _ _

theorem calm_setRun {s : State} (h : Calm s) (on : Bool) : Calm { s with ctl := { s.ctl with run := on } } :=
  ⟨h.line, h.statuses, h.ready, h.owed, h.messages, h.units, h.emits, h.solves, h.combines⟩

theorem exec_runSet_run_only {s : State} {v : Word64} (hreset : v.getLsbD 1 = false) (hattn : v.getLsbD 2 = s.ctl.attnEnable)
    (hresetting : s.ctl.resetting = false) : exec (.runSet v) s = .next ((s.applyRun v).offer .control) :=
  congrArg Host.Outcome.next (writeEngCtrl_run_only hreset hresetting hattn)

theorem exec_heldStart_due {s : State} (hrun : s.ctl.run = true) (hidle : s.walker.state = .idle) :
    exec .heldStart s = .next (s.start.offer .control) := congrArg Host.Outcome.next (if_pos ⟨hidle, hrun⟩)

/-- What a RUN_SET leaves in any state, whichever of its two bits is applied first. -/
theorem runSet_taken {s : State} {v : Word64} (hv : v.getLsbD 0 = true) (hreset : v.getLsbD 1 = false) (hresetting : s.ctl.resetting = false) :
    ∃ u : State, s.writeEngCtrl v = u.offer .control ∧ u.besideEngCtrl = s.besideEngCtrl ∧ u.ctl.run = true ∧
      u.ctl.attnEnable = v.getLsbD 2 ∧ (s.ctl.run = true ∨ s.walker.state ≠ .idle → u.walker = s.walker) := by
  obtain ⟨n, hrunFirst | hattnFirst⟩ := writeEngCtrl_orders hreset hresetting
  · exact ⟨_, hrunFirst, applyRun_besideEngCtrl { s with draws := n } v, (applyRun_run { s with draws := n } v).trans hv, rfl,
      applyRun_walker (s := { s with draws := n }) hv⟩
  · exact ⟨_, hattnFirst, applyRun_besideEngCtrl (State.applyAttn { s with draws := n } v) v, (applyRun_run _ v).trans hv,
      applyRun_attnEnable _ v, applyRun_walker (s := State.applyAttn { s with draws := n } v) hv⟩

/-- Settles O17: RUN alone by whether it was set and the Walker IDLE; with ATTN_ENABLE, by what the two bits and placing leave alone. -/
theorem runSetStarts : Obligations.RunSetStarts := by
  refine ⟨fun s v hrest hv hreset hattn hresetting => ?_, fun s v hv hreset hresetting => ?_⟩
  · obtain ⟨hcalm, -, hroom⟩ := (s.atRest_iff 2).1 hrest
    rw [exec_runSet_run_only hreset hattn hresetting]
    refine ⟨fun hrun hidle => ?_, fun hrun hbusy => ?_, fun hrun => ?_, fun hrun hidle => ?_⟩
    · rw [applyRun_starts hv hrun hidle, offer_start (calm_setRun hcalm true) hroom]
    · rw [applyRun_waits hv hrun hbusy, offer_control_calm (calm_setRun hcalm true) rfl]
    · rw [applyRun_of_eq (hv.trans hrun.symm), offer_control_calm hcalm rfl]
    · rw [exec_heldStart_due hrun hidle, offer_start hcalm hroom]
  · obtain ⟨u, hwrite, hbeside, hrun, hattn, hwalker⟩ := runSet_taken hv hreset hresetting
    have hplacing : Placing u (u.offer .control) := offer_placing u .control
    obtain ⟨hbase, hsize, hhead, hregions, hfinalised, hgov, hfeeds, hsinks, hctxs, hqueue⟩ := hplacing.engCtrlKept hbeside
    refine ⟨_, congrArg Host.Outcome.next hwrite, hplacing.run.trans hrun, hplacing.attnEnable.trans hattn, hbase, hsize, hhead, hregions,
      hfinalised, hgov, hfeeds, hsinks, hctxs, hqueue, fun h => ?_⟩
    rw [← hwalker h]
    exact ⟨hplacing.walkerState, hplacing.walkerWanted⟩

/-! ### Stopping -/

section Stop

variable {s : State}

theorem stop_idle (h : s.walker.state = .idle) : s.stop = s := by
  rw [State.stop, h]

theorem stop_faulted (h : s.walker.state = .faulted) : s.stop = { s with walker := { s.walker with state := .idle } } := by
  rw [State.stop, h]

theorem stop_parked (h : s.walker.state = .parked) : s.stop =
    { s with port := s.port.discardFetch,
             walker := { s.walker with state := .idle, pollTimer := none, checkOwed := false, wanted := none } } := by
  rw [State.stop, h]

theorem stop_blocked (h : s.walker.state = .blocked) : s.stop = { s with walker := { s.walker with stopping := true } } := by
  rw [State.stop, h]

theorem stop_fetch (h : s.walker.state = .fetching) (hphase : s.walker.phase = .fetch) : s.stop =
    { s with port := s.port.discardFetch,
             walker := { s.walker with stopping := true, wanted := s.walker.wanted.map (fun f => { f with discard := true }) } } := by
  rw [State.stop, h, hphase]

theorem stop_held (h : s.walker.state = .fetching) (hphase : s.walker.phase = .held) :
    s.stop = { s with walker := { s.walker with stopping := true } } := by
  rw [State.stop, h, hphase]

theorem stop_link (h : s.walker.state = .fetching) (hphase : s.walker.phase = .link) :
    s.stop = { s with walker := { s.walker with state := .idle } } := by
  rw [State.stop, h, hphase]

end Stop

@[simp] theorem stop_ctl (s : State) : s.stop.ctl = s.ctl := by
  unfold State.stop
  split
  · rfl
  · rfl
  · rfl
  · rfl
  · split <;> rfl

/-- RUN_CLEAR never sets RUN, so its two bits are applied in the one order. -/
theorem writeEngCtrl_clear {s : State} {v : Word64} (hv : v.getLsbD 0 = false) (hreset : v.getLsbD 1 = false)
    (hresetting : s.ctl.resetting = false) : s.writeEngCtrl v = ((s.applyRun v).applyAttn v).offer .control :=
  writeEngCtrl_run_first hreset hresetting (by rw [State.orderMatters, hv]; rfl)

theorem exec_runClear_run_only {s : State} {v : Word64} (hreset : v.getLsbD 1 = false) (hattn : v.getLsbD 2 = s.ctl.attnEnable)
    (hresetting : s.ctl.resetting = false) : exec (.runClear v) s = .next ((s.applyRun v).offer .control) :=
  congrArg Host.Outcome.next (writeEngCtrl_run_only hreset hresetting hattn)

theorem applyRun_attention {s : State} {v : Word64} (hv : v.getLsbD 0 = false) : (s.applyRun v).ctl.attention = s.ctl.attention := by
  cases hrun : s.ctl.run with
  | false => rw [applyRun_of_eq (hv.trans hrun.symm)]
  | true => rw [applyRun_stops hv hrun, stop_ctl]

/-- The state that clearing RUN leaves a Walker in (R169). -/
def Walker.stoppedState (w : Walker) : WalkerState :=
  match w.state with
  | .idle => .idle
  | .faulted => .idle
  | .parked => .idle
  | .blocked => .blocked
  | .fetching => if w.phase = .link then .idle else .fetching

/-- A Walker that goes on until the record or the fetch it has in hand is done with (R169). -/
def Walker.finishing (w : Walker) : Bool :=
  decide (w.state = .blocked) || (decide (w.state = .fetching) && decide (w.phase ≠ .link))

theorem stop_walker (s : State) :
    s.stop.walker.state = s.walker.stoppedState ∧ s.stop.walker.stopping = (s.walker.stopping || s.walker.finishing) := by
  cases hstate : s.walker.state with
  | idle => simp [stop_idle hstate, Walker.stoppedState, Walker.finishing, hstate]
  | faulted => simp [stop_faulted hstate, Walker.stoppedState, Walker.finishing, hstate]
  | parked => simp [stop_parked hstate, Walker.stoppedState, Walker.finishing, hstate]
  | blocked => simp [stop_blocked hstate, Walker.stoppedState, Walker.finishing, hstate]
  | fetching =>
    cases hphase : s.walker.phase with
    | fetch => simp [stop_fetch hstate hphase, Walker.stoppedState, Walker.finishing, hstate, hphase]
    | held => simp [stop_held hstate hphase, Walker.stoppedState, Walker.finishing, hstate, hphase]
    | link => simp [stop_link hstate hphase, Walker.stoppedState, Walker.finishing, hstate, hphase]

/-- RUN cleared, or clear already. -/
theorem applyRun_clear_walker {s : State} {v : Word64} (hv : v.getLsbD 0 = false) :
    (s.applyRun v).walker.state = (if s.ctl.run = false then s.walker.state else s.walker.stoppedState) ∧
    (s.applyRun v).walker.stopping = (s.walker.stopping || (s.ctl.run && s.walker.finishing)) := by
  cases hrun : s.ctl.run with
  | false => simp [applyRun_of_eq (hv.trans hrun.symm)]
  | true =>
    rw [applyRun_stops hv hrun]
    exact stop_walker { s with ctl := { s.ctl with run := false } }

/-- A RUN_CLEAR that leaves ATTN_ENABLE as it stands places nothing (R169). -/
theorem exec_runClear_stops {s : State} {v : Word64} (hcalm : Calm s) (hv : v.getLsbD 0 = false) (hreset : v.getLsbD 1 = false)
    (hattn : v.getLsbD 2 = s.ctl.attnEnable) (hresetting : s.ctl.resetting = false) (hrun : s.ctl.run = true) :
    exec (.runClear v) s = .next (State.stop { s with ctl := { s.ctl with run := false } }) := by
  rw [exec_runClear_run_only hreset hattn hresetting, applyRun_stops hv hrun,
    offer_control_calm (calm_setRun hcalm false) (stop_ctl _)]

/-- Settles O18: RUN alone by the Walker's state and phase; with ATTN_ENABLE, by what the two bits and placing leave alone. -/
theorem runClearStops : Obligations.RunClearStops := by
  refine ⟨fun s v hrest hv hreset hattn hresetting => ?_, fun s v hv hreset hresetting => ?_⟩
  · obtain ⟨hcalm, -, -⟩ := (s.atRest_iff 0).1 hrest
    refine ⟨fun hrun => ?_, fun hrun => ?_⟩
    · rw [exec_runClear_run_only hreset hattn hresetting, applyRun_of_eq (hv.trans hrun.symm), offer_control_calm hcalm rfl]
    · rw [exec_runClear_stops hcalm hv hreset hattn hresetting hrun]
      refine congrArg Host.Outcome.next ?_
      cases hstate : s.walker.state with
      | idle => exact stop_idle hstate
      | faulted => exact stop_faulted hstate
      | parked => exact stop_parked hstate
      | blocked => exact stop_blocked hstate
      | fetching =>
        cases hphase : s.walker.phase with
        | fetch => exact stop_fetch hstate hphase
        | held => exact stop_held hstate hphase
        | link => exact stop_link hstate hphase
  · have hbeside : ((s.applyRun v).applyAttn v).besideEngCtrl = s.besideEngCtrl := applyRun_besideEngCtrl s v
    have hplacing := offer_placing ((s.applyRun v).applyAttn v) .control
    obtain ⟨hbase, hsize, hhead, hregions, -, hgov, hfeeds, hsinks, hctxs, hqueue⟩ := hplacing.engCtrlKept hbeside
    obtain ⟨hstate, hstopping⟩ := applyRun_clear_walker (s := s) hv
    exact ⟨_, congrArg Host.Outcome.next (writeEngCtrl_clear hv hreset hresetting), hplacing.run.trans ((applyRun_run s v).trans hv),
      hplacing.attnEnable, hplacing.attention.trans (applyRun_attention hv), hbase, hsize, hhead, hregions, hgov, hfeeds, hsinks, hctxs,
      hqueue, hplacing.walkerState.trans hstate, hplacing.walkerStopping.trans hstopping⟩

end Sys2Proof.Machine
end

section
/-! PROOFS. What the registers read and which of their writes are taken (R186, R188, R197); the ATTENTION flag, ATTN_ENABLE and the
message (R191, R192). -/

namespace Sys2Proof.Machine

/-! ### What the registers read -/

/-- A flag stands in its own bit alone. -/
theorem getLsbD_flagBit (on : Bool) {place : Nat} (hplace : place < 64) (n : Nat) :
    (flagBit on place).getLsbD n = (n == place && on) := by
  cases on with
  | false => simp [flagBit]
  | true =>
    rw [flagBit, if_pos rfl, BitVec.getLsbD_ofNat, Nat.testBit_two_pow, Bool.and_true, Bool.eq_iff_iff]
    simp only [Bool.and_eq_true, decide_eq_true_eq, beq_iff_eq]
    omega

/-- The state's code fits the three bits of its field (section 11.6). -/
theorem WalkerState.code_lt (w : WalkerState) : w.code < 2 ^ 3 := by cases w <;> decide

theorem getLsbD_walkerCode (w : WalkerState) (n : Nat) :
    (BitVec.ofNat 64 w.code).getLsbD n = (decide (n < 3) && w.code.testBit n) := by
  rw [BitVec.getLsbD_ofNat]
  by_cases hn : n < 3
  · rw [decide_eq_true hn, decide_eq_true (show n < 64 by omega)]
  · have hcode : w.code.testBit n = false :=
      Nat.testBit_lt_two_pow (w.code_lt.trans_le (Nat.pow_le_pow_right (by decide) (Nat.le_of_not_lt hn)))
    rw [hcode, Bool.and_false, Bool.and_false]

theorem getLsbD_engCtrl (s : State) (n : Nat) :
    (s.readRegister .engCtrl).getLsbD n = ((n == 0 && s.ctl.run) || (n == 2 && s.ctl.attnEnable)) := by
  rw [State.readRegister, BitVec.getLsbD_or, getLsbD_flagBit _ (by decide), getLsbD_flagBit _ (by decide)]

theorem getLsbD_engStat (s : State) (n : Nat) :
    (s.readRegister .engStat).getLsbD n =
      ((decide (n < 3) && s.walker.state.code.testBit n) || (n == 8 && s.ctl.resetting) || (n == 9 && s.ctl.attention)) := by
  rw [State.readRegister, BitVec.getLsbD_or, BitVec.getLsbD_or, getLsbD_walkerCode, getLsbD_flagBit _ (by decide),
    getLsbD_flagBit _ (by decide)]

/-! ### CHN_BASE, CHN_SIZE and CHN_HEAD -/

section ChainWrites

variable {s : State} (v : Word64)

theorem exec_registerWrite_ignored (hrun : s.ctl.run = true) (reg : ChainRegister) : exec (.registerWrite reg v) s = .next s :=
  congrArg Host.Outcome.next (if_pos hrun)

theorem exec_chnHead_ignored (hrun : s.ctl.run = true) : exec (.chnHead v) s = .next s :=
  congrArg Host.Outcome.next (if_pos hrun)

theorem exec_writeBase_taken (hrun : s.ctl.run = false) :
    exec (.registerWrite .base v) s = .next { s with ctl := { s.ctl with chnBase := v } } :=
  congrArg Host.Outcome.next (if_neg (ne_true_of_eq_false hrun))

theorem exec_writeSize_taken (hrun : s.ctl.run = false) :
    exec (.registerWrite .size v) s = .next { s with ctl := { s.ctl with chnSize := v } } :=
  congrArg Host.Outcome.next (if_neg (ne_true_of_eq_false hrun))

theorem exec_chnHead_taken (hrun : s.ctl.run = false) : exec (.chnHead v) s =
    .next { s with ctl := { s.ctl with chnHead := v }, walker := { s.walker with newHead := true } } :=
  congrArg Host.Outcome.next (if_neg (ne_true_of_eq_false hrun))

end ChainWrites

/-- Settles O15: the bits of ENG_CTRL and ENG_STAT, the registers read whole, and the three writes by RUN. -/
theorem registerAccess : Obligations.RegisterAccess :=
  ⟨fun s n => ⟨getLsbD_engCtrl s n, getLsbD_engStat s n, rfl, rfl, rfl, rfl⟩,
    fun _ v => ⟨fun hrun => ⟨exec_registerWrite_ignored v hrun .base, exec_registerWrite_ignored v hrun .size, exec_chnHead_ignored v hrun⟩,
      fun hrun => ⟨exec_writeBase_taken v hrun, exec_writeSize_taken v hrun, exec_chnHead_taken v hrun⟩⟩⟩

/-! ### A cause of attention -/

/-- A cause readies a message only when it finds ATTENTION clear and ATTN_ENABLE set (R191). -/
theorem cause_messages (c : Control) :
    c.cause.messages = c.messages + (if c.attention = false ∧ c.attnEnable = true then 1 else 0) := by
  unfold Control.cause
  cases hattention : c.attention with
  | true => simp
  | false => cases henable : c.attnEnable <;> simp

/-! ### ATTN_ENABLE -/

section Enable

/-- ATTN_ENABLE taken from clear to set while ATTENTION is set readies a message (R192). -/
theorem setAttnEnable_tells {c : Control} {on : Bool} (h : on = true ∧ c.attnEnable = false ∧ c.attention = true) :
    c.setAttnEnable on = { c with attnEnable := on, messages := c.messages + 1 } := by
  obtain ⟨hon, henable, hattention⟩ := h
  simp [Control.setAttnEnable, hon, henable, hattention]

/-- No other change of ATTN_ENABLE readies one. -/
theorem setAttnEnable_silent {c : Control} {on : Bool} (h : ¬(on = true ∧ c.attnEnable = false ∧ c.attention = true)) :
    c.setAttnEnable on = { c with attnEnable := on } := by
  have hsilent : ¬(on && !c.attnEnable && c.attention) = true := by
    simpa only [Bool.and_eq_true, Bool.not_eq_true', and_assoc] using h
  rw [Control.setAttnEnable, if_neg hsilent]

variable {s : State} {v : Word64}

/-- A write that leaves RUN as it was, or that meets RESETTING, applies ATTN_ENABLE alone (R192, R193). -/
theorem writeEngCtrl_attn_only (h : s.ctl.resetting = true ∨ (v.getLsbD 1 = false ∧ v.getLsbD 0 = s.ctl.run)) :
    s.writeEngCtrl v = (s.applyAttn v).offer .control := by
  cases hresetting : s.ctl.resetting with
  | true => rw [State.writeEngCtrl, if_pos hresetting]
  | false =>
    obtain ⟨hreset, hrun⟩ := h.resolve_left (ne_true_of_eq_false hresetting)
    have horder : s.orderMatters v = false := by
      rw [State.orderMatters, hrun, Bool.and_not_self, Bool.false_and, Bool.false_and]
    rw [writeEngCtrl_run_first hreset hresetting horder, applyRun_of_eq hrun]

/-- ATTN_ENABLE applied with nothing left over: at most the one message is placed (R192). -/
theorem offer_applyAttn (hcalm : Calm s) (hroom : s.port.writeQueue.length + 1 ≤ 64) : (s.applyAttn v).offer .control =
    { s with
      ctl := { s.ctl with attnEnable := v.getLsbD 2 }
      port := { s.port with writeQueue := s.port.writeQueue ++
        (if v.getLsbD 2 = true ∧ s.ctl.attnEnable = false ∧ s.ctl.attention = true then [s.messageWrite] else []) }
      draws := if v.getLsbD 2 = true ∧ s.ctl.attnEnable = false ∧ s.ctl.attention = true then s.draws + 1 else s.draws } := by
  by_cases htells : v.getLsbD 2 = true ∧ s.ctl.attnEnable = false ∧ s.ctl.attention = true
  · have hmessages : s.ctl.messages + 1 = 1 := by rw [hcalm.messages]
    rw [State.applyAttn, setAttnEnable_tells htells, if_pos htells, if_pos htells]
    refine (offer_control_message (by exact hcalm.line) (by exact hroom) (by exact hcalm.owed) hmessages).trans ?_
    simp only [State.enqueue, State.messageWrite, hcalm.messages]
  · rw [State.applyAttn, setAttnEnable_silent htells, if_neg htells, if_neg htells, List.append_nil]
    exact offer_none _ .control (nextWrite_control_none _ hcalm.owed hcalm.messages)

end Enable

/-! ### CLEAR_ATTENTION -/

theorem exec_clearAttention (s : State) (v : Word64) : exec (.clearAttention v) s =
    .next { s with ctl := { s.ctl with attention := if v.getLsbD 9 then false else s.ctl.attention } } := by
  show Host.Outcome.next (if v.getLsbD 9 then { s with ctl := { s.ctl with attention := false } } else s) = _
  cases v.getLsbD 9 <;> rfl

/-- Settles O19: what a cause does; a write that applies ATTN_ENABLE alone, by whether it brings a message; the clearing of the flag. -/
theorem attentionFlag : Obligations.AttentionFlag := by
  refine ⟨fun s => ⟨cause_attention s.ctl, cause_messages s.ctl, (cause_frame roleMove_rel s).programmed, cause_walker s, cause_port s,
    cause_ctxs s, cause_feeds s, cause_sinks s⟩, fun s v hrest hwrite => ?_, exec_clearAttention⟩
  obtain ⟨hcalm, -, hroom⟩ := (s.atRest_iff 1).1 hrest
  rw [exec_engCtrl rfl, writeEngCtrl_attn_only hwrite, offer_applyAttn hcalm hroom]

end Sys2Proof.Machine
end


section
/-! PROOFS. Every command completes and leaves the queue of commands waiting behind it as it is (log entry 2): composed from the frames of the
operations. -/

namespace Sys2Proof.Machine

variable {s t : State}

/-! ### The queue over one operation -/

/-- A command that is not due leaves the queue alone. -/
theorem pending_ite {c : Prop} [Decidable c] (h : t.pending = s.pending) : (if c then t else s).pending = s.pending := by
  split
  · exact h
  · rfl

theorem settle_pending (s : State) : s.settle.pending = s.pending := (settle_frame roleMove_rel s).pending

theorem offer_pending (s : State) (w : Writer) : (s.offer w).pending = s.pending := (offer_frame roleMove_rel s w).pending

/-- An event that is due leaves the queue alone, and so does its end. -/
theorem Frame.pending_ite_settle {P : Role → Role → Prop} {c : Prop} [Decidable c] (h : Frame P s t) :
    (if c then t.settle else s).pending = s.pending := pending_ite ((settle_pending t).trans h.pending)

/-! ### Records -/

theorem dispatchOpen_pending (s : State) (b : List Byte) : (s.dispatchOpen b).pending = s.pending := by
  unfold State.dispatchOpen
  split
  · rfl
  · exact (placeContext_frame roleMove_rel _ _).pending

theorem dispatchRegion_pending (s : State) (b : List Byte) : (s.dispatchRegion b).pending = s.pending := by
  unfold State.dispatchRegion
  split <;> rfl

theorem dispatchLevel_pending (s : State) (b : List Byte) : (s.dispatchLevel b).pending = s.pending := by
  unfold State.dispatchLevel
  split <;> rfl

theorem dispatch_pending (s : State) : s.dispatch.pending = s.pending := by
  unfold State.dispatch
  extract_lets b
  split
  · exact dispatchOpen_pending s b
  · exact (dispatchFeed_frame roleMove_rel s b).pending
  · exact (dispatchSink_frame roleMove_rel s b).pending
  · exact (dispatchDrop_frame roleMove_rel roleMove_allows s b).pending
  · exact (dispatchAbort_frame roleMove_rel s b).pending
  · exact dispatchRegion_pending s b
  · rfl
  · exact dispatchLevel_pending s b
  · rfl

theorem checkRecord_pending (s : State) : s.checkRecord.pending = s.pending := by
  unfold State.checkRecord
  extract_lets b
  split
  · exact (fault_frame roleMove_rel s _ _).pending
  · split
    · rfl
    · split
      · rfl
      · exact dispatch_pending s

theorem firstHalfArrived_pending (s : State) (bytes : List Byte) : (s.firstHalfArrived bytes).pending = s.pending := by
  unfold State.firstHalfArrived
  extract_lets _ s1
  split
  · split
    · rfl
    · exact (fault_frame roleMove_rel s1 _ _).pending
  · exact checkRecord_pending s1

theorem recordArrived_pending (s : State) (bytes : List Byte) : (s.recordArrived bytes).pending = s.pending := by
  unfold State.recordArrived
  refine pending_ite ?_
  split
  · rfl
  · exact (settle_pending _).trans (firstHalfArrived_pending s bytes)

theorem openTailArrived_pending (s : State) (bytes : List Byte) : (s.openTailArrived bytes).pending = s.pending := by
  unfold State.openTailArrived
  split
  · rfl
  · exact (settle_pending _).trans
      (checkRecord_pending (State.clearFetch { s with walker := { s.walker with buffer := s.walker.buffer ++ bytes } }))

/-! ### Registers, time, teardown and issue -/

theorem applyRun_pending (s : State) (v : Word64) : (s.applyRun v).pending = s.pending := by
  unfold State.applyRun
  split
  · rfl
  · split
    · extract_lets _ s1
      exact pending_ite (s := s1) (start_frame roleMove_rel s1).pending
    · exact (stop_frame roleMove_rel _).pending

/-- A write of ENG_CTRL leaves the queue alone, a soft reset among them: the queue is the model's own (R186, R193). -/
theorem writeEngCtrl_pending (s : State) (v : Word64) : (s.writeEngCtrl v).pending = s.pending := by
  unfold State.writeEngCtrl
  split
  · exact offer_pending (s.applyAttn v) _
  · split
    · rfl
    · split
      · extract_lets t
        split
        · exact (offer_pending _ _).trans (applyRun_pending (t.applyAttn v) v)
        · exact (offer_pending _ _).trans (applyRun_pending t v)
      · exact (offer_pending _ _).trans (applyRun_pending s v)

theorem tick_pending (s : State) : s.tick.pending = s.pending := by
  unfold State.tick
  extract_lets s1
  exact ((oweStale_frame _ s1).trans roleMove_rel (oweStaleReport_frame _)).pending

theorem closeContext_pending (s : State) (i : Nat) (c : Ctx) : (s.closeContext i c).pending = s.pending :=
  oweProgress_pending s i

theorem resumed_pending {i : Nat} {c : Ctx} (hc : s.ctxs.get i = some c) : (s.resumed i c).pending = s.pending :=
  calc (s.resumed i c).pending = ((s.returnCells i c).settle.closeContext i c).pending := settle_pending _
    _ = (s.returnCells i c).settle.pending := closeContext_pending _ i c
    _ = (s.returnCells i c).pending := settle_pending _
    _ = s.pending := (returnCells_frame hc).pending

theorem grant_pending (s : State) : s.grant.pending = s.pending := by
  obtain ⟨_, hgrant, -⟩ := grant_frame roleMove_rel s
  exact hgrant.pending

theorem issueOne_pending (s : State) : s.issueOne.pending = s.pending := by
  unfold State.issueOne
  split
  · rfl
  · split
    · exact (issueFetch_frame roleMove_rel s _).pending
    · split
      · next w rest hqueue =>
        exact (offer_pending _ _).trans
          ((popWrite_frame roleMove_rel s w rest hqueue).trans roleMove_rel (issueWrite_frame roleMove_rel _ w)).pending
      · split
        · exact (reissue_frame roleMove_rel _ _).pending
        · exact grant_pending s

/-! ### Every command -/

/-- No command ends in a fault or a refusal. -/
theorem exec_completes (c : Instr) (s : State) : ∃ t, exec c s = .next t := by
  cases c <;> exact ⟨_, rfl⟩

theorem exec_pending {c : Instr} (h : exec c s = .next t) : t.pending = s.pending := by
  cases c with
  | openRecord bytes =>
    cases h
    split
    · exact openTailArrived_pending s _
    · exact recordArrived_pending s _
  | feed bytes | sink bytes | drop bytes | abort bytes | region bytes | tune bytes | level bytes | badKind bytes =>
    cases h; exact recordArrived_pending s _
  | recordFetchError => cases h; exact (fetchErred_frame roleMove_rel s).pending
  | fetchDiscard => cases h; exact pending_ite (discardFetch_frame roleMove_rel s).pending
  | walkerWriteIssued => cases h; exact pending_ite ((offer_pending _ _).trans (followLink_frame roleMove_rel s).pending)
  | linkWordRead link => cases h; exact (linkRead_frame roleMove_rel s link).pending
  | pollTimer => cases h; exact pending_ite rfl
  | chnCheck value => cases h; exact (check_frame roleMove_rel s).pending
  | chnHead value => cases h; split <;> rfl
  | registerWrite reg value => cases h; cases reg <;> (split <;> rfl)
  | runSet value | runClear value | attnEnable value | softReset value => cases h; exact writeEngCtrl_pending s value
  | heldStart => cases h; exact pending_ite ((offer_pending _ _).trans (start_frame roleMove_rel s).pending)
  | clearAttention value => cases h; exact pending_ite rfl
  | fullReset => cases h; rfl
  | outstandingReturn => cases h; exact pending_ite rfl
  | tick => cases h; exact (offerReady_frame roleMove_rel _).pending.trans (tick_pending s)
  | stallExpiry slot =>
    cases h
    split
    · rfl
    · exact (takeExpiry_frame roleMove_rel s _ _ ⟨roleMove_allows.demote, roleMove_allows.promote⟩).pending_ite_settle
  | tableFull => cases h; exact pending_ite (offer_pending (s.refuseRecord _) _)
  | blockedRecheck =>
    cases h
    exact pending_ite
      ((settle_pending _).trans (recheck_frame roleMove_rel { s with walker := { s.walker with room := false } }).pending)
  | issueOpportunity => cases h; exact issueOne_pending s
  | claimLineServe => cases h; exact (serveClaims_frame roleMove_rel s).pending
  | sourceReadComplete slot data => cases h; exact (readArrived_frame roleMove_rel s _ _).pending_ite_settle
  | sourceReadError slot => cases h; exact (readErred_frame roleMove_rel s _).pending_ite_settle
  | combineComplete =>
    cases h
    split
    · rfl
    · exact (settle_pending _).trans (finishCombine_frame s _).pending
  | emitComplete =>
    cases h
    split
    · rfl
    · exact (finishEmit_frame s _).pending_ite_settle
  | solveComplete =>
    cases h
    split
    · rfl
    · exact (settle_pending _).trans (finishSolve_frame s _).pending
  | drained slot =>
    cases h
    split
    · rfl
    · exact (finaliseContext_frame s _ _).pending_ite_settle
  | teardownResume slot =>
    cases h
    split
    · rfl
    · next c hc => exact pending_ite (resumed_pending hc)

/-- Settles O55: a step is `exec` of the front command by definition, and that command completes and leaves the queue's rest. -/
theorem stepRunsFrontCommand : Obligations.StepRunsFrontCommand := by
  intro s c rest
  obtain ⟨t, hnext⟩ := exec_completes c { s with pending := rest }
  exact ⟨rfl, rfl, t, hnext, exec_pending hnext⟩

end Sys2Proof.Machine
end
